-- ==== Sys2Proof/Word.lean ====
section
/-!
DEFINITION. The machine's words: the bit vectors the manual treats as bits.
-/

namespace Sys2Proof

/-- A scalar register or a bounded pointer (R41, R70). -/
abbrev Word := BitVec 64

/-- One lane of a vector register (R17). -/
abbrev Lane := BitVec 32

/-- A vector register, a link entry or a vector payload: 32 lanes of 32 bits, lane 0 lowest (R17, R85). -/
abbrev Vec := BitVec 1024

/-- One byte of memory. -/
abbrev Byte := BitVec 8

end Sys2Proof
end

