-- ==== Sys2Proof/Config.lean ====
section
/-!
DEFINITION. Config: what the machine fixes once and for all, and the values the manual leaves free.
-/

namespace Sys2Proof.Config

/-- Bytes of one core's scratchpad (R73). -/
def spadBytes : Nat := 786432

/-- Bytes of one stack of HBM that have cells (R188). -/
def stackBytes : Nat := 64000000000

/-- Bytes of the complex store (R279). -/
def complexBytes : Nat := 262144

/-- Bytes of the B buffer (R338). -/
def bBufBytes : Nat := 262144

/-- Bytes of one die's weight store (R213). -/
def weightBytes : Nat := 402653184

/-- What a byte of memory that nothing has written reads as (L1, DESIGN CHOICE). -/
def blankByte : Byte := 0

/-- The randomiser of an attestation quote's signature (R437): a function of the signature index and the quote's bytes that depends on
the vendor's secret key, which no rule states. Free value (L13). -/
opaque quoteRandomiser : Nat → List Byte → BitVec 256

/-- A chain value of the same signature, by layer and chain (R437). Free value (L13). -/
opaque quoteChain : Nat → List Byte → Nat → Nat → BitVec 256

/-- An authentication path node of the same signature, by layer and height (R437). Free value (L13). -/
opaque quotePath : Nat → List Byte → Nat → Nat → BitVec 256

/-- Bits [37:32] of what `wsinfo` reads: six bits for a count of 64 banks, which they cannot hold (R215). Free value (L62). -/
opaque wsBanks : BitVec 6

/-- The CRC-48 and FEC bytes of a Lace flit (R415): the spec gives no polynomial. Free value (L23). -/
opaque flitCheck : List Byte → BitVec 96

/-- The header of an operation on a Lace link, by the fields it names (R415): the spec gives no layout. Free value (L23). -/
opaque laceHeader : List Nat → List Byte

/-- The receive slots, in flits, that the peer of a port advertises for a channel at training (R417). Free value (L23). -/
opaque advertised : Nat → Nat → Nat

end Sys2Proof.Config
end

