-- ==== Sys2Proof/Syntax.lean ====
section
/-!
DEFINITION. Syntax: the operands of the machine's events, and `Instr`, the one inductive of all instructions and events of the
opcode table.
-/

namespace Sys2Proof

/-- Arithmetic clocks of a die (R23), in units of 0.125 GHz times ten: named, not numbered. -/
inductive Clock where
  | ghz1_25
  | ghz1_0
  | ghz0_75
  | ghz0_625
  deriving DecidableEq, Repr

/-- One entry of a virtual function's peer table (R399). `ue` tells Ultra Ethernet from Lace; `sa` is the transport security association
of a UE entry (R419). -/
structure Peer where
  ue : Bool
  pkg : Nat
  vf : Nat
  retry : Nat
  timeout : Nat
  sa : Option (BitVec 256) := none
  deriving DecidableEq, Repr

/-- One entry of a virtual function's path table (R399). -/
structure PathEntry where
  port : Nat
  entropy : Nat
  deriving DecidableEq, Repr

/-- Where an exported window lies (R399): HBM by virtual base, or the scratchpad of a core from an offset. -/
inductive WindowHome where
  | hbm (base : Nat)
  | spad (core offset : Nat)
  deriving DecidableEq, Repr

/-- One entry of a virtual function's window table (R399). -/
structure Window where
  home : WindowHome
  length : Nat
  r : Bool
  w : Bool
  a : Bool
  deriving DecidableEq, Repr

/-- A weight-store window of a virtual function on one die: byte base in the store, size in 4 KiB blocks (R213). -/
structure WsWindow where
  die : Nat
  base : Nat
  blocks : Nat
  deriving DecidableEq, Repr

/-- What the host gives a virtual function when it creates it (R432). -/
structure VfSpec where
  vf : Nat
  quads : List Nat
  root : Nat
  key : BitVec 128
  ws : List WsWindow
  peers : List (Nat × Peer)
  paths : List (Nat × PathEntry)
  windows : List (Nat × Window)
  deriving DecidableEq, Repr

/-- A host message on a command ring (R432, R433). -/
structure HostMsg where
  vf : Nat
  core : Nat
  type : Nat
  tag : Nat
  words : List Word
  vec : Option Vec
  deriving DecidableEq, Repr

/-- The physical-function registers a host write can name (R433, R434). -/
inductive PfReg where
  | ringBase (vf ring : Nat)
  | ringCount (vf ring : Nat)
  | traceEnable (vf : Nat)
  | debugEnable (vf : Nat)
  | other (n : Nat)
  deriving DecidableEq, Repr

/-- Where the loader places one section of an object (R69): a segment slot and its virtual base; for a scratchpad section the
offset in scratchpad. -/
structure SegPlace where
  sect : Nat
  slot : Nat
  base : Nat
  deriving DecidableEq, Repr

/-- The operation a fabric packet carries (R405 to R407). -/
inductive FabOp where
  | put (data : List Byte)
  | putSw (n : Nat)
  | get (n : Nat)
  | amo (op : Nat) (operand swap : Word)
  deriving DecidableEq, Repr

/-- A fabric packet arriving at this package as target (R409): from package `pkg`, its flow, which opening of that flow it belongs to, its
sequence number and that of its operation's first packet, the target virtual function, the port it enters by, the window, its own
offset, the offset and length of its whole operation (R405), the operation, its ordered-flag bit, the flow's mode, and on UE the security
association under which its authentication tag verifies, none where it verifies under none (R419). -/
structure FabPacket where
  pkg : Nat
  flow : Nat
  opening : Nat
  seq : Nat
  first : Nat
  vf : Nat
  port : Nat
  win : Nat
  off : Nat
  base : Nat
  len : Nat
  op : FabOp
  flagged : Bool
  mode : Nat
  sa : Option (BitVec 256) := none
  deriving DecidableEq, Repr

/-- The die a packet enters at: ports 2d and 2d + 1 are die d's (R12). -/
def FabPacket.die (p : FabPacket) : Nat := p.port / 2

/-- An answer to a packet of one of this package's flows (R408, R413): the die and flow, the packet's number in the flow, and
0 for success or the failure detail of R413. -/
structure FabAck where
  die : Nat
  flow : Nat
  pkt : Nat
  detail : Nat
  deriving DecidableEq, Repr

/-- A Lace flit as received (R415): the fields of its header, its payload, whether its CRC holds after correction, and the
lanes on which the FEC corrected it. -/
structure LaceFlit where
  seq : Nat
  chan : Nat
  crReq : Nat
  crFwd : Nat
  crRep : Nat
  payload : List Byte
  crcOk : Bool
  corrected : List Nat
  deriving DecidableEq, Repr

/-- The instruction set: one constructor per row of the opcode table. The first 273 are instruction words (their fields are
the natural numbers the encoding holds, before any extension); the others are events of the machine's units, of the host and
of the environment, whose operands say which of the possible occurrences takes place. -/
inductive Instr where
  -- major 0x00
  | trap (a : Nat)  -- R268
  | brk  -- R268
  | frec (d a i : Nat)  -- R263
  | fres (d a f : Nat)  -- R263
  | fabt (d a : Nat)  -- R263
  | icinv (m a b : Nat)  -- R267
  | tlbinv (m a b : Nat)  -- R267
  -- major 0x01
  | hnop  -- R51
  | hext (i : Nat)  -- R50
  | hreg  -- R32
  | hjoin (o : Nat)  -- R119
  | hprio (n : Nat)  -- R54
  | hbank (b : Nat)  -- R51
  | hstall (n : Nat)  -- R53
  | htake (f n : Nat)  -- R51
  | hlay (i : Nat)  -- R338
  | hflag  -- R410
  | hlsend (m : Nat)  -- R375
  | htrace (i : Nat)  -- R55
  | hres (k p : Nat)  -- R51
  -- major 0x02
  | add (d a b : Nat)  -- R106
  | sub (d a b : Nat)  -- R106
  | mul (d a b : Nat)  -- R106
  | mulh (d a b : Nat)  -- R106
  | mulhn (d a b : Nat)  -- R106
  | div (d a b : Nat)  -- R107
  | divn (d a b : Nat)  -- R107
  | rem (d a b : Nat)  -- R107
  | remn (d a b : Nat)  -- R107
  | and (d a b : Nat)  -- R106
  | or (d a b : Nat)  -- R106
  | xor (d a b : Nat)  -- R106
  | andn (d a b : Nat)  -- R106
  | orn (d a b : Nat)  -- R106
  | shl (d a b : Nat)  -- R106
  | shr (d a b : Nat)  -- R106
  | sar (d a b : Nat)  -- R106
  | rol (d a b : Nat)  -- R106
  | min (d a b : Nat)  -- R106
  | max (d a b : Nat)  -- R106
  | minn (d a b : Nat)  -- R106
  | maxn (d a b : Nat)  -- R106
  | slt (d a b : Nat)  -- R106
  | sltn (d a b : Nat)  -- R106
  | seq (d a b : Nat)  -- R106
  | sne (d a b : Nat)  -- R106
  | clz (d a : Nat)  -- R106
  | ctz (d a : Nat)  -- R106
  | popc (d a : Nat)  -- R106
  | sxb (d a : Nat)  -- R106
  | sxh (d a : Nat)  -- R106
  | sxw (d a : Nat)  -- R106
  | zxb (d a : Nat)  -- R106
  | zxh (d a : Nat)  -- R106
  | zxw (d a : Nat)  -- R106
  | bfx (d a b : Nat)  -- R108
  | bfi (d a b : Nat)  -- R108
  | padd (d a b : Nat)  -- R110
  | pchk (d a b : Nat)  -- R111
  -- major 0x03
  | addi (d a i : Nat)  -- R112
  -- major 0x04
  | andi (d a i : Nat)  -- R112
  -- major 0x05
  | ori (d a i : Nat)  -- R112
  -- major 0x06
  | xori (d a i : Nat)  -- R112
  -- major 0x07
  | shli (d a n : Nat)  -- R112
  | shri (d a n : Nat)  -- R112
  | sari (d a n : Nat)  -- R112
  | roli (d a n : Nat)  -- R112
  -- major 0x08
  | slti (d a i : Nat)  -- R112
  | sltni (d a i : Nat)  -- R112
  -- major 0x09
  | ldhi (d i : Nat)  -- R49
  -- major 0x0A
  | lea (d i : Nat)  -- R113
  -- major 0x0B
  | rdsr (d r : Nat)  -- R105
  | wrsr (a r : Nat)  -- R105
  -- major 0x0C
  | beq (a b o : Nat)  -- R115
  -- major 0x0D
  | bne (a b o : Nat)  -- R115
  -- major 0x0E
  | blt (a b o : Nat)  -- R115
  -- major 0x0F
  | bge (a b o : Nat)  -- R115
  -- major 0x10
  | bltn (a b o : Nat)  -- R115
  -- major 0x11
  | bgen (a b o : Nat)  -- R115
  -- major 0x12
  | jmp (o : Nat)  -- R116
  -- major 0x13
  | jal (o : Nat)  -- R116
  -- major 0x14
  | jr (a : Nat)  -- R117
  | ret  -- R117
  | jalr (d a : Nat)  -- R117
  -- major 0x15
  | loop (a o : Nat)  -- R118
  -- major 0x16
  | ld (d b z o : Nat)  -- R192
  | lds (d b z o : Nat)  -- R192
  -- major 0x17
  | st (s b z o : Nat)  -- R192
  -- major 0x18
  | vld (v b p o : Nat)  -- R193
  | vlds (v b p s : Nat)  -- R193
  | vldb (v b p o : Nat)  -- R193
  -- major 0x19
  | vst (v b p o : Nat)  -- R193
  | vsts (v b p s : Nat)  -- R193
  -- major 0x1A
  | vgat (v b i p : Nat)  -- R194
  | vsct (v b i p : Nat)  -- R194
  -- major 0x1B
  | mget (x y z t : Nat)  -- R202
  | mgetv (y t : Nat)  -- R202
  | mput (x y z : Nat)  -- R203
  | mputR (x y z : Nat)  -- R203
  | mputv (y v : Nat)  -- R203
  | mputvR (y v : Nat)  -- R203
  -- major 0x1C
  | cpy (x y z w m : Nat)  -- R208
  | cpy2 (x y z w m : Nat)  -- R209
  | cpydl (x y z w : Nat)  -- R211
  | cpyst (x : Nat)  -- R212
  -- major 0x1D
  | swinit (x y z : Nat)  -- R206
  | swwait (x y : Nat)  -- R206
  | swget (x y : Nat)  -- R206
  | swadd (x y : Nat)  -- R206
  -- major 0x1E
  | wsld (x y z w : Nat)  -- R215
  | wsldB (x y z w : Nat)  -- R215
  | wswr (x y z w : Nat)  -- R215
  | wsinfo (x : Nat)  -- R215
  -- major 0x1F
  | fenceAcq (m s : Nat)  -- R222
  | fenceRel (m s : Nat)  -- R221
  | fenceFull (m s : Nat)  -- R227
  | fack  -- R227
  -- major 0x20
  | amoadd (d a b m o s r : Nat)  -- R231
  | amoand (d a b m o s r : Nat)  -- R231
  | amoor (d a b m o s r : Nat)  -- R231
  | amoxor (d a b m o s r : Nat)  -- R231
  | amomin (d a b m o s r : Nat)  -- R231
  | amomax (d a b m o s r : Nat)  -- R231
  | amominn (d a b m o s r : Nat)  -- R231
  | amomaxn (d a b m o s r : Nat)  -- R231
  | amoswp (d a b m o s r : Nat)  -- R231
  | amocas (d a b m o s f r : Nat)  -- R231
  -- major 0x21
  | barcfg (s a x i : Nat)  -- R235
  | barrv (s d x i : Nat)  -- R235
  | barwt (s a x i : Nat)  -- R235
  | barsy (s x i : Nat)  -- R235
  | barq (s d x i : Nat)  -- R235
  -- major 0x22
  | send (c p n t : Nat)  -- R151
  | sendv (c v n t : Nat)  -- R151
  | reply (p n t : Nat)  -- R151
  | replyv (v n t : Nat)  -- R151
  -- major 0x23
  | bind (t e c : Nat)  -- R161
  | unbind (t : Nat)  -- R162
  | done  -- R163
  | refuse  -- R164
  | msgrd (d i : Nat)  -- R165
  -- major 0x24
  | jset (a b t : Nat)  -- R175
  | arrive (a b : Nat)  -- R175
  | jget (d a : Nat)  -- R175
  -- major 0x25
  | gdef (d a : Nat)  -- R172
  | gsucc (d a b : Nat)  -- R172
  | gdone (d a : Nat)  -- R172
  | gqry (d a : Nat)  -- R172
  | gdoneHold (d a : Nat)  -- R172
  -- major 0x26
  | wput (d a b : Nat)  -- R176
  | wtake (d a b : Nat)  -- R176
  | wqcfg (d a b : Nat)  -- R176
  -- major 0x27
  | hcfg (h a s z t : Nat)  -- R178
  | hadv (h n : Nat)  -- R179
  | hadvP (h n : Nat)  -- R179
  | hget (d h : Nat)  -- R179
  -- major 0x28
  | vadd (d a b p t : Nat)  -- R135
  | vsub (d a b p t : Nat)  -- R135
  | vmul (d a b p t : Nat)  -- R135
  | vfma (d a b p t : Nat)  -- R135
  -- major 0x29
  | vmin (d a b p t : Nat)  -- R135
  | vmax (d a b p t : Nat)  -- R135
  | vabs (d a p t : Nat)  -- R135
  | vneg (d a p t : Nat)  -- R135
  -- major 0x2A
  | vand (d a b p : Nat)  -- R135
  | vor (d a b p : Nat)  -- R135
  | vxor (d a b p : Nat)  -- R135
  | vandn (d a b p : Nat)  -- R135
  -- major 0x2B
  | vshl (d a b p t : Nat)  -- R135
  | vshr (d a b p t : Nat)  -- R135
  | vsar (d a b p t : Nat)  -- R135
  | vrot (d a b p t : Nat)  -- R135
  -- major 0x2C
  | vceq (d a b p t : Nat)  -- R136
  | vcne (d a b p t : Nat)  -- R136
  | vclt (d a b p t : Nat)  -- R136
  | vcle (d a b p t : Nat)  -- R136
  -- major 0x2D
  | vmov (d a p : Nat)  -- R137
  | vsel (d a b p t : Nat)  -- R137
  | vbc (d a p t : Nat)  -- R137
  | vext (d a i t : Nat)  -- R137
  -- major 0x2E
  | vprm (d a b p : Nat)  -- R137
  | vsld (d a n p : Nat)  -- R137
  | vrev (d a p t : Nat)  -- R137
  | vzip (d a b p t : Nat)  -- R137
  -- major 0x2F
  | vrsum (d a p t : Nat)  -- R138
  | vrmax (d a p t : Nat)  -- R138
  | vrmin (d a p t : Nat)  -- R138
  | vrand (d a p t : Nat)  -- R138
  -- major 0x30
  | vrcp (d a p t : Nat)  -- R139
  | vrsq (d a p t : Nat)  -- R139
  | vsqt (d a p t : Nat)  -- R139
  | vexp (d a p t : Nat)  -- R139
  -- major 0x31
  | vlog (d a p t : Nat)  -- R139
  | vtnh (d a p t : Nat)  -- R139
  | vsgm (d a p t : Nat)  -- R139
  | vdiv (d a b p t : Nat)  -- R139
  -- major 0x32
  | vcvt (d a x p t : Nat)  -- R142
  | vcef (d a x p t : Nat)  -- R100
  | vpak (d a x p t : Nat)  -- R142
  | vunp (d a x p t : Nat)  -- R142
  -- major 0x33
  | vtki (d a k p t : Nat)  -- R143
  | vtkm (d a k p t : Nat)  -- R143
  | vtkr (d a k p t : Nat)  -- R143
  | vtkn (d a k p t : Nat)  -- R143
  -- major 0x34
  | vpop (d a p t : Nat)  -- R144
  | vclz (d a p t : Nat)  -- R144
  | vctz (d a p t : Nat)  -- R144
  | vbrv (d a p t : Nat)  -- R144
  -- major 0x35
  | cxbind (d a x : Nat)  -- R285
  | cxdrop (x : Nat)  -- R286
  | cxdropAll (x : Nat)  -- R286
  | cxinfo (d i x : Nat)  -- R287
  | kdef (k a b : Nat)  -- R288
  | kinfo (d k i : Nat)  -- R289
  | kview (d a b : Nat)  -- R290
  -- major 0x36
  | kd (d a r : Nat)  -- R296
  | kdt (d a r : Nat)  -- R296
  | kspush (k : Nat)  -- R317
  | kacc (k r : Nat)  -- R318
  | kswait (k : Nat)  -- R319
  -- major 0x37
  | kstar (d a r : Nat)  -- R299
  | kstari (d a r : Nat)  -- R299
  | kcod (d a r : Nat)  -- R299
  | kdot (s a b r : Nat)  -- R301
  -- major 0x38
  | kwedge (d a b r : Nat)  -- R302
  | kinterp (d a b r : Nat)  -- R303
  -- major 0x39
  | kadd (d a b r : Nat)  -- R304
  | ksub (d a b r : Nat)  -- R304
  | kmul (d a b r : Nat)  -- R304
  | ksc (d a s r : Nat)  -- R304
  | kmov (d a : Nat)  -- R304
  | kcvtBx (d a r : Nat)  -- R305
  | kcvtF32 (d a r : Nat)  -- R305
  | kcvtF16 (d a r : Nat)  -- R305
  | kcvtBf16 (d a r : Nat)  -- R305
  | kcvtBxFix (d a r : Nat)  -- R305
  -- major 0x3A
  | rmpoke (d a b x : Nat)  -- R325
  | rmsplit (d a b x : Nat)  -- R325
  | rmflip (d a x : Nat)  -- R325
  | rmclps (d a b x : Nat)  -- R325
  | rmcmit (d a x : Nat)  -- R326
  | kxfer (d a r : Nat)  -- R327
  -- major 0x3B
  | mmcfg (a : Nat)  -- R339
  | mmldb (a i j : Nat)  -- R341
  | mmzp (a : Nat)  -- R345
  | mmcnt (a b : Nat)  -- R343
  | mmmul (a b : Nat)  -- R346
  | mmdrn  -- R344
  | mmmrg (d a : Nat)  -- R348
  | mmclr (c : Nat)  -- R351
  | mmsta (d i : Nat)  -- R351
  -- major 0x3C
  | sacc (a b r : Nat)  -- R350
  | mmst (a b : Nat)  -- R351
  | rep (n s : Nat)  -- R355
  | repend  -- R355
  -- major 0x3D
  | lcall (o g : Nat)  -- R383
  | lret  -- R384
  | laxis (d n : Nat)  -- R385
  | laxisTag (d r f : Nat)  -- R385
  | lred (d a o n f t : Nat)  -- R386
  | lsel (d a b f n : Nat)  -- R387
  | lbc (d a f n : Nat)  -- R388
  | ltag (k n : Nat)  -- R389
  | lidx (d n : Nat)  -- R390
  -- major 0x3E
  | fopen (d a b : Nat)  -- R402
  | fclose (a : Nat)  -- R403
  | fpath (a b : Nat)  -- R403
  | fstat (d a i : Nat)  -- R404
  | rget (f a b p : Nat)  -- R406
  | rput (f a b p : Nat)  -- R406
  | ramo (f a b o : Nat)  -- R407
  | fwait (a : Nat)  -- R411
  | rputSw (f b p : Nat)  -- R406
  -- events
  | messageArrival (c : Nat) (k : Option Nat)  -- R155
  | activationStart (c : Nat)  -- R156
  | systemHandler (c : Nat)  -- R159
  | remoteOpExecute (c : Nat) (k : Option Nat)  -- R166
  | joinArrival (c : Nat) (k : Option Nat)  -- R175
  | syncWordRaise (c : Nat)  -- R205
  | mgetReply (k : Nat)  -- R202
  | memoryNodeRequest (k : Nat)  -- R195
  | writeAcknowledgement (k : Nat)  -- R219
  | pageWalk (die vf va : Nat)  -- R185
  | farReadFill (k : Nat)  -- R225
  | markerArrival (k : Nat)  -- R224
  | markerApply (die src : Nat)  -- R225
  | clockNoteArrival (k : Nat)  -- R224
  | copyJobStart (die job : Nat)  -- R210
  | copyPartLanded (die job n : Nat)  -- R208
  | copyJobMnodeStop (die job : Nat)  -- R212
  | rowActivationAlert (die : Nat)  -- R199
  | refreshPostponementDue (die : Nat)  -- R199
  | wsRefreshWindowOpen (die : Nat)  -- R214
  | wsRefreshWindowClose (die : Nat)  -- R214
  | copyRecordArrival (k : Nat)  -- R312
  | copyRecordWithdrawal (k : Nat)  -- R312
  | seamSend (c : Nat)  -- R317
  | seamArrival (k : Nat)  -- R315
  | seamArrivalResend (c : Nat)  -- R315
  | seamTimeout (c x : Nat)  -- R319
  | hstallExpiry (c x : Nat)  -- R53
  | parkedActivationSave (c : Nat)  -- R260
  | preemptBoundary (c : Nat) (x : Option Nat)  -- R265
  | preemptImmediate (c : Nat) (x : Option Nat)  -- R265
  | contextRestore (c : Nat) (x : Option Nat)  -- R265
  | coreMigration (c dst : Nat)  -- R266
  | countEngineStep (o : Nat)  -- R337
  | serviceEngineStep (o : Nat)  -- R337
  | mergeSetArrival (k : Nat)  -- R348
  | launchRegistration (vf obj : Nat) (words : Option (List Word)) (spads : List Nat)  -- R171
  | nodePlacement (die node c : Nat)  -- R167
  | nodeDispatch (die node : Nat)  -- R167
  | nodeCompletion (die node : Nat)  -- R170
  | hostMessage (m : HostMsg)  -- R432
  | vfCreate (v : VfSpec)  -- R432
  | hostDebugCommand (vf c : Nat) (ref : Word) (abort : Bool)  -- R434
  | attestationQuote (who : Nat) (nonce : BitVec 256)  -- R439
  | portModeWrite (v : BitVec 16)  -- R426
  | registerWrite (r : PfReg) (v : Nat)  -- R433
  | runClockCommand (die : Nat) (clk : Clock)  -- R435
  | holdCommand (die : Nat)  -- R435
  | keepCommand (die : Nat)  -- R435
  | offCommand (die : Nat)  -- R435
  | stackSelfRefreshCommand (die : Nat) (on : Bool)  -- R435
  | dieDrainDone (die : Nat)  -- R435
  | thermalWarning (die : Nat)  -- R436
  | thermalAlert (die : Nat)  -- R436
  | thermalTrip (die : Nat)  -- R436
  | powerGood (die : Nat) (img : List Byte)  -- R425
  | recoveryDoorbell (length : Nat)  -- R431
  | stackTrained (die : Nat)  -- R425
  | stackTrainTimeout (die : Nat)  -- R425
  | matrixCalibrated (die : Nat)  -- R425
  | portTrainingDone (port : Nat) (ok : Bool)  -- R425
  | coreReset (c : Nat)  -- R234
  | packageReset  -- R224
  | memoryNodeReset (die : Nat)  -- R200
  | fabricPacketArrival (p : FabPacket)  -- R409
  | flaggedApply (die k : Nat)  -- R410
  | fabricAckArrival (a : FabAck)  -- R408
  | rgetDataArrival (a : FabAck) (data : List Byte)  -- R406
  | ramoReply (a : FabAck) (old : Word)  -- R407
  | packetTrim (die flow pkt : Nat)  -- R412
  | flowRetryTimeout (die flow : Nat)  -- R413
  | laceFlitReceive (port : Nat) (f : LaceFlit)  -- R416
  | laceReplayRequest (port seq : Nat)  -- R416
  | laneScoreInterval (port : Nat) (counts : List Nat)  -- R418
  | readReplyArrival (k : Nat)  -- R195
  | markerAcknowledgement (k : Nat)  -- R221
  | barrierArrival (k : Nat)  -- R234
  | weightStoreLanding (die job : Nat)  -- R215
  | invalidationRequestArrival (k : Nat)  -- R267
  | memoryNodeResetRelease (die : Nat)  -- R200
  | coreResetRelease (c : Nat)  -- R153
  | powerLoss  -- R438
  | objectLoad (vf : Nat) (image : List Byte) (name : Nat) (place : List SegPlace)  -- R69
  | objectUnload (vf obj : Nat)  -- R76
  | pointerKeyReplace (vf : Nat) (key : BitVec 128)  -- R76
  | powerTransitionDone (die : Nat)  -- R435
  deriving DecidableEq, Repr

end Sys2Proof
end

