-- ==== Sys2Proof/WellFormed.lean ====
section
/-!
DEFINITION. Well-formed instructions: for every constructor that stands for a word, the checks of R40 to R49 and of its own
chapter on its fields, each with the reason it gives.
-/

namespace Sys2Proof

/-- Why a word is no instruction (R58). -/
inductive IllReason where
  | reservedMajor
  | unassignedFunction
  | unusedField
  | scalarField
  | cochainField
  | slotField
  | operandCode
  | sameHandle
  | predicateField
  | typeCode
  | roundingCode
  | selector
  | hintPayload
  | fileField
  | fieldValue
  | notAWord
  deriving DecidableEq, Repr

/-- The reason of the first check that fails. -/
def firstIll : List (Bool × IllReason) → Option IllReason
  | [] => none
  | (true, _) :: rest => firstIll rest
  | (false, r) :: _ => some r

/-- Operand codes that may stand as a destination (R43): not MSG, LIDX or 63. -/
def isDst (d : Nat) : Bool := d < 60 || d == 61

/-- A handle named as destination and as source (R44). -/
def sameHandle (d a : Nat) : Bool := d == a && 52 ≤ d && d < 60

/-- Elements of one register by (extended) type code (R46, R47, R142): f32 f16 bf16 f64 s32 n32 s16 s8 n8 n4 l4 bx n16. -/
def elemCount : Nat → Nat
  | 0 => 32
  | 1 => 64
  | 2 => 64
  | 3 => 16
  | 4 => 32
  | 5 => 32
  | 6 => 64
  | 7 => 128
  | 8 => 128
  | 9 => 256
  | 10 => 256
  | 11 => 32
  | 12 => 64
  | _ => 0

/-- A conversion from a float type to n8 or n4 is quantising (R140, R141). -/
def isQuantising (t x : Nat) : Bool := t < 4 && (x == 8 || x == 9)

/-- A register field read by file: scalar, vector, predicate, cochain (R382). -/
def fileCode (f r : Nat) : Bool :=
  match f with
  | 0 => r < 32
  | 1 => r < 48
  | 2 => r < 8
  | 3 => r < 16
  | _ => false

/-- The same field as a destination: p0 is not allowed (R382). -/
def fileDst (f r : Nat) : Bool := fileCode f r && !(f == 2 && r == 0)

/-- The file, type and operation combinations of `lred` (R386). -/
def lredCombo (f t op : Nat) : Bool :=
  op < 4 &&
  match f with
  | 0 => t == 4 || t == 5
  | 1 => t < 8 && (op < 3 || 4 ≤ t)
  | 2 => t == 0 && (op == 0 || op == 3)
  | 3 => t == 0 && op == 0
  | _ => false

/-- One check with its reason. -/
def ck (b : Bool) (r : IllReason) : Bool × IllReason := (b, r)

/-- A scalar field holds 0 to 31 (R41). -/
def ckScalar (n : Nat) : Bool × IllReason := (decide (n < 32), .scalarField)

/-- A cochain field holds 0 to 15 (R284). -/
def ckCochain (n : Nat) : Bool × IllReason := (decide (n < 16), .cochainField)

/-- A slot field holds 0 or 1 (R284). -/
def ckSlot (n : Nat) : Bool × IllReason := (decide (n < 2), .slotField)

/-- A field fits its width. -/
def ckWidth (n w : Nat) : Bool × IllReason := (decide (n < 2 ^ w), .fieldValue)

/-- A field lies below a bound. -/
def ckBelow (n m : Nat) (r : IllReason) : Bool × IllReason := (decide (n < m), r)

/-- An operand code as a source: not 63 (R43). -/
def ckSource (n : Nat) : Bool × IllReason := (decide (n < 63), .operandCode)

/-- An operand code as a destination (R43). -/
def ckDest (n : Nat) : Bool × IllReason := (isDst n, .operandCode)

/-- No handle is both destination and source, or named twice where that is forbidden (R44, R353). -/
def ckHandles (d a : Nat) : Bool × IllReason := (!sameHandle d a, .sameHandle)

/-- A type code the instruction accepts (R46). -/
def ckOneOf (t : Nat) (l : List Nat) : Bool × IllReason := (l.contains t, .typeCode)

/-- The first reason, if any, for which the term is no instruction (R58): the checks of its fields in the order its chapter
gives. An event is no instruction word. -/
def Instr.illReason : Instr → Option IllReason
  | .trap a =>
    firstIll [ckScalar a]
  | .brk => none
  | .frec d a i =>
    firstIll [ckScalar d, ckScalar a, ck ((i < 6 || 32 ≤ i)) .fieldValue, ckWidth i 6]
  | .fres d a f =>
    firstIll [ckScalar d, ckScalar a, ckScalar f]
  | .fabt d a =>
    firstIll [ckScalar d, ckScalar a]
  | .icinv m a b =>
    firstIll [ckScalar m, ckScalar a, ckScalar b]
  | .tlbinv m a b =>
    firstIll [ckScalar m, ckScalar a, ckScalar b]
  | .hnop => none
  | .hext i =>
    firstIll [ckWidth i 22]
  | .hreg => none
  | .hjoin o =>
    firstIll [ck ((0 < o && o < 2 ^ 21)) .hintPayload]
  | .hprio n =>
    firstIll [ckWidth n 3]
  | .hbank b =>
    firstIll [ckBelow b 192 .hintPayload]
  | .hstall n =>
    firstIll [ck ((0 < n && n < 256)) .hintPayload]
  | .htake f n =>
    firstIll [ckBelow f 3 .hintPayload, ck ((0 < n && n < 256)) .hintPayload]
  | .hlay i =>
    firstIll [ckWidth i 8]
  | .hflag => none
  | .hlsend m =>
    firstIll [ckWidth m 1]
  | .htrace i =>
    firstIll [ckWidth i 16]
  | .hres k p =>
    firstIll [ckWidth k 2, ckWidth p 22]
  | .add d a b =>
    firstIll [ckScalar d, ckScalar a, ckScalar b]
  | .sub d a b =>
    firstIll [ckScalar d, ckScalar a, ckScalar b]
  | .mul d a b =>
    firstIll [ckScalar d, ckScalar a, ckScalar b]
  | .mulh d a b =>
    firstIll [ckScalar d, ckScalar a, ckScalar b]
  | .mulhn d a b =>
    firstIll [ckScalar d, ckScalar a, ckScalar b]
  | .div d a b =>
    firstIll [ckScalar d, ckScalar a, ckScalar b]
  | .divn d a b =>
    firstIll [ckScalar d, ckScalar a, ckScalar b]
  | .rem d a b =>
    firstIll [ckScalar d, ckScalar a, ckScalar b]
  | .remn d a b =>
    firstIll [ckScalar d, ckScalar a, ckScalar b]
  | .and d a b =>
    firstIll [ckScalar d, ckScalar a, ckScalar b]
  | .or d a b =>
    firstIll [ckScalar d, ckScalar a, ckScalar b]
  | .xor d a b =>
    firstIll [ckScalar d, ckScalar a, ckScalar b]
  | .andn d a b =>
    firstIll [ckScalar d, ckScalar a, ckScalar b]
  | .orn d a b =>
    firstIll [ckScalar d, ckScalar a, ckScalar b]
  | .shl d a b =>
    firstIll [ckScalar d, ckScalar a, ckScalar b]
  | .shr d a b =>
    firstIll [ckScalar d, ckScalar a, ckScalar b]
  | .sar d a b =>
    firstIll [ckScalar d, ckScalar a, ckScalar b]
  | .rol d a b =>
    firstIll [ckScalar d, ckScalar a, ckScalar b]
  | .min d a b =>
    firstIll [ckScalar d, ckScalar a, ckScalar b]
  | .max d a b =>
    firstIll [ckScalar d, ckScalar a, ckScalar b]
  | .minn d a b =>
    firstIll [ckScalar d, ckScalar a, ckScalar b]
  | .maxn d a b =>
    firstIll [ckScalar d, ckScalar a, ckScalar b]
  | .slt d a b =>
    firstIll [ckScalar d, ckScalar a, ckScalar b]
  | .sltn d a b =>
    firstIll [ckScalar d, ckScalar a, ckScalar b]
  | .seq d a b =>
    firstIll [ckScalar d, ckScalar a, ckScalar b]
  | .sne d a b =>
    firstIll [ckScalar d, ckScalar a, ckScalar b]
  | .clz d a =>
    firstIll [ckScalar d, ckScalar a]
  | .ctz d a =>
    firstIll [ckScalar d, ckScalar a]
  | .popc d a =>
    firstIll [ckScalar d, ckScalar a]
  | .sxb d a =>
    firstIll [ckScalar d, ckScalar a]
  | .sxh d a =>
    firstIll [ckScalar d, ckScalar a]
  | .sxw d a =>
    firstIll [ckScalar d, ckScalar a]
  | .zxb d a =>
    firstIll [ckScalar d, ckScalar a]
  | .zxh d a =>
    firstIll [ckScalar d, ckScalar a]
  | .zxw d a =>
    firstIll [ckScalar d, ckScalar a]
  | .bfx d a b =>
    firstIll [ckScalar d, ckScalar a, ckScalar b]
  | .bfi d a b =>
    firstIll [ckScalar d, ckScalar a, ckScalar b]
  | .padd d a b =>
    firstIll [ckScalar d, ckScalar a, ckScalar b]
  | .pchk d a b =>
    firstIll [ckScalar d, ckScalar a, ckScalar b]
  | .addi d a i =>
    firstIll [ckScalar d, ckScalar a, ckWidth i 14]
  | .andi d a i =>
    firstIll [ckScalar d, ckScalar a, ckWidth i 14]
  | .ori d a i =>
    firstIll [ckScalar d, ckScalar a, ckWidth i 14]
  | .xori d a i =>
    firstIll [ckScalar d, ckScalar a, ckWidth i 14]
  | .shli d a n =>
    firstIll [ckScalar d, ckScalar a, ckWidth n 6]
  | .shri d a n =>
    firstIll [ckScalar d, ckScalar a, ckWidth n 6]
  | .sari d a n =>
    firstIll [ckScalar d, ckScalar a, ckWidth n 6]
  | .roli d a n =>
    firstIll [ckScalar d, ckScalar a, ckWidth n 6]
  | .slti d a i =>
    firstIll [ckScalar d, ckScalar a, ckWidth i 13]
  | .sltni d a i =>
    firstIll [ckScalar d, ckScalar a, ckWidth i 13]
  | .ldhi d i =>
    firstIll [ckScalar d, ckWidth i 20]
  | .lea d i =>
    firstIll [ckScalar d, ckWidth i 20]
  | .rdsr d r =>
    firstIll [ckScalar d, ckWidth r 12]
  | .wrsr a r =>
    firstIll [ckScalar a, ckWidth r 12]
  | .beq a b o =>
    firstIll [ckScalar a, ckScalar b, ckWidth o 14]
  | .bne a b o =>
    firstIll [ckScalar a, ckScalar b, ckWidth o 14]
  | .blt a b o =>
    firstIll [ckScalar a, ckScalar b, ckWidth o 14]
  | .bge a b o =>
    firstIll [ckScalar a, ckScalar b, ckWidth o 14]
  | .bltn a b o =>
    firstIll [ckScalar a, ckScalar b, ckWidth o 14]
  | .bgen a b o =>
    firstIll [ckScalar a, ckScalar b, ckWidth o 14]
  | .jmp o =>
    firstIll [ckWidth o 26]
  | .jal o =>
    firstIll [ckWidth o 26]
  | .jr a =>
    firstIll [ckScalar a, ck (a != 31) .fieldValue]
  | .ret => none
  | .jalr d a =>
    firstIll [ckScalar d, ckScalar a]
  | .loop a o =>
    firstIll [ckScalar a, ckWidth o 14]
  | .ld d b z o =>
    firstIll [ckScalar d, ckScalar b, ckWidth z 2, ckWidth o 11]
  | .lds d b z o =>
    firstIll [ckScalar d, ckScalar b, ckBelow z 3 .selector, ckWidth o 11]
  | .st s b z o =>
    firstIll [ckScalar s, ckScalar b, ckWidth z 2, ckWidth o 12]
  | .vld v b p o =>
    firstIll [ckBelow v 48 .operandCode, ckScalar b, ckWidth p 3, ckWidth o 9]
  | .vlds v b p s =>
    firstIll [ckBelow v 48 .operandCode, ckScalar b, ckScalar s, ckWidth p 3]
  | .vldb v b p o =>
    firstIll [ckBelow v 48 .operandCode, ckScalar b, ckWidth p 3, ckWidth o 9]
  | .vst v b p o =>
    firstIll [ck ((v < 48 || v == 61)) .operandCode, ckBelow v 64 .operandCode, ckScalar b, ckWidth p 3, ckWidth o 9]
  | .vsts v b p s =>
    firstIll [ck ((v < 48 || v == 61)) .operandCode, ckBelow v 64 .operandCode, ckScalar b, ckScalar s, ckWidth p 3]
  | .vgat v b i p =>
    firstIll [ckBelow v 48 .operandCode, ckScalar b, ckBelow i 48 .operandCode, ckWidth p 3]
  | .vsct v b i p =>
    firstIll [ck ((v < 48 || v == 61)) .operandCode, ckScalar b, ckBelow i 48 .operandCode, ckBelow v 64 .operandCode, ckWidth p 3]
  | .mget x y z t =>
    firstIll [ckScalar z, ckWidth x 5, ckWidth y 5, ckWidth t 8]
  | .mgetv y t =>
    firstIll [ckWidth y 5, ckWidth t 8]
  | .mput x y z =>
    firstIll [ckScalar z, ckWidth x 5, ckWidth y 5]
  | .mputR x y z =>
    firstIll [ckScalar z, ckWidth x 5, ckWidth y 5]
  | .mputv y v =>
    firstIll [ckSource v, ckWidth y 5]
  | .mputvR y v =>
    firstIll [ckSource v, ckWidth y 5]
  | .cpy x y z w m =>
    firstIll [ck ((m < 8 → m = 0)) .fieldValue, ck ((8 ≤ m → x = 0)) .unusedField, ckWidth m 4, ckWidth x 5, ckWidth y 5, ckWidth z 5, ckWidth w 5]
  | .cpy2 x y z w m =>
    firstIll [ck ((m < 8 → m = 0)) .fieldValue, ck ((8 ≤ m → x = 0)) .unusedField, ckWidth m 4, ckWidth x 5, ckWidth y 5, ckWidth z 5, ckWidth w 5]
  | .cpydl x y z w =>
    firstIll [ckWidth x 5, ckWidth y 5, ckWidth z 5, ckWidth w 5]
  | .cpyst x =>
    firstIll [ckWidth x 5]
  | .swinit x y z =>
    firstIll [ckWidth x 5, ckWidth y 5, ckWidth z 5]
  | .swwait x y =>
    firstIll [ckWidth x 5, ckWidth y 5]
  | .swget x y =>
    firstIll [ckWidth x 5, ckWidth y 5]
  | .swadd x y =>
    firstIll [ckWidth x 5, ckWidth y 5]
  | .wsld x y z w =>
    firstIll [ckWidth x 5, ckWidth y 5, ckWidth z 5, ckWidth w 5]
  | .wsldB x y z w =>
    firstIll [ckWidth x 5, ckWidth y 5, ckWidth z 5, ckWidth w 5]
  | .wswr x y z w =>
    firstIll [ckWidth x 5, ckWidth y 5, ckWidth z 5, ckWidth w 5]
  | .wsinfo x =>
    firstIll [ckWidth x 5]
  | .fenceAcq m s =>
    firstIll [ckBelow s 3 .selector, ck ((s ≠ 2 → m = 0)) .unusedField, ckWidth m 4]
  | .fenceRel m s =>
    firstIll [ckBelow s 3 .selector, ck ((s ≠ 2 → m = 0)) .unusedField, ckWidth m 4]
  | .fenceFull m s =>
    firstIll [ckBelow s 3 .selector, ck ((s ≠ 2 → m = 0)) .unusedField, ckWidth m 4]
  | .fack => none
  | .amoadd d a b m o s r =>
    firstIll [ckBelow s 3 .selector, ck ((s ≠ 2 → m = 0)) .unusedField, ckWidth m 4, ckWidth d 4, ckWidth a 4, ckWidth b 4, ckWidth o 2, ckWidth r 1]
  | .amoand d a b m o s r =>
    firstIll [ckBelow s 3 .selector, ck ((s ≠ 2 → m = 0)) .unusedField, ckWidth m 4, ckWidth d 4, ckWidth a 4, ckWidth b 4, ckWidth o 2, ckWidth r 1]
  | .amoor d a b m o s r =>
    firstIll [ckBelow s 3 .selector, ck ((s ≠ 2 → m = 0)) .unusedField, ckWidth m 4, ckWidth d 4, ckWidth a 4, ckWidth b 4, ckWidth o 2, ckWidth r 1]
  | .amoxor d a b m o s r =>
    firstIll [ckBelow s 3 .selector, ck ((s ≠ 2 → m = 0)) .unusedField, ckWidth m 4, ckWidth d 4, ckWidth a 4, ckWidth b 4, ckWidth o 2, ckWidth r 1]
  | .amomin d a b m o s r =>
    firstIll [ckBelow s 3 .selector, ck ((s ≠ 2 → m = 0)) .unusedField, ckWidth m 4, ckWidth d 4, ckWidth a 4, ckWidth b 4, ckWidth o 2, ckWidth r 1]
  | .amomax d a b m o s r =>
    firstIll [ckBelow s 3 .selector, ck ((s ≠ 2 → m = 0)) .unusedField, ckWidth m 4, ckWidth d 4, ckWidth a 4, ckWidth b 4, ckWidth o 2, ckWidth r 1]
  | .amominn d a b m o s r =>
    firstIll [ckBelow s 3 .selector, ck ((s ≠ 2 → m = 0)) .unusedField, ckWidth m 4, ckWidth d 4, ckWidth a 4, ckWidth b 4, ckWidth o 2, ckWidth r 1]
  | .amomaxn d a b m o s r =>
    firstIll [ckBelow s 3 .selector, ck ((s ≠ 2 → m = 0)) .unusedField, ckWidth m 4, ckWidth d 4, ckWidth a 4, ckWidth b 4, ckWidth o 2, ckWidth r 1]
  | .amoswp d a b m o s r =>
    firstIll [ckBelow s 3 .selector, ck ((s ≠ 2 → m = 0)) .unusedField, ckWidth m 4, ckWidth d 4, ckWidth a 4, ckWidth b 4, ckWidth o 2, ckWidth r 1]
  | .amocas d a b m o s f r =>
    firstIll [ckBelow s 3 .selector, ck ((s ≠ 2 → m = 0)) .unusedField, ckWidth m 4, ckBelow b 15 .fieldValue, ckWidth d 4, ckWidth a 4, ckWidth o 2, ckWidth f 1, ckWidth r 1]
  | .barcfg s a x i =>
    firstIll [ckWidth s 1, ckWidth a 4, ckWidth x 4, ckWidth i 9]
  | .barrv s d x i =>
    firstIll [ckWidth s 1, ckWidth d 4, ckWidth x 4, ckWidth i 9]
  | .barwt s a x i =>
    firstIll [ckWidth s 1, ckWidth a 4, ckWidth x 4, ckWidth i 9]
  | .barsy s x i =>
    firstIll [ckWidth s 1, ckWidth x 4, ckWidth i 9]
  | .barq s d x i =>
    firstIll [ckWidth s 1, ckWidth d 4, ckWidth x 4, ckWidth i 9]
  | .send c p n t =>
    firstIll [ckScalar c, ckBelow n 7 .fieldValue, ck ((n = 0 → p = 0)) .unusedField, ckScalar p, ck (p + n < 33) .fieldValue, ckWidth t 8]
  | .sendv c v n t =>
    firstIll [ckScalar c, ckBelow n 7 .fieldValue, ckSource v, ckWidth t 8]
  | .reply p n t =>
    firstIll [ckBelow n 7 .fieldValue, ck ((n = 0 → p = 0)) .unusedField, ckScalar p, ck (p + n < 33) .fieldValue, ckWidth t 8]
  | .replyv v n t =>
    firstIll [ckBelow n 7 .fieldValue, ckSource v, ckWidth t 8]
  | .bind t e c =>
    firstIll [ckScalar t, ckScalar e, ckScalar c]
  | .unbind t =>
    firstIll [ckScalar t]
  | .done => none
  | .refuse => none
  | .msgrd d i =>
    firstIll [ckScalar d, ck ((i < 9 || (16 ≤ i && i < 32))) .fieldValue]
  | .jset a b t =>
    firstIll [ckScalar a, ckScalar b, ckWidth t 8]
  | .arrive a b =>
    firstIll [ckScalar a, ckScalar b]
  | .jget d a =>
    firstIll [ckScalar d, ckScalar a]
  | .gdef d a =>
    firstIll [ckScalar d, ckScalar a]
  | .gsucc d a b =>
    firstIll [ckScalar d, ckScalar a, ckScalar b]
  | .gdone d a =>
    firstIll [ckScalar d, ckScalar a]
  | .gqry d a =>
    firstIll [ckScalar d, ckScalar a]
  | .gdoneHold d a =>
    firstIll [ckScalar d, ckScalar a]
  | .wput d a b =>
    firstIll [ckScalar d, ckScalar a, ckScalar b]
  | .wtake d a b =>
    firstIll [ckScalar d, ckScalar a, ckScalar b]
  | .wqcfg d a b =>
    firstIll [ckScalar d, ckScalar a, ckScalar b]
  | .hcfg h a s z t =>
    firstIll [ck ((52 ≤ h && h < 60)) .operandCode, ckScalar a, ckBelow z 10 .fieldValue, ckWidth s 3, ckWidth t 5]
  | .hadv h n =>
    firstIll [ck ((52 ≤ h && h < 60)) .operandCode, ck ((0 < n && n < 64)) .fieldValue]
  | .hadvP h n =>
    firstIll [ck ((52 ≤ h && h < 60)) .operandCode, ck ((0 < n && n < 64)) .fieldValue]
  | .hget d h =>
    firstIll [ckScalar d, ck ((52 ≤ h && h < 60)) .operandCode]
  | .vadd d a b p t =>
    firstIll [ckDest d, ckSource a, ckSource b, ckHandles d a, ckHandles d b, ckWidth p 3, ckWidth t 3]
  | .vsub d a b p t =>
    firstIll [ckDest d, ckSource a, ckSource b, ckHandles d a, ckHandles d b, ckWidth p 3, ckWidth t 3]
  | .vmul d a b p t =>
    firstIll [ckDest d, ckSource a, ckSource b, ckHandles d a, ckHandles d b, ckWidth p 3, ckWidth t 3]
  | .vfma d a b p t =>
    firstIll [ckDest d, ckSource a, ckSource b, ckHandles d a, ckHandles d b, ckWidth p 3, ckWidth t 3]
  | .vmin d a b p t =>
    firstIll [ckDest d, ckSource a, ckSource b, ckHandles d a, ckHandles d b, ckWidth p 3, ckWidth t 3]
  | .vmax d a b p t =>
    firstIll [ckDest d, ckSource a, ckSource b, ckHandles d a, ckHandles d b, ckWidth p 3, ckWidth t 3]
  | .vabs d a p t =>
    firstIll [ckDest d, ckSource a, ckHandles d a, ckWidth p 3, ckWidth t 3]
  | .vneg d a p t =>
    firstIll [ckDest d, ckSource a, ckHandles d a, ckWidth p 3, ckWidth t 3]
  | .vand d a b p =>
    firstIll [ckDest d, ckSource a, ckSource b, ckHandles d a, ckHandles d b, ckWidth p 3]
  | .vor d a b p =>
    firstIll [ckDest d, ckSource a, ckSource b, ckHandles d a, ckHandles d b, ckWidth p 3]
  | .vxor d a b p =>
    firstIll [ckDest d, ckSource a, ckSource b, ckHandles d a, ckHandles d b, ckWidth p 3]
  | .vandn d a b p =>
    firstIll [ckDest d, ckSource a, ckSource b, ckHandles d a, ckHandles d b, ckWidth p 3]
  | .vshl d a b p t =>
    firstIll [ckDest d, ckSource a, ckSource b, ckHandles d a, ckHandles d b, ckOneOf t [4, 5, 6, 7], ckWidth p 3]
  | .vshr d a b p t =>
    firstIll [ckDest d, ckSource a, ckSource b, ckHandles d a, ckHandles d b, ckOneOf t [4, 5, 6, 7], ckWidth p 3]
  | .vsar d a b p t =>
    firstIll [ckDest d, ckSource a, ckSource b, ckHandles d a, ckHandles d b, ckOneOf t [4, 5, 6, 7], ckWidth p 3]
  | .vrot d a b p t =>
    firstIll [ckDest d, ckSource a, ckSource b, ckHandles d a, ckHandles d b, ckOneOf t [4, 5, 6, 7], ckWidth p 3]
  | .vceq d a b p t =>
    firstIll [ck ((0 < d && d < 8)) .predicateField, ckSource a, ckSource b, ckOneOf t [0, 3, 4, 5], ckWidth p 3]
  | .vcne d a b p t =>
    firstIll [ck ((0 < d && d < 8)) .predicateField, ckSource a, ckSource b, ckOneOf t [0, 3, 4, 5], ckWidth p 3]
  | .vclt d a b p t =>
    firstIll [ck ((0 < d && d < 8)) .predicateField, ckSource a, ckSource b, ckOneOf t [0, 3, 4, 5], ckWidth p 3]
  | .vcle d a b p t =>
    firstIll [ck ((0 < d && d < 8)) .predicateField, ckSource a, ckSource b, ckOneOf t [0, 3, 4, 5], ckWidth p 3]
  | .vmov d a p =>
    firstIll [ckDest d, ckSource a, ckHandles d a, ckWidth p 3]
  | .vsel d a b p t =>
    firstIll [ckDest d, ckSource a, ckSource b, ckHandles d a, ckHandles d b, ckWidth p 3, ckWidth t 3]
  | .vbc d a p t =>
    firstIll [ckDest d, ckScalar a, ckWidth p 3, ckWidth t 3]
  | .vext d a i t =>
    firstIll [ckScalar d, ckSource a, ck (i < elemCount t) .fieldValue, ckWidth t 3]
  | .vprm d a b p =>
    firstIll [ckDest d, ckSource a, ckSource b, ckHandles d a, ckHandles d b, ckWidth p 3]
  | .vsld d a n p =>
    firstIll [ckDest d, ckSource a, ckHandles d a, ckBelow n 32 .fieldValue, ckWidth p 3]
  | .vrev d a p t =>
    firstIll [ckDest d, ckSource a, ckHandles d a, ckWidth p 3, ckWidth t 3]
  | .vzip d a b p t =>
    firstIll [ckDest d, ckSource a, ckSource b, ckHandles d a, ckHandles d b, ckWidth p 3, ckWidth t 3]
  | .vrsum d a p t =>
    firstIll [ckDest d, ckSource a, ckHandles d a, ckWidth p 3, ckWidth t 3]
  | .vrmax d a p t =>
    firstIll [ckDest d, ckSource a, ckHandles d a, ckWidth p 3, ckWidth t 3]
  | .vrmin d a p t =>
    firstIll [ckDest d, ckSource a, ckHandles d a, ckWidth p 3, ckWidth t 3]
  | .vrand d a p t =>
    firstIll [ckDest d, ckSource a, ckHandles d a, ckOneOf t [4, 5, 6, 7], ckWidth p 3]
  | .vrcp d a p t =>
    firstIll [ckDest d, ckSource a, ckHandles d a, ckOneOf t [0, 1, 2], ckWidth p 3]
  | .vrsq d a p t =>
    firstIll [ckDest d, ckSource a, ckHandles d a, ckOneOf t [0, 1, 2], ckWidth p 3]
  | .vsqt d a p t =>
    firstIll [ckDest d, ckSource a, ckHandles d a, ckOneOf t [0, 1, 2, 3], ckWidth p 3]
  | .vexp d a p t =>
    firstIll [ckDest d, ckSource a, ckHandles d a, ckOneOf t [0, 1, 2], ckWidth p 3]
  | .vlog d a p t =>
    firstIll [ckDest d, ckSource a, ckHandles d a, ckOneOf t [0, 1, 2], ckWidth p 3]
  | .vtnh d a p t =>
    firstIll [ckDest d, ckSource a, ckHandles d a, ckOneOf t [0, 1, 2], ckWidth p 3]
  | .vsgm d a p t =>
    firstIll [ckDest d, ckSource a, ckHandles d a, ckOneOf t [0, 1, 2], ckWidth p 3]
  | .vdiv d a b p t =>
    firstIll [ckDest d, ckSource a, ckSource b, ckHandles d a, ckHandles d b, ckOneOf t [0, 1, 2, 3], ckWidth p 3]
  | .vcvt d a x p t =>
    firstIll [ckDest d, ckSource a, ckBelow x 13 .typeCode, ckWidth t 3, ck ((isQuantising t x → a < 47)) .operandCode, ckHandles d a, ckWidth p 3]
  | .vcef d a x p t =>
    firstIll [ckBelow d 47 .operandCode, ckSource a, ckOneOf t [0], ckOneOf x [1, 2, 9, 11], ck ((x = 9 → a < 47)) .operandCode, ckWidth p 3]
  | .vpak d a x p t =>
    firstIll [ckDest d, ckBelow a 47 .operandCode, ckBelow x 13 .typeCode, ckWidth t 3, ck (elemCount x == 2 * elemCount t) .typeCode, ck (!isQuantising t x) .typeCode, ckWidth p 3]
  | .vunp d a x p t =>
    firstIll [ckDest d, ckSource a, ckBelow x 13 .typeCode, ckWidth t 3, ck (elemCount t == 2 * elemCount x) .typeCode, ckHandles d a, ckWidth p 3]
  | .vtki d a k p t =>
    firstIll [ckDest d, ckSource a, ckHandles d a, ckBelow k 32 .fieldValue, ckOneOf t [0, 4, 5], ckWidth p 3]
  | .vtkm d a k p t =>
    firstIll [ckDest d, ckSource a, ckHandles d a, ckBelow k 32 .fieldValue, ckOneOf t [0, 4, 5], ckWidth p 3]
  | .vtkr d a k p t =>
    firstIll [ckDest d, ckSource a, ckHandles d a, ckBelow k 32 .fieldValue, ckOneOf t [0, 4, 5], ckWidth p 3]
  | .vtkn d a k p t =>
    firstIll [ckDest d, ckSource a, ckHandles d a, ckBelow k 32 .fieldValue, ckOneOf t [0, 4, 5], ckWidth p 3]
  | .vpop d a p t =>
    firstIll [ckDest d, ckSource a, ckHandles d a, ckOneOf t [4, 5, 6, 7], ckWidth p 3]
  | .vclz d a p t =>
    firstIll [ckDest d, ckSource a, ckHandles d a, ckOneOf t [4, 5, 6, 7], ckWidth p 3]
  | .vctz d a p t =>
    firstIll [ckDest d, ckSource a, ckHandles d a, ckOneOf t [4, 5, 6, 7], ckWidth p 3]
  | .vbrv d a p t =>
    firstIll [ckDest d, ckSource a, ckHandles d a, ckOneOf t [4, 5, 6, 7], ckWidth p 3]
  | .cxbind d a x =>
    firstIll [ckScalar d, ckScalar a, ckSlot x]
  | .cxdrop x =>
    firstIll [ckSlot x]
  | .cxdropAll x =>
    firstIll [ckSlot x]
  | .cxinfo d i x =>
    firstIll [ckScalar d, ckBelow i 6 .fieldValue, ckSlot x]
  | .kdef k a b =>
    firstIll [ckCochain k, ckScalar a, ckScalar b]
  | .kinfo d k i =>
    firstIll [ckScalar d, ckCochain k, ckBelow i 3 .fieldValue]
  | .kview d a b =>
    firstIll [ckCochain d, ckCochain a, ckScalar b]
  | .kd d a r =>
    firstIll [ckBelow r 5 .roundingCode, ckWidth d 4, ckWidth a 4]
  | .kdt d a r =>
    firstIll [ckBelow r 5 .roundingCode, ckWidth d 4, ckWidth a 4]
  | .kspush k =>
    firstIll [ckWidth k 4]
  | .kacc k r =>
    firstIll [ckBelow r 5 .roundingCode, ckWidth k 4]
  | .kswait k =>
    firstIll [ckWidth k 4]
  | .kstar d a r =>
    firstIll [ckBelow r 5 .roundingCode, ckWidth d 4, ckWidth a 4]
  | .kstari d a r =>
    firstIll [ckBelow r 5 .roundingCode, ckWidth d 4, ckWidth a 4]
  | .kcod d a r =>
    firstIll [ckBelow r 5 .roundingCode, ckWidth d 4, ckWidth a 4]
  | .kdot s a b r =>
    firstIll [ckBelow r 5 .roundingCode, ckWidth s 4, ckWidth a 4, ckWidth b 4]
  | .kwedge d a b r =>
    firstIll [ckBelow r 5 .roundingCode, ckWidth d 4, ckWidth a 4, ckWidth b 4]
  | .kinterp d a b r =>
    firstIll [ckBelow r 5 .roundingCode, ckWidth d 4, ckWidth a 4, ckWidth b 4]
  | .kadd d a b r =>
    firstIll [ckBelow r 5 .roundingCode, ckWidth d 4, ckWidth a 4, ckWidth b 4]
  | .ksub d a b r =>
    firstIll [ckBelow r 5 .roundingCode, ckWidth d 4, ckWidth a 4, ckWidth b 4]
  | .kmul d a b r =>
    firstIll [ckBelow r 5 .roundingCode, ckWidth d 4, ckWidth a 4, ckWidth b 4]
  | .ksc d a s r =>
    firstIll [ckBelow r 5 .roundingCode, ckWidth d 4, ckWidth a 4, ckWidth s 4]
  | .kmov d a =>
    firstIll [ckWidth d 4, ckWidth a 4]
  | .kcvtBx d a r =>
    firstIll [ckBelow r 5 .roundingCode, ckWidth d 4, ckWidth a 4]
  | .kcvtF32 d a r =>
    firstIll [ckBelow r 5 .roundingCode, ckWidth d 4, ckWidth a 4]
  | .kcvtF16 d a r =>
    firstIll [ckBelow r 5 .roundingCode, ckWidth d 4, ckWidth a 4]
  | .kcvtBf16 d a r =>
    firstIll [ckBelow r 5 .roundingCode, ckWidth d 4, ckWidth a 4]
  | .kcvtBxFix d a r =>
    firstIll [ckBelow r 5 .roundingCode, ckWidth d 4, ckWidth a 4]
  | .rmpoke d a b x =>
    firstIll [ckScalar d, ckScalar a, ckScalar b, ckWidth x 1]
  | .rmsplit d a b x =>
    firstIll [ckScalar d, ckScalar a, ckScalar b, ckWidth x 1]
  | .rmflip d a x =>
    firstIll [ckScalar d, ckScalar a, ckWidth x 1]
  | .rmclps d a b x =>
    firstIll [ckScalar d, ckScalar a, ckScalar b, ckWidth x 1]
  | .rmcmit d a x =>
    firstIll [ckScalar d, ckScalar a, ckWidth x 1]
  | .kxfer d a r =>
    firstIll [ckCochain d, ckCochain a, ckBelow r 5 .roundingCode]
  | .mmcfg a =>
    firstIll [ckScalar a]
  | .mmldb a i j =>
    firstIll [ckScalar a, ckWidth i 6, ckWidth j 2]
  | .mmzp a =>
    firstIll [ckScalar a]
  | .mmcnt a b =>
    firstIll [ckSource a, ckSource b, ckHandles a b]
  | .mmmul a b =>
    firstIll [ckSource a, ckSource b, ckHandles a b]
  | .mmdrn => none
  | .mmmrg d a =>
    firstIll [ckScalar d, ckScalar a]
  | .mmclr c =>
    firstIll [ck ((0 < c && c < 16)) .fieldValue]
  | .mmsta d i =>
    firstIll [ckScalar d, ckBelow i 2 .fieldValue]
  | .sacc a b r =>
    firstIll [ckScalar a, ckScalar b, ckBelow r 5 .roundingCode]
  | .mmst a b =>
    firstIll [ckScalar a, ckScalar b]
  | .rep n s =>
    firstIll [ck ((0 < n && n < 4096)) .fieldValue, ckWidth s 6]
  | .repend => none
  | .lcall o g =>
    firstIll [ckWidth o 18, ckWidth g 2]
  | .lret => none
  | .laxis d n =>
    firstIll [ckScalar d, ckWidth n 2]
  | .laxisTag d r f =>
    firstIll [ckScalar d, ck (fileCode f r) .fileField, ckWidth r 6, ckWidth f 2]
  | .lred d a o n f t =>
    firstIll [ck (fileDst f d) .fileField, ck (fileCode f a) .fileField, ck (lredCombo f t o) .typeCode, ckWidth d 6, ckWidth a 6, ckWidth o 2, ckWidth n 2, ckWidth f 2, ckWidth t 3]
  | .lsel d a b f n =>
    firstIll [ck (fileDst f d) .fileField, ck (fileCode f a) .fileField, ckScalar b, ckWidth d 6, ckWidth a 6, ckWidth f 2, ckWidth n 2]
  | .lbc d a f n =>
    firstIll [ck (fileDst f d) .fileField, ck (fileCode f a) .fileField, ckWidth d 6, ckWidth a 6, ckWidth f 2, ckWidth n 2]
  | .ltag k n =>
    firstIll [ckCochain k, ckWidth n 2]
  | .lidx d n =>
    firstIll [ckScalar d, ckWidth n 2]
  | .fopen d a b =>
    firstIll [ckScalar d, ckScalar a, ckScalar b]
  | .fclose a =>
    firstIll [ckScalar a]
  | .fpath a b =>
    firstIll [ckScalar a, ckScalar b]
  | .fstat d a i =>
    firstIll [ckScalar d, ckScalar a, ck ((i < 9 || (16 ≤ i && i < 24))) .fieldValue]
  | .rget f a b p =>
    firstIll [ckScalar f, ckScalar a, ckScalar b, ck ((p < 8 → p = 0)) .unusedField, ckWidth p 4]
  | .rput f a b p =>
    firstIll [ckScalar f, ckScalar a, ckScalar b, ck ((p < 8 → p = 0)) .unusedField, ckWidth p 4]
  | .ramo f a b o =>
    firstIll [ckScalar f, ckScalar a, ckScalar b, ckBelow o 10 .fieldValue]
  | .fwait a =>
    firstIll [ckScalar a]
  | .rputSw f b p =>
    firstIll [ckScalar f, ckScalar b, ck ((p < 8 → p = 0)) .unusedField, ckWidth p 4]
  | .messageArrival _ _ => some .notAWord
  | .activationStart _ => some .notAWord
  | .systemHandler _ => some .notAWord
  | .remoteOpExecute _ _ => some .notAWord
  | .joinArrival _ _ => some .notAWord
  | .syncWordRaise _ => some .notAWord
  | .mgetReply _ => some .notAWord
  | .memoryNodeRequest _ => some .notAWord
  | .writeAcknowledgement _ => some .notAWord
  | .pageWalk _ _ _ => some .notAWord
  | .farReadFill _ => some .notAWord
  | .markerArrival _ => some .notAWord
  | .markerApply _ _ => some .notAWord
  | .clockNoteArrival _ => some .notAWord
  | .copyJobStart _ _ => some .notAWord
  | .copyPartLanded _ _ _ => some .notAWord
  | .copyJobMnodeStop _ _ => some .notAWord
  | .rowActivationAlert _ => some .notAWord
  | .refreshPostponementDue _ => some .notAWord
  | .wsRefreshWindowOpen _ => some .notAWord
  | .wsRefreshWindowClose _ => some .notAWord
  | .copyRecordArrival _ => some .notAWord
  | .copyRecordWithdrawal _ => some .notAWord
  | .seamSend _ => some .notAWord
  | .seamArrival _ => some .notAWord
  | .seamArrivalResend _ => some .notAWord
  | .seamTimeout _ _ => some .notAWord
  | .hstallExpiry _ _ => some .notAWord
  | .parkedActivationSave _ => some .notAWord
  | .preemptBoundary _ _ => some .notAWord
  | .preemptImmediate _ _ => some .notAWord
  | .contextRestore _ _ => some .notAWord
  | .coreMigration _ _ => some .notAWord
  | .countEngineStep _ => some .notAWord
  | .serviceEngineStep _ => some .notAWord
  | .mergeSetArrival _ => some .notAWord
  | .launchRegistration _ _ _ _ => some .notAWord
  | .nodePlacement _ _ _ => some .notAWord
  | .nodeDispatch _ _ => some .notAWord
  | .nodeCompletion _ _ => some .notAWord
  | .hostMessage _ => some .notAWord
  | .vfCreate _ => some .notAWord
  | .hostDebugCommand _ _ _ _ => some .notAWord
  | .attestationQuote _ _ => some .notAWord
  | .portModeWrite _ => some .notAWord
  | .registerWrite _ _ => some .notAWord
  | .runClockCommand _ _ => some .notAWord
  | .holdCommand _ => some .notAWord
  | .keepCommand _ => some .notAWord
  | .offCommand _ => some .notAWord
  | .stackSelfRefreshCommand _ _ => some .notAWord
  | .dieDrainDone _ => some .notAWord
  | .thermalWarning _ => some .notAWord
  | .thermalAlert _ => some .notAWord
  | .thermalTrip _ => some .notAWord
  | .powerGood _ _ => some .notAWord
  | .recoveryDoorbell _ => some .notAWord
  | .stackTrained _ => some .notAWord
  | .stackTrainTimeout _ => some .notAWord
  | .matrixCalibrated _ => some .notAWord
  | .portTrainingDone _ _ => some .notAWord
  | .coreReset _ => some .notAWord
  | .packageReset => some .notAWord
  | .memoryNodeReset _ => some .notAWord
  | .fabricPacketArrival _ => some .notAWord
  | .flaggedApply _ _ => some .notAWord
  | .fabricAckArrival _ => some .notAWord
  | .rgetDataArrival _ _ => some .notAWord
  | .ramoReply _ _ => some .notAWord
  | .packetTrim _ _ _ => some .notAWord
  | .flowRetryTimeout _ _ => some .notAWord
  | .laceFlitReceive _ _ => some .notAWord
  | .laceReplayRequest _ _ => some .notAWord
  | .laneScoreInterval _ _ => some .notAWord
  | .readReplyArrival _ => some .notAWord
  | .markerAcknowledgement _ => some .notAWord
  | .barrierArrival _ => some .notAWord
  | .weightStoreLanding _ _ => some .notAWord
  | .invalidationRequestArrival _ => some .notAWord
  | .memoryNodeResetRelease _ => some .notAWord
  | .coreResetRelease _ => some .notAWord
  | .powerLoss => some .notAWord
  | .objectLoad _ _ _ _ => some .notAWord
  | .objectUnload _ _ => some .notAWord
  | .pointerKeyReplace _ _ => some .notAWord
  | .powerTransitionDone _ => some .notAWord

/-- A well-formed instruction: a term that some word encodes. -/
def Instr.wf (i : Instr) : Bool := i.illReason == none

/-- An instruction word, as opposed to an event. -/
def Instr.isEvent (i : Instr) : Bool := i.illReason == some .notAWord

end Sys2Proof
end

