-- ==== Sys2Proof/Decode.lean ====
section
/-!
DEFINITION. Decoding and encoding of instruction words (R38 to R60 and the encodings of the class chapters). The decoder is
total and rejects by name; the encoder stands after it.
-/

namespace Sys2Proof

/-- `n` bits of `w` from bit `lo` upward. -/
def bits (w lo n : Nat) : Nat := w / 2 ^ lo % 2 ^ n

/-- One row of the encoding: the fields that must hold a fixed value (unused fields hold 0, R40), then the checks of the
instruction's own fields. -/
def row (fixed : List (Nat × Nat)) (i : Instr) : Except IllReason Instr :=
  if fixed.all (fun p => p.1 == p.2) then
    match i.illReason with
    | none => .ok i
    | some r => .error r
  else .error .unusedField

/-- Major 0x00. -/
def decode00 (w : Nat) : Except IllReason Instr :=
  match bits w 0 8 with
  | 0 => row [(bits w 8 6, 0), (bits w 20 6, 0)] (.trap (bits w 14 6))
  | 1 => row [(bits w 8 18, 0)] (.brk)
  | 8 => row [] (.frec (bits w 20 6) (bits w 14 6) (bits w 8 6))
  | 9 => row [] (.fres (bits w 20 6) (bits w 14 6) (bits w 8 6))
  | 10 => row [(bits w 8 6, 0)] (.fabt (bits w 20 6) (bits w 14 6))
  | 16 => row [] (.icinv (bits w 20 6) (bits w 14 6) (bits w 8 6))
  | 17 => row [] (.tlbinv (bits w 20 6) (bits w 14 6) (bits w 8 6))
  | _ => .error .unassignedFunction

/-- Major 0x01. -/
def decode01 (w : Nat) : Except IllReason Instr :=
  match bits w 22 4 with
  | 0 => row [(bits w 0 22, 0)] (.hnop)
  | 1 => row [] (.hext (bits w 0 22))
  | 2 => row [(bits w 0 22, 0)] (.hreg)
  | 3 => row [] (.hjoin (bits w 0 22))
  | 4 => row [(bits w 3 19, 0)] (.hprio (bits w 0 3))
  | 5 => row [(bits w 8 14, 0)] (.hbank (bits w 0 8))
  | 6 => row [(bits w 8 14, 0)] (.hstall (bits w 0 8))
  | 7 => row [(bits w 10 12, 0)] (.htake (bits w 8 2) (bits w 0 8))
  | 8 => row [(bits w 8 14, 0)] (.hlay (bits w 0 8))
  | 9 => row [(bits w 0 22, 1)] (.hflag)
  | 10 => row [(bits w 1 21, 0)] (.hlsend (bits w 0 1))
  | 11 => row [(bits w 16 6, 0)] (.htrace (bits w 0 16))
  | 12 => row [] (.hres (bits w 22 2) (bits w 0 22))
  | 13 => row [] (.hres (bits w 22 2) (bits w 0 22))
  | 14 => row [] (.hres (bits w 22 2) (bits w 0 22))
  | 15 => row [] (.hres (bits w 22 2) (bits w 0 22))
  | _ => .error .unassignedFunction

/-- Major 0x02. -/
def decode02 (w : Nat) : Except IllReason Instr :=
  match bits w 0 8 with
  | 0 => row [] (.add (bits w 20 6) (bits w 14 6) (bits w 8 6))
  | 1 => row [] (.sub (bits w 20 6) (bits w 14 6) (bits w 8 6))
  | 2 => row [] (.mul (bits w 20 6) (bits w 14 6) (bits w 8 6))
  | 3 => row [] (.mulh (bits w 20 6) (bits w 14 6) (bits w 8 6))
  | 4 => row [] (.mulhn (bits w 20 6) (bits w 14 6) (bits w 8 6))
  | 5 => row [] (.div (bits w 20 6) (bits w 14 6) (bits w 8 6))
  | 6 => row [] (.divn (bits w 20 6) (bits w 14 6) (bits w 8 6))
  | 7 => row [] (.rem (bits w 20 6) (bits w 14 6) (bits w 8 6))
  | 8 => row [] (.remn (bits w 20 6) (bits w 14 6) (bits w 8 6))
  | 16 => row [] (.and (bits w 20 6) (bits w 14 6) (bits w 8 6))
  | 17 => row [] (.or (bits w 20 6) (bits w 14 6) (bits w 8 6))
  | 18 => row [] (.xor (bits w 20 6) (bits w 14 6) (bits w 8 6))
  | 19 => row [] (.andn (bits w 20 6) (bits w 14 6) (bits w 8 6))
  | 20 => row [] (.orn (bits w 20 6) (bits w 14 6) (bits w 8 6))
  | 24 => row [] (.shl (bits w 20 6) (bits w 14 6) (bits w 8 6))
  | 25 => row [] (.shr (bits w 20 6) (bits w 14 6) (bits w 8 6))
  | 26 => row [] (.sar (bits w 20 6) (bits w 14 6) (bits w 8 6))
  | 27 => row [] (.rol (bits w 20 6) (bits w 14 6) (bits w 8 6))
  | 32 => row [] (.min (bits w 20 6) (bits w 14 6) (bits w 8 6))
  | 33 => row [] (.max (bits w 20 6) (bits w 14 6) (bits w 8 6))
  | 34 => row [] (.minn (bits w 20 6) (bits w 14 6) (bits w 8 6))
  | 35 => row [] (.maxn (bits w 20 6) (bits w 14 6) (bits w 8 6))
  | 36 => row [] (.slt (bits w 20 6) (bits w 14 6) (bits w 8 6))
  | 37 => row [] (.sltn (bits w 20 6) (bits w 14 6) (bits w 8 6))
  | 38 => row [] (.seq (bits w 20 6) (bits w 14 6) (bits w 8 6))
  | 39 => row [] (.sne (bits w 20 6) (bits w 14 6) (bits w 8 6))
  | 40 => row [(bits w 8 6, 0)] (.clz (bits w 20 6) (bits w 14 6))
  | 41 => row [(bits w 8 6, 0)] (.ctz (bits w 20 6) (bits w 14 6))
  | 42 => row [(bits w 8 6, 0)] (.popc (bits w 20 6) (bits w 14 6))
  | 48 => row [(bits w 8 6, 0)] (.sxb (bits w 20 6) (bits w 14 6))
  | 49 => row [(bits w 8 6, 0)] (.sxh (bits w 20 6) (bits w 14 6))
  | 50 => row [(bits w 8 6, 0)] (.sxw (bits w 20 6) (bits w 14 6))
  | 51 => row [(bits w 8 6, 0)] (.zxb (bits w 20 6) (bits w 14 6))
  | 52 => row [(bits w 8 6, 0)] (.zxh (bits w 20 6) (bits w 14 6))
  | 53 => row [(bits w 8 6, 0)] (.zxw (bits w 20 6) (bits w 14 6))
  | 56 => row [] (.bfx (bits w 20 6) (bits w 14 6) (bits w 8 6))
  | 57 => row [] (.bfi (bits w 20 6) (bits w 14 6) (bits w 8 6))
  | 60 => row [] (.padd (bits w 20 6) (bits w 14 6) (bits w 8 6))
  | 61 => row [] (.pchk (bits w 20 6) (bits w 14 6) (bits w 8 6))
  | _ => .error .unassignedFunction

/-- Major 0x03. -/
def decode03 (w : Nat) : Except IllReason Instr :=
  row [] (.addi (bits w 20 6) (bits w 14 6) (bits w 0 14))

/-- Major 0x04. -/
def decode04 (w : Nat) : Except IllReason Instr :=
  row [] (.andi (bits w 20 6) (bits w 14 6) (bits w 0 14))

/-- Major 0x05. -/
def decode05 (w : Nat) : Except IllReason Instr :=
  row [] (.ori (bits w 20 6) (bits w 14 6) (bits w 0 14))

/-- Major 0x06. -/
def decode06 (w : Nat) : Except IllReason Instr :=
  row [] (.xori (bits w 20 6) (bits w 14 6) (bits w 0 14))

/-- Major 0x07. -/
def decode07 (w : Nat) : Except IllReason Instr :=
  match bits w 12 2 with
  | 0 => row [(bits w 6 6, 0)] (.shli (bits w 20 6) (bits w 14 6) (bits w 0 6))
  | 1 => row [(bits w 6 6, 0)] (.shri (bits w 20 6) (bits w 14 6) (bits w 0 6))
  | 2 => row [(bits w 6 6, 0)] (.sari (bits w 20 6) (bits w 14 6) (bits w 0 6))
  | 3 => row [(bits w 6 6, 0)] (.roli (bits w 20 6) (bits w 14 6) (bits w 0 6))
  | _ => .error .unassignedFunction

/-- Major 0x08. -/
def decode08 (w : Nat) : Except IllReason Instr :=
  match bits w 13 1 with
  | 0 => row [] (.slti (bits w 20 6) (bits w 14 6) (bits w 0 13))
  | 1 => row [] (.sltni (bits w 20 6) (bits w 14 6) (bits w 0 13))
  | _ => .error .unassignedFunction

/-- Major 0x09. -/
def decode09 (w : Nat) : Except IllReason Instr :=
  row [] (.ldhi (bits w 20 6) (bits w 0 20))

/-- Major 0x0A. -/
def decode0A (w : Nat) : Except IllReason Instr :=
  row [] (.lea (bits w 20 6) (bits w 0 20))

/-- Major 0x0B. -/
def decode0B (w : Nat) : Except IllReason Instr :=
  match bits w 12 2 with
  | 0 => row [(bits w 14 6, 0)] (.rdsr (bits w 20 6) (bits w 0 12))
  | 1 => row [(bits w 20 6, 0)] (.wrsr (bits w 14 6) (bits w 0 12))
  | _ => .error .unassignedFunction

/-- Major 0x0C. -/
def decode0C (w : Nat) : Except IllReason Instr :=
  row [] (.beq (bits w 20 6) (bits w 14 6) (bits w 0 14))

/-- Major 0x0D. -/
def decode0D (w : Nat) : Except IllReason Instr :=
  row [] (.bne (bits w 20 6) (bits w 14 6) (bits w 0 14))

/-- Major 0x0E. -/
def decode0E (w : Nat) : Except IllReason Instr :=
  row [] (.blt (bits w 20 6) (bits w 14 6) (bits w 0 14))

/-- Major 0x0F. -/
def decode0F (w : Nat) : Except IllReason Instr :=
  row [] (.bge (bits w 20 6) (bits w 14 6) (bits w 0 14))

/-- Major 0x10. -/
def decode10 (w : Nat) : Except IllReason Instr :=
  row [] (.bltn (bits w 20 6) (bits w 14 6) (bits w 0 14))

/-- Major 0x11. -/
def decode11 (w : Nat) : Except IllReason Instr :=
  row [] (.bgen (bits w 20 6) (bits w 14 6) (bits w 0 14))

/-- Major 0x12. -/
def decode12 (w : Nat) : Except IllReason Instr :=
  row [] (.jmp (bits w 0 26))

/-- Major 0x13. -/
def decode13 (w : Nat) : Except IllReason Instr :=
  row [] (.jal (bits w 0 26))

/-- Major 0x14. -/
def decode14 (w : Nat) : Except IllReason Instr :=
  match bits w 0 8 with
  | 0 => if bits w 14 6 = 31 then row [(bits w 8 18, 1984)] (.ret) else row [(bits w 8 6, 0), (bits w 20 6, 0)] (.jr (bits w 14 6))
  | 1 => row [(bits w 8 6, 0)] (.jalr (bits w 20 6) (bits w 14 6))
  | _ => .error .unassignedFunction

/-- Major 0x15. -/
def decode15 (w : Nat) : Except IllReason Instr :=
  row [(bits w 14 6, 0)] (.loop (bits w 20 6) (bits w 0 14))

/-- Major 0x16. -/
def decode16 (w : Nat) : Except IllReason Instr :=
  match bits w 11 1 with
  | 0 => row [] (.ld (bits w 20 6) (bits w 14 6) (bits w 12 2) (bits w 0 11))
  | 1 => row [] (.lds (bits w 20 6) (bits w 14 6) (bits w 12 2) (bits w 0 11))
  | _ => .error .unassignedFunction

/-- Major 0x17. -/
def decode17 (w : Nat) : Except IllReason Instr :=
  row [] (.st (bits w 20 6) (bits w 14 6) (bits w 12 2) (bits w 0 12))

/-- Major 0x18. -/
def decode18 (w : Nat) : Except IllReason Instr :=
  match bits w 12 2 with
  | 0 => row [] (.vld (bits w 20 6) (bits w 14 6) (bits w 9 3) (bits w 0 9))
  | 1 => row [(bits w 0 3, 0)] (.vlds (bits w 20 6) (bits w 14 6) (bits w 9 3) (bits w 3 6))
  | 2 => row [] (.vldb (bits w 20 6) (bits w 14 6) (bits w 9 3) (bits w 0 9))
  | _ => .error .unassignedFunction

/-- Major 0x19. -/
def decode19 (w : Nat) : Except IllReason Instr :=
  match bits w 12 2 with
  | 0 => row [] (.vst (bits w 20 6) (bits w 14 6) (bits w 9 3) (bits w 0 9))
  | 1 => row [(bits w 0 3, 0)] (.vsts (bits w 20 6) (bits w 14 6) (bits w 9 3) (bits w 3 6))
  | _ => .error .unassignedFunction

/-- Major 0x1A. -/
def decode1A (w : Nat) : Except IllReason Instr :=
  match bits w 0 1 with
  | 0 => row [(bits w 1 4, 0)] (.vgat (bits w 20 6) (bits w 14 6) (bits w 8 6) (bits w 5 3))
  | 1 => row [(bits w 1 4, 0)] (.vsct (bits w 20 6) (bits w 14 6) (bits w 8 6) (bits w 5 3))
  | _ => .error .unassignedFunction

/-- Major 0x1B. -/
def decode1B (w : Nat) : Except IllReason Instr :=
  match bits w 24 2 with
  | 0 => row [] (.mget (bits w 19 5) (bits w 14 5) (bits w 8 6) (bits w 0 8))
  | 1 => row [(bits w 8 6, 0), (bits w 19 5, 0)] (.mgetv (bits w 14 5) (bits w 0 8))
  | 2 => match bits w 0 1 with
    | 0 => row [(bits w 1 7, 0)] (.mput (bits w 19 5) (bits w 14 5) (bits w 8 6))
    | 1 => row [(bits w 1 7, 0)] (.mputR (bits w 19 5) (bits w 14 5) (bits w 8 6))
    | _ => .error .unassignedFunction
  | 3 => match bits w 0 1 with
    | 0 => row [(bits w 1 7, 0), (bits w 19 5, 0)] (.mputv (bits w 14 5) (bits w 8 6))
    | 1 => row [(bits w 1 7, 0), (bits w 19 5, 0)] (.mputvR (bits w 14 5) (bits w 8 6))
    | _ => .error .unassignedFunction
  | _ => .error .unassignedFunction

/-- Major 0x1C. -/
def decode1C (w : Nat) : Except IllReason Instr :=
  match bits w 24 2 with
  | 0 => row [] (.cpy (bits w 19 5) (bits w 14 5) (bits w 9 5) (bits w 4 5) (bits w 0 4))
  | 1 => row [] (.cpy2 (bits w 19 5) (bits w 14 5) (bits w 9 5) (bits w 4 5) (bits w 0 4))
  | 2 => row [(bits w 0 4, 0)] (.cpydl (bits w 19 5) (bits w 14 5) (bits w 9 5) (bits w 4 5))
  | 3 => row [(bits w 0 19, 0)] (.cpyst (bits w 19 5))
  | _ => .error .unassignedFunction

/-- Major 0x1D. -/
def decode1D (w : Nat) : Except IllReason Instr :=
  match bits w 24 2 with
  | 0 => row [(bits w 0 9, 0)] (.swinit (bits w 19 5) (bits w 14 5) (bits w 9 5))
  | 1 => row [(bits w 0 14, 0)] (.swwait (bits w 19 5) (bits w 14 5))
  | 2 => row [(bits w 0 14, 0)] (.swget (bits w 19 5) (bits w 14 5))
  | 3 => row [(bits w 0 14, 0)] (.swadd (bits w 19 5) (bits w 14 5))
  | _ => .error .unassignedFunction

/-- Major 0x1E. -/
def decode1E (w : Nat) : Except IllReason Instr :=
  match bits w 24 2 with
  | 0 => match bits w 0 1 with
    | 0 => row [(bits w 1 3, 0)] (.wsld (bits w 19 5) (bits w 14 5) (bits w 9 5) (bits w 4 5))
    | 1 => row [(bits w 1 3, 0)] (.wsldB (bits w 19 5) (bits w 14 5) (bits w 9 5) (bits w 4 5))
    | _ => .error .unassignedFunction
  | 1 => row [(bits w 0 4, 0)] (.wswr (bits w 19 5) (bits w 14 5) (bits w 9 5) (bits w 4 5))
  | 2 => row [(bits w 0 19, 0)] (.wsinfo (bits w 19 5))
  | _ => .error .unassignedFunction

/-- Major 0x1F. -/
def decode1F (w : Nat) : Except IllReason Instr :=
  match bits w 6 4 with
  | 0 => match bits w 4 2 with
    | 1 => row [(bits w 0 2, 0), (bits w 14 12, 0)] (.fenceAcq (bits w 10 4) (bits w 2 2))
    | 2 => row [(bits w 0 2, 0), (bits w 14 12, 0)] (.fenceRel (bits w 10 4) (bits w 2 2))
    | 3 => row [(bits w 0 2, 0), (bits w 14 12, 0)] (.fenceFull (bits w 10 4) (bits w 2 2))
    | _ => .error .unassignedFunction
  | 1 => row [(bits w 0 6, 0), (bits w 10 16, 0)] (.fack)
  | _ => .error .unassignedFunction

/-- Major 0x20. -/
def decode20 (w : Nat) : Except IllReason Instr :=
  match bits w 6 4 with
  | 0 => row [(bits w 1 1, 0)] (.amoadd (bits w 22 4) (bits w 18 4) (bits w 14 4) (bits w 10 4) (bits w 4 2) (bits w 2 2) (bits w 0 1))
  | 1 => row [(bits w 1 1, 0)] (.amoand (bits w 22 4) (bits w 18 4) (bits w 14 4) (bits w 10 4) (bits w 4 2) (bits w 2 2) (bits w 0 1))
  | 2 => row [(bits w 1 1, 0)] (.amoor (bits w 22 4) (bits w 18 4) (bits w 14 4) (bits w 10 4) (bits w 4 2) (bits w 2 2) (bits w 0 1))
  | 3 => row [(bits w 1 1, 0)] (.amoxor (bits w 22 4) (bits w 18 4) (bits w 14 4) (bits w 10 4) (bits w 4 2) (bits w 2 2) (bits w 0 1))
  | 4 => row [(bits w 1 1, 0)] (.amomin (bits w 22 4) (bits w 18 4) (bits w 14 4) (bits w 10 4) (bits w 4 2) (bits w 2 2) (bits w 0 1))
  | 5 => row [(bits w 1 1, 0)] (.amomax (bits w 22 4) (bits w 18 4) (bits w 14 4) (bits w 10 4) (bits w 4 2) (bits w 2 2) (bits w 0 1))
  | 6 => row [(bits w 1 1, 0)] (.amominn (bits w 22 4) (bits w 18 4) (bits w 14 4) (bits w 10 4) (bits w 4 2) (bits w 2 2) (bits w 0 1))
  | 7 => row [(bits w 1 1, 0)] (.amomaxn (bits w 22 4) (bits w 18 4) (bits w 14 4) (bits w 10 4) (bits w 4 2) (bits w 2 2) (bits w 0 1))
  | 8 => row [(bits w 1 1, 0)] (.amoswp (bits w 22 4) (bits w 18 4) (bits w 14 4) (bits w 10 4) (bits w 4 2) (bits w 2 2) (bits w 0 1))
  | 9 => row [] (.amocas (bits w 22 4) (bits w 18 4) (bits w 14 4) (bits w 10 4) (bits w 4 2) (bits w 2 2) (bits w 1 1) (bits w 0 1))
  | _ => .error .unassignedFunction

/-- Major 0x21. -/
def decode21 (w : Nat) : Except IllReason Instr :=
  match bits w 23 3 with
  | 0 => row [(bits w 9 1, 0), (bits w 18 4, 0)] (.barcfg (bits w 22 1) (bits w 14 4) (bits w 10 4) (bits w 0 9))
  | 1 => row [(bits w 9 1, 0), (bits w 14 4, 0)] (.barrv (bits w 22 1) (bits w 18 4) (bits w 10 4) (bits w 0 9))
  | 2 => row [(bits w 9 1, 0), (bits w 18 4, 0)] (.barwt (bits w 22 1) (bits w 14 4) (bits w 10 4) (bits w 0 9))
  | 3 => row [(bits w 9 1, 0), (bits w 14 8, 0)] (.barsy (bits w 22 1) (bits w 10 4) (bits w 0 9))
  | 4 => row [(bits w 9 1, 0), (bits w 14 4, 0)] (.barq (bits w 22 1) (bits w 18 4) (bits w 10 4) (bits w 0 9))
  | _ => .error .unassignedFunction

/-- Major 0x22. -/
def decode22 (w : Nat) : Except IllReason Instr :=
  match bits w 8 3 with
  | 0 => row [] (.send (bits w 20 6) (bits w 14 6) (bits w 11 3) (bits w 0 8))
  | 1 => row [] (.sendv (bits w 20 6) (bits w 14 6) (bits w 11 3) (bits w 0 8))
  | 2 => row [(bits w 20 6, 0)] (.reply (bits w 14 6) (bits w 11 3) (bits w 0 8))
  | 3 => row [(bits w 20 6, 0)] (.replyv (bits w 14 6) (bits w 11 3) (bits w 0 8))
  | _ => .error .unassignedFunction

/-- Major 0x23. -/
def decode23 (w : Nat) : Except IllReason Instr :=
  match bits w 0 8 with
  | 0 => row [] (.bind (bits w 20 6) (bits w 14 6) (bits w 8 6))
  | 1 => row [(bits w 8 12, 0)] (.unbind (bits w 20 6))
  | 2 => row [(bits w 8 18, 0)] (.done)
  | 3 => row [(bits w 8 18, 0)] (.refuse)
  | 4 => row [(bits w 14 6, 0)] (.msgrd (bits w 20 6) (bits w 8 6))
  | _ => .error .unassignedFunction

/-- Major 0x24. -/
def decode24 (w : Nat) : Except IllReason Instr :=
  match bits w 12 2 with
  | 0 => row [(bits w 8 4, 0)] (.jset (bits w 20 6) (bits w 14 6) (bits w 0 8))
  | 1 => row [(bits w 0 12, 0)] (.arrive (bits w 20 6) (bits w 14 6))
  | 2 => row [(bits w 0 12, 0)] (.jget (bits w 20 6) (bits w 14 6))
  | _ => .error .unassignedFunction

/-- Major 0x25. -/
def decode25 (w : Nat) : Except IllReason Instr :=
  match bits w 0 8 with
  | 0 => row [(bits w 8 6, 0)] (.gdef (bits w 20 6) (bits w 14 6))
  | 1 => row [] (.gsucc (bits w 20 6) (bits w 14 6) (bits w 8 6))
  | 2 => row [(bits w 8 6, 0)] (.gdone (bits w 20 6) (bits w 14 6))
  | 3 => row [(bits w 8 6, 0)] (.gqry (bits w 20 6) (bits w 14 6))
  | 4 => row [(bits w 8 6, 0)] (.gdoneHold (bits w 20 6) (bits w 14 6))
  | _ => .error .unassignedFunction

/-- Major 0x26. -/
def decode26 (w : Nat) : Except IllReason Instr :=
  match bits w 0 8 with
  | 0 => row [] (.wput (bits w 20 6) (bits w 14 6) (bits w 8 6))
  | 1 => row [] (.wtake (bits w 20 6) (bits w 14 6) (bits w 8 6))
  | 2 => row [] (.wqcfg (bits w 20 6) (bits w 14 6) (bits w 8 6))
  | _ => .error .unassignedFunction

/-- Major 0x27. -/
def decode27 (w : Nat) : Except IllReason Instr :=
  match bits w 0 2 with
  | 0 => row [] (.hcfg (bits w 20 6) (bits w 14 6) (bits w 11 3) (bits w 7 4) (bits w 2 5))
  | 1 => match bits w 7 1 with
    | 0 => row [(bits w 2 5, 0), (bits w 14 6, 0)] (.hadv (bits w 20 6) (bits w 8 6))
    | 1 => row [(bits w 2 5, 0), (bits w 14 6, 0)] (.hadvP (bits w 20 6) (bits w 8 6))
    | _ => .error .unassignedFunction
  | 2 => row [(bits w 2 12, 0)] (.hget (bits w 20 6) (bits w 14 6))
  | _ => .error .unassignedFunction

/-- Major 0x28. -/
def decode28 (w : Nat) : Except IllReason Instr :=
  match bits w 0 2 with
  | 0 => row [] (.vadd (bits w 20 6) (bits w 14 6) (bits w 8 6) (bits w 5 3) (bits w 2 3))
  | 1 => row [] (.vsub (bits w 20 6) (bits w 14 6) (bits w 8 6) (bits w 5 3) (bits w 2 3))
  | 2 => row [] (.vmul (bits w 20 6) (bits w 14 6) (bits w 8 6) (bits w 5 3) (bits w 2 3))
  | 3 => row [] (.vfma (bits w 20 6) (bits w 14 6) (bits w 8 6) (bits w 5 3) (bits w 2 3))
  | _ => .error .unassignedFunction

/-- Major 0x29. -/
def decode29 (w : Nat) : Except IllReason Instr :=
  match bits w 0 2 with
  | 0 => row [] (.vmin (bits w 20 6) (bits w 14 6) (bits w 8 6) (bits w 5 3) (bits w 2 3))
  | 1 => row [] (.vmax (bits w 20 6) (bits w 14 6) (bits w 8 6) (bits w 5 3) (bits w 2 3))
  | 2 => row [(bits w 8 6, 0)] (.vabs (bits w 20 6) (bits w 14 6) (bits w 5 3) (bits w 2 3))
  | 3 => row [(bits w 8 6, 0)] (.vneg (bits w 20 6) (bits w 14 6) (bits w 5 3) (bits w 2 3))
  | _ => .error .unassignedFunction

/-- Major 0x2A. -/
def decode2A (w : Nat) : Except IllReason Instr :=
  match bits w 0 2 with
  | 0 => row [(bits w 2 3, 0)] (.vand (bits w 20 6) (bits w 14 6) (bits w 8 6) (bits w 5 3))
  | 1 => row [(bits w 2 3, 0)] (.vor (bits w 20 6) (bits w 14 6) (bits w 8 6) (bits w 5 3))
  | 2 => row [(bits w 2 3, 0)] (.vxor (bits w 20 6) (bits w 14 6) (bits w 8 6) (bits w 5 3))
  | 3 => row [(bits w 2 3, 0)] (.vandn (bits w 20 6) (bits w 14 6) (bits w 8 6) (bits w 5 3))
  | _ => .error .unassignedFunction

/-- Major 0x2B. -/
def decode2B (w : Nat) : Except IllReason Instr :=
  match bits w 0 2 with
  | 0 => row [] (.vshl (bits w 20 6) (bits w 14 6) (bits w 8 6) (bits w 5 3) (bits w 2 3))
  | 1 => row [] (.vshr (bits w 20 6) (bits w 14 6) (bits w 8 6) (bits w 5 3) (bits w 2 3))
  | 2 => row [] (.vsar (bits w 20 6) (bits w 14 6) (bits w 8 6) (bits w 5 3) (bits w 2 3))
  | 3 => row [] (.vrot (bits w 20 6) (bits w 14 6) (bits w 8 6) (bits w 5 3) (bits w 2 3))
  | _ => .error .unassignedFunction

/-- Major 0x2C. -/
def decode2C (w : Nat) : Except IllReason Instr :=
  match bits w 0 2 with
  | 0 => row [] (.vceq (bits w 20 6) (bits w 14 6) (bits w 8 6) (bits w 5 3) (bits w 2 3))
  | 1 => row [] (.vcne (bits w 20 6) (bits w 14 6) (bits w 8 6) (bits w 5 3) (bits w 2 3))
  | 2 => row [] (.vclt (bits w 20 6) (bits w 14 6) (bits w 8 6) (bits w 5 3) (bits w 2 3))
  | 3 => row [] (.vcle (bits w 20 6) (bits w 14 6) (bits w 8 6) (bits w 5 3) (bits w 2 3))
  | _ => .error .unassignedFunction

/-- Major 0x2D. -/
def decode2D (w : Nat) : Except IllReason Instr :=
  match bits w 0 2 with
  | 0 => row [(bits w 2 3, 0), (bits w 8 6, 0)] (.vmov (bits w 20 6) (bits w 14 6) (bits w 5 3))
  | 1 => row [] (.vsel (bits w 20 6) (bits w 14 6) (bits w 8 6) (bits w 5 3) (bits w 2 3))
  | 2 => row [(bits w 8 6, 0)] (.vbc (bits w 20 6) (bits w 14 6) (bits w 5 3) (bits w 2 3))
  | 3 => row [(bits w 5 3, 0)] (.vext (bits w 20 6) (bits w 14 6) (bits w 8 6) (bits w 2 3))
  | _ => .error .unassignedFunction

/-- Major 0x2E. -/
def decode2E (w : Nat) : Except IllReason Instr :=
  match bits w 0 2 with
  | 0 => row [(bits w 2 3, 0)] (.vprm (bits w 20 6) (bits w 14 6) (bits w 8 6) (bits w 5 3))
  | 1 => row [(bits w 2 3, 0)] (.vsld (bits w 20 6) (bits w 14 6) (bits w 8 6) (bits w 5 3))
  | 2 => row [(bits w 8 6, 0)] (.vrev (bits w 20 6) (bits w 14 6) (bits w 5 3) (bits w 2 3))
  | 3 => row [] (.vzip (bits w 20 6) (bits w 14 6) (bits w 8 6) (bits w 5 3) (bits w 2 3))
  | _ => .error .unassignedFunction

/-- Major 0x2F. -/
def decode2F (w : Nat) : Except IllReason Instr :=
  match bits w 0 2 with
  | 0 => row [(bits w 8 6, 0)] (.vrsum (bits w 20 6) (bits w 14 6) (bits w 5 3) (bits w 2 3))
  | 1 => row [(bits w 8 6, 0)] (.vrmax (bits w 20 6) (bits w 14 6) (bits w 5 3) (bits w 2 3))
  | 2 => row [(bits w 8 6, 0)] (.vrmin (bits w 20 6) (bits w 14 6) (bits w 5 3) (bits w 2 3))
  | 3 => row [(bits w 8 6, 0)] (.vrand (bits w 20 6) (bits w 14 6) (bits w 5 3) (bits w 2 3))
  | _ => .error .unassignedFunction

/-- Major 0x30. -/
def decode30 (w : Nat) : Except IllReason Instr :=
  match bits w 0 2 with
  | 0 => row [(bits w 8 6, 0)] (.vrcp (bits w 20 6) (bits w 14 6) (bits w 5 3) (bits w 2 3))
  | 1 => row [(bits w 8 6, 0)] (.vrsq (bits w 20 6) (bits w 14 6) (bits w 5 3) (bits w 2 3))
  | 2 => row [(bits w 8 6, 0)] (.vsqt (bits w 20 6) (bits w 14 6) (bits w 5 3) (bits w 2 3))
  | 3 => row [(bits w 8 6, 0)] (.vexp (bits w 20 6) (bits w 14 6) (bits w 5 3) (bits w 2 3))
  | _ => .error .unassignedFunction

/-- Major 0x31. -/
def decode31 (w : Nat) : Except IllReason Instr :=
  match bits w 0 2 with
  | 0 => row [(bits w 8 6, 0)] (.vlog (bits w 20 6) (bits w 14 6) (bits w 5 3) (bits w 2 3))
  | 1 => row [(bits w 8 6, 0)] (.vtnh (bits w 20 6) (bits w 14 6) (bits w 5 3) (bits w 2 3))
  | 2 => row [(bits w 8 6, 0)] (.vsgm (bits w 20 6) (bits w 14 6) (bits w 5 3) (bits w 2 3))
  | 3 => row [] (.vdiv (bits w 20 6) (bits w 14 6) (bits w 8 6) (bits w 5 3) (bits w 2 3))
  | _ => .error .unassignedFunction

/-- Major 0x32. -/
def decode32 (w : Nat) : Except IllReason Instr :=
  match bits w 0 2 with
  | 0 => row [] (.vcvt (bits w 20 6) (bits w 14 6) (bits w 8 6) (bits w 5 3) (bits w 2 3))
  | 1 => row [] (.vcef (bits w 20 6) (bits w 14 6) (bits w 8 6) (bits w 5 3) (bits w 2 3))
  | 2 => row [] (.vpak (bits w 20 6) (bits w 14 6) (bits w 8 6) (bits w 5 3) (bits w 2 3))
  | 3 => row [] (.vunp (bits w 20 6) (bits w 14 6) (bits w 8 6) (bits w 5 3) (bits w 2 3))
  | _ => .error .unassignedFunction

/-- Major 0x33. -/
def decode33 (w : Nat) : Except IllReason Instr :=
  match bits w 0 2 with
  | 0 => row [] (.vtki (bits w 20 6) (bits w 14 6) (bits w 8 6) (bits w 5 3) (bits w 2 3))
  | 1 => row [] (.vtkm (bits w 20 6) (bits w 14 6) (bits w 8 6) (bits w 5 3) (bits w 2 3))
  | 2 => row [] (.vtkr (bits w 20 6) (bits w 14 6) (bits w 8 6) (bits w 5 3) (bits w 2 3))
  | 3 => row [] (.vtkn (bits w 20 6) (bits w 14 6) (bits w 8 6) (bits w 5 3) (bits w 2 3))
  | _ => .error .unassignedFunction

/-- Major 0x34. -/
def decode34 (w : Nat) : Except IllReason Instr :=
  match bits w 0 2 with
  | 0 => row [(bits w 8 6, 0)] (.vpop (bits w 20 6) (bits w 14 6) (bits w 5 3) (bits w 2 3))
  | 1 => row [(bits w 8 6, 0)] (.vclz (bits w 20 6) (bits w 14 6) (bits w 5 3) (bits w 2 3))
  | 2 => row [(bits w 8 6, 0)] (.vctz (bits w 20 6) (bits w 14 6) (bits w 5 3) (bits w 2 3))
  | 3 => row [(bits w 8 6, 0)] (.vbrv (bits w 20 6) (bits w 14 6) (bits w 5 3) (bits w 2 3))
  | _ => .error .unassignedFunction

/-- Major 0x35. -/
def decode35 (w : Nat) : Except IllReason Instr :=
  match bits w 0 8 with
  | 0 => row [] (.cxbind (bits w 20 6) (bits w 14 6) (bits w 8 6))
  | 1 => row [(bits w 14 12, 0)] (.cxdrop (bits w 8 6))
  | 2 => row [(bits w 14 12, 0)] (.cxdropAll (bits w 8 6))
  | 3 => row [] (.cxinfo (bits w 20 6) (bits w 14 6) (bits w 8 6))
  | 8 => row [] (.kdef (bits w 20 6) (bits w 14 6) (bits w 8 6))
  | 9 => row [] (.kinfo (bits w 20 6) (bits w 14 6) (bits w 8 6))
  | 10 => row [] (.kview (bits w 20 6) (bits w 14 6) (bits w 8 6))
  | _ => .error .unassignedFunction

/-- Major 0x36. -/
def decode36 (w : Nat) : Except IllReason Instr :=
  match bits w 0 8 with
  | 0 => row [(bits w 8 3, 0), (bits w 14 4, 0)] (.kd (bits w 22 4) (bits w 18 4) (bits w 11 3))
  | 1 => row [(bits w 8 3, 0), (bits w 14 4, 0)] (.kdt (bits w 22 4) (bits w 18 4) (bits w 11 3))
  | 8 => row [(bits w 8 14, 0)] (.kspush (bits w 22 4))
  | 9 => row [(bits w 8 3, 0), (bits w 14 8, 0)] (.kacc (bits w 22 4) (bits w 11 3))
  | 10 => row [(bits w 8 14, 0)] (.kswait (bits w 22 4))
  | _ => .error .unassignedFunction

/-- Major 0x37. -/
def decode37 (w : Nat) : Except IllReason Instr :=
  match bits w 0 8 with
  | 0 => row [(bits w 8 3, 0), (bits w 14 4, 0)] (.kstar (bits w 22 4) (bits w 18 4) (bits w 11 3))
  | 1 => row [(bits w 8 3, 0), (bits w 14 4, 0)] (.kstari (bits w 22 4) (bits w 18 4) (bits w 11 3))
  | 2 => row [(bits w 8 3, 0), (bits w 14 4, 0)] (.kcod (bits w 22 4) (bits w 18 4) (bits w 11 3))
  | 3 => row [(bits w 8 3, 0)] (.kdot (bits w 22 4) (bits w 18 4) (bits w 14 4) (bits w 11 3))
  | _ => .error .unassignedFunction

/-- Major 0x38. -/
def decode38 (w : Nat) : Except IllReason Instr :=
  match bits w 0 8 with
  | 0 => row [(bits w 8 3, 0)] (.kwedge (bits w 22 4) (bits w 18 4) (bits w 14 4) (bits w 11 3))
  | 1 => row [(bits w 8 3, 0)] (.kinterp (bits w 22 4) (bits w 18 4) (bits w 14 4) (bits w 11 3))
  | _ => .error .unassignedFunction

/-- Major 0x39. -/
def decode39 (w : Nat) : Except IllReason Instr :=
  match bits w 0 8 with
  | 0 => row [(bits w 8 3, 0)] (.kadd (bits w 22 4) (bits w 18 4) (bits w 14 4) (bits w 11 3))
  | 1 => row [(bits w 8 3, 0)] (.ksub (bits w 22 4) (bits w 18 4) (bits w 14 4) (bits w 11 3))
  | 2 => row [(bits w 8 3, 0)] (.kmul (bits w 22 4) (bits w 18 4) (bits w 14 4) (bits w 11 3))
  | 3 => row [(bits w 8 3, 0)] (.ksc (bits w 22 4) (bits w 18 4) (bits w 14 4) (bits w 11 3))
  | 4 => row [(bits w 8 10, 0)] (.kmov (bits w 22 4) (bits w 18 4))
  | 16 => row [(bits w 8 3, 0), (bits w 14 4, 0)] (.kcvtBx (bits w 22 4) (bits w 18 4) (bits w 11 3))
  | 17 => row [(bits w 8 3, 0), (bits w 14 4, 0)] (.kcvtF32 (bits w 22 4) (bits w 18 4) (bits w 11 3))
  | 18 => row [(bits w 8 3, 0), (bits w 14 4, 0)] (.kcvtF16 (bits w 22 4) (bits w 18 4) (bits w 11 3))
  | 19 => row [(bits w 8 3, 0), (bits w 14 4, 0)] (.kcvtBf16 (bits w 22 4) (bits w 18 4) (bits w 11 3))
  | 20 => row [(bits w 8 3, 0), (bits w 14 4, 0)] (.kcvtBxFix (bits w 22 4) (bits w 18 4) (bits w 11 3))
  | _ => .error .unassignedFunction

/-- Major 0x3A. -/
def decode3A (w : Nat) : Except IllReason Instr :=
  match bits w 4 4 with
  | 0 => row [(bits w 1 3, 0)] (.rmpoke (bits w 20 6) (bits w 14 6) (bits w 8 6) (bits w 0 1))
  | 1 => row [(bits w 1 3, 0)] (.rmsplit (bits w 20 6) (bits w 14 6) (bits w 8 6) (bits w 0 1))
  | 2 => row [(bits w 1 3, 0), (bits w 8 6, 0)] (.rmflip (bits w 20 6) (bits w 14 6) (bits w 0 1))
  | 3 => row [(bits w 1 3, 0)] (.rmclps (bits w 20 6) (bits w 14 6) (bits w 8 6) (bits w 0 1))
  | 4 => row [(bits w 1 3, 0), (bits w 8 6, 0)] (.rmcmit (bits w 20 6) (bits w 14 6) (bits w 0 1))
  | 5 => row [(bits w 0 1, 0), (bits w 8 6, 0)] (.kxfer (bits w 20 6) (bits w 14 6) (bits w 1 3))
  | _ => .error .unassignedFunction

noncomputable section

/-- Major 0x3B. -/
def decode3B (w : Nat) : Except IllReason Instr :=
  match bits w 4 4 with
  | 0 => row [(bits w 0 4, 0), (bits w 8 6, 0), (bits w 20 6, 0)] (.mmcfg (bits w 14 6))
  | 1 => row [(bits w 2 2, 0), (bits w 20 6, 0)] (.mmldb (bits w 14 6) (bits w 8 6) (bits w 0 2))
  | 2 => row [(bits w 0 4, 0), (bits w 8 6, 0), (bits w 20 6, 0)] (.mmzp (bits w 14 6))
  | 3 => row [(bits w 0 4, 0), (bits w 20 6, 0)] (.mmcnt (bits w 14 6) (bits w 8 6))
  | 4 => row [(bits w 0 4, 0), (bits w 20 6, 0)] (.mmmul (bits w 14 6) (bits w 8 6))
  | 5 => row [(bits w 0 4, 0), (bits w 8 18, 0)] (.mmdrn)
  | 6 => row [(bits w 0 4, 0), (bits w 8 6, 0)] (.mmmrg (bits w 20 6) (bits w 14 6))
  | 7 => row [(bits w 8 18, 0)] (.mmclr (bits w 0 4))
  | 8 => row [(bits w 8 12, 0)] (.mmsta (bits w 20 6) (bits w 0 4))
  | _ => .error .unassignedFunction

/-- Major 0x3C. -/
def decode3C (w : Nat) : Except IllReason Instr :=
  match bits w 4 4 with
  | 0 => row [(bits w 3 1, 0), (bits w 20 6, 0)] (.sacc (bits w 14 6) (bits w 8 6) (bits w 0 3))
  | 1 => row [(bits w 0 4, 0), (bits w 20 6, 0)] (.mmst (bits w 14 6) (bits w 8 6))
  | 2 => row [(bits w 0 4, 0)] (.rep (bits w 14 12) (bits w 8 6))
  | 3 => row [(bits w 0 4, 0), (bits w 8 18, 0)] (.repend)
  | _ => .error .unassignedFunction

/-- Major 0x3D. -/
def decode3D (w : Nat) : Except IllReason Instr :=
  match bits w 4 4 with
  | 0 => row [(bits w 2 2, 0)] (.lcall (bits w 8 18) (bits w 0 2))
  | 1 => row [(bits w 0 4, 0), (bits w 8 18, 0)] (.lret)
  | 2 => match bits w 3 1 with
    | 0 => row [(bits w 2 1, 0), (bits w 8 12, 0)] (.laxis (bits w 20 6) (bits w 0 2))
    | 1 => row [(bits w 2 1, 0), (bits w 8 6, 0)] (.laxisTag (bits w 20 6) (bits w 14 6) (bits w 0 2))
    | _ => .error .unassignedFunction
  | 3 => row [(bits w 3 1, 0)] (.lred (bits w 20 6) (bits w 14 6) (bits w 12 2) (bits w 10 2) (bits w 8 2) (bits w 0 3))
  | 4 => row [] (.lsel (bits w 20 6) (bits w 14 6) (bits w 8 6) (bits w 2 2) (bits w 0 2))
  | 5 => row [(bits w 8 6, 0)] (.lbc (bits w 20 6) (bits w 14 6) (bits w 2 2) (bits w 0 2))
  | 6 => row [(bits w 2 2, 3), (bits w 8 12, 0)] (.ltag (bits w 20 6) (bits w 0 2))
  | 7 => row [(bits w 2 2, 0), (bits w 8 12, 0)] (.lidx (bits w 20 6) (bits w 0 2))
  | _ => .error .unassignedFunction

/-- Major 0x3E. -/
def decode3E (w : Nat) : Except IllReason Instr :=
  match bits w 4 4 with
  | 0 => row [(bits w 0 4, 0)] (.fopen (bits w 20 6) (bits w 14 6) (bits w 8 6))
  | 1 => row [(bits w 0 4, 0), (bits w 8 6, 0), (bits w 20 6, 0)] (.fclose (bits w 14 6))
  | 2 => row [(bits w 0 4, 0), (bits w 20 6, 0)] (.fpath (bits w 14 6) (bits w 8 6))
  | 3 => row [(bits w 0 4, 0)] (.fstat (bits w 20 6) (bits w 14 6) (bits w 8 6))
  | 4 => row [] (.rget (bits w 20 6) (bits w 14 6) (bits w 8 6) (bits w 0 4))
  | 5 => row [] (.rput (bits w 20 6) (bits w 14 6) (bits w 8 6) (bits w 0 4))
  | 6 => row [] (.ramo (bits w 20 6) (bits w 14 6) (bits w 8 6) (bits w 0 4))
  | 7 => row [(bits w 0 4, 0), (bits w 8 6, 0), (bits w 20 6, 0)] (.fwait (bits w 14 6))
  | 8 => row [(bits w 14 6, 0)] (.rputSw (bits w 20 6) (bits w 8 6) (bits w 0 4))
  | _ => .error .unassignedFunction

/-- The instruction a word holds, or the named reason why it holds none. Total on every natural number; only bits 31 to 0 are
read. -/
def decodeWord (w : Nat) : Except IllReason Instr :=
  match bits w 26 6 with
  | 0 => decode00 w
  | 1 => decode01 w
  | 2 => decode02 w
  | 3 => decode03 w
  | 4 => decode04 w
  | 5 => decode05 w
  | 6 => decode06 w
  | 7 => decode07 w
  | 8 => decode08 w
  | 9 => decode09 w
  | 10 => decode0A w
  | 11 => decode0B w
  | 12 => decode0C w
  | 13 => decode0D w
  | 14 => decode0E w
  | 15 => decode0F w
  | 16 => decode10 w
  | 17 => decode11 w
  | 18 => decode12 w
  | 19 => decode13 w
  | 20 => decode14 w
  | 21 => decode15 w
  | 22 => decode16 w
  | 23 => decode17 w
  | 24 => decode18 w
  | 25 => decode19 w
  | 26 => decode1A w
  | 27 => decode1B w
  | 28 => decode1C w
  | 29 => decode1D w
  | 30 => decode1E w
  | 31 => decode1F w
  | 32 => decode20 w
  | 33 => decode21 w
  | 34 => decode22 w
  | 35 => decode23 w
  | 36 => decode24 w
  | 37 => decode25 w
  | 38 => decode26 w
  | 39 => decode27 w
  | 40 => decode28 w
  | 41 => decode29 w
  | 42 => decode2A w
  | 43 => decode2B w
  | 44 => decode2C w
  | 45 => decode2D w
  | 46 => decode2E w
  | 47 => decode2F w
  | 48 => decode30 w
  | 49 => decode31 w
  | 50 => decode32 w
  | 51 => decode33 w
  | 52 => decode34 w
  | 53 => decode35 w
  | 54 => decode36 w
  | 55 => decode37 w
  | 56 => decode38 w
  | 57 => decode39 w
  | 58 => decode3A w
  | 59 => decode3B w
  | 60 => decode3C w
  | 61 => decode3D w
  | 62 => decode3E w
  | _ => .error .reservedMajor

/-- The little-endian value of a list of bytes (R3). -/
def leNat : List Byte → Nat
  | [] => 0
  | b :: bs => b.toNat + 256 * leNat bs

/-- The `n` little-endian bytes of a value (R3). -/
def leBytes : Nat → Nat → List Byte
  | 0, _ => []
  | n + 1, v => BitVec.ofNat 8 v :: leBytes n (v / 256)

/-- Decode the four bytes of a word, low byte first (R38). -/
def decodeBytes (bs : List Byte) : Except IllReason Instr := decodeWord (leNat (bs.take 4))

/-- The instruction the decoder reads from a word numbered as the opcode table numbers its bits: every row is one 32-bit
little-endian word. -/
def decodeTableWord (nbits w : Nat) : Option Instr :=
  match decodeBytes (leBytes 4 (w % 2 ^ nbits)) with
  | .ok i => some i
  | .error _ => none

end

/-- The word of `TRAP` (R268). -/
def wordTrap (a : Nat) : Nat := 0x00000000 + a * 16384

/-- The word of `BRK` (R268). -/
def wordBrk : Nat := 0x00000001

/-- The word of `FREC` (R263). -/
def wordFrec (d a i : Nat) : Nat := 0x00000008 + d * 1048576 + a * 16384 + i * 256

/-- The word of `FRES` (R263). -/
def wordFres (d a f : Nat) : Nat := 0x00000009 + d * 1048576 + a * 16384 + f * 256

/-- The word of `FABT` (R263). -/
def wordFabt (d a : Nat) : Nat := 0x0000000A + d * 1048576 + a * 16384

/-- The word of `ICINV` (R267). -/
def wordIcinv (m a b : Nat) : Nat := 0x00000010 + m * 1048576 + a * 16384 + b * 256

/-- The word of `TLBINV` (R267). -/
def wordTlbinv (m a b : Nat) : Nat := 0x00000011 + m * 1048576 + a * 16384 + b * 256

/-- The word of `HNOP` (R51). -/
def wordHnop : Nat := 0x04000000

/-- The word of `HEXT` (R50). -/
def wordHext (i : Nat) : Nat := 0x04400000 + i

/-- The word of `HREG` (R32). -/
def wordHreg : Nat := 0x04800000

/-- The word of `HJOIN` (R119). -/
def wordHjoin (o : Nat) : Nat := 0x04C00000 + o

/-- The word of `HPRIO` (R54). -/
def wordHprio (n : Nat) : Nat := 0x05000000 + n

/-- The word of `HBANK` (R51). -/
def wordHbank (b : Nat) : Nat := 0x05400000 + b

/-- The word of `HSTALL` (R53). -/
def wordHstall (n : Nat) : Nat := 0x05800000 + n

/-- The word of `HTAKE` (R51). -/
def wordHtake (f n : Nat) : Nat := 0x05C00000 + f * 256 + n

/-- The word of `HLAY` (R338). -/
def wordHlay (i : Nat) : Nat := 0x06000000 + i

/-- The word of `HFLAG` (R410). -/
def wordHflag : Nat := 0x06400001

/-- The word of `HLSEND` (R375). -/
def wordHlsend (m : Nat) : Nat := 0x06800000 + m

/-- The word of `HTRACE` (R55). -/
def wordHtrace (i : Nat) : Nat := 0x06C00000 + i

/-- The word of `HRES` (R51). -/
def wordHres (k p : Nat) : Nat := 0x07000000 + k * 4194304 + p

/-- The word of `ADD` (R106). -/
def wordAdd (d a b : Nat) : Nat := 0x08000000 + d * 1048576 + a * 16384 + b * 256

/-- The word of `SUB` (R106). -/
def wordSub (d a b : Nat) : Nat := 0x08000001 + d * 1048576 + a * 16384 + b * 256

/-- The word of `MUL` (R106). -/
def wordMul (d a b : Nat) : Nat := 0x08000002 + d * 1048576 + a * 16384 + b * 256

/-- The word of `MULH` (R106). -/
def wordMulh (d a b : Nat) : Nat := 0x08000003 + d * 1048576 + a * 16384 + b * 256

/-- The word of `MULHN` (R106). -/
def wordMulhn (d a b : Nat) : Nat := 0x08000004 + d * 1048576 + a * 16384 + b * 256

/-- The word of `DIV` (R107). -/
def wordDiv (d a b : Nat) : Nat := 0x08000005 + d * 1048576 + a * 16384 + b * 256

/-- The word of `DIVN` (R107). -/
def wordDivn (d a b : Nat) : Nat := 0x08000006 + d * 1048576 + a * 16384 + b * 256

/-- The word of `REM` (R107). -/
def wordRem (d a b : Nat) : Nat := 0x08000007 + d * 1048576 + a * 16384 + b * 256

/-- The word of `REMN` (R107). -/
def wordRemn (d a b : Nat) : Nat := 0x08000008 + d * 1048576 + a * 16384 + b * 256

/-- The word of `AND` (R106). -/
def wordAnd (d a b : Nat) : Nat := 0x08000010 + d * 1048576 + a * 16384 + b * 256

/-- The word of `OR` (R106). -/
def wordOr (d a b : Nat) : Nat := 0x08000011 + d * 1048576 + a * 16384 + b * 256

/-- The word of `XOR` (R106). -/
def wordXor (d a b : Nat) : Nat := 0x08000012 + d * 1048576 + a * 16384 + b * 256

/-- The word of `ANDN` (R106). -/
def wordAndn (d a b : Nat) : Nat := 0x08000013 + d * 1048576 + a * 16384 + b * 256

/-- The word of `ORN` (R106). -/
def wordOrn (d a b : Nat) : Nat := 0x08000014 + d * 1048576 + a * 16384 + b * 256

/-- The word of `SHL` (R106). -/
def wordShl (d a b : Nat) : Nat := 0x08000018 + d * 1048576 + a * 16384 + b * 256

/-- The word of `SHR` (R106). -/
def wordShr (d a b : Nat) : Nat := 0x08000019 + d * 1048576 + a * 16384 + b * 256

/-- The word of `SAR` (R106). -/
def wordSar (d a b : Nat) : Nat := 0x0800001A + d * 1048576 + a * 16384 + b * 256

/-- The word of `ROL` (R106). -/
def wordRol (d a b : Nat) : Nat := 0x0800001B + d * 1048576 + a * 16384 + b * 256

/-- The word of `MIN` (R106). -/
def wordMin (d a b : Nat) : Nat := 0x08000020 + d * 1048576 + a * 16384 + b * 256

/-- The word of `MAX` (R106). -/
def wordMax (d a b : Nat) : Nat := 0x08000021 + d * 1048576 + a * 16384 + b * 256

/-- The word of `MINN` (R106). -/
def wordMinn (d a b : Nat) : Nat := 0x08000022 + d * 1048576 + a * 16384 + b * 256

/-- The word of `MAXN` (R106). -/
def wordMaxn (d a b : Nat) : Nat := 0x08000023 + d * 1048576 + a * 16384 + b * 256

/-- The word of `SLT` (R106). -/
def wordSlt (d a b : Nat) : Nat := 0x08000024 + d * 1048576 + a * 16384 + b * 256

/-- The word of `SLTN` (R106). -/
def wordSltn (d a b : Nat) : Nat := 0x08000025 + d * 1048576 + a * 16384 + b * 256

/-- The word of `SEQ` (R106). -/
def wordSeq (d a b : Nat) : Nat := 0x08000026 + d * 1048576 + a * 16384 + b * 256

/-- The word of `SNE` (R106). -/
def wordSne (d a b : Nat) : Nat := 0x08000027 + d * 1048576 + a * 16384 + b * 256

/-- The word of `CLZ` (R106). -/
def wordClz (d a : Nat) : Nat := 0x08000028 + d * 1048576 + a * 16384

/-- The word of `CTZ` (R106). -/
def wordCtz (d a : Nat) : Nat := 0x08000029 + d * 1048576 + a * 16384

/-- The word of `POPC` (R106). -/
def wordPopc (d a : Nat) : Nat := 0x0800002A + d * 1048576 + a * 16384

/-- The word of `SXB` (R106). -/
def wordSxb (d a : Nat) : Nat := 0x08000030 + d * 1048576 + a * 16384

/-- The word of `SXH` (R106). -/
def wordSxh (d a : Nat) : Nat := 0x08000031 + d * 1048576 + a * 16384

/-- The word of `SXW` (R106). -/
def wordSxw (d a : Nat) : Nat := 0x08000032 + d * 1048576 + a * 16384

/-- The word of `ZXB` (R106). -/
def wordZxb (d a : Nat) : Nat := 0x08000033 + d * 1048576 + a * 16384

/-- The word of `ZXH` (R106). -/
def wordZxh (d a : Nat) : Nat := 0x08000034 + d * 1048576 + a * 16384

/-- The word of `ZXW` (R106). -/
def wordZxw (d a : Nat) : Nat := 0x08000035 + d * 1048576 + a * 16384

/-- The word of `BFX` (R108). -/
def wordBfx (d a b : Nat) : Nat := 0x08000038 + d * 1048576 + a * 16384 + b * 256

/-- The word of `BFI` (R108). -/
def wordBfi (d a b : Nat) : Nat := 0x08000039 + d * 1048576 + a * 16384 + b * 256

/-- The word of `PADD` (R110). -/
def wordPadd (d a b : Nat) : Nat := 0x0800003C + d * 1048576 + a * 16384 + b * 256

/-- The word of `PCHK` (R111). -/
def wordPchk (d a b : Nat) : Nat := 0x0800003D + d * 1048576 + a * 16384 + b * 256

/-- The word of `ADDI` (R112). -/
def wordAddi (d a i : Nat) : Nat := 0x0C000000 + d * 1048576 + a * 16384 + i

/-- The word of `ANDI` (R112). -/
def wordAndi (d a i : Nat) : Nat := 0x10000000 + d * 1048576 + a * 16384 + i

/-- The word of `ORI` (R112). -/
def wordOri (d a i : Nat) : Nat := 0x14000000 + d * 1048576 + a * 16384 + i

/-- The word of `XORI` (R112). -/
def wordXori (d a i : Nat) : Nat := 0x18000000 + d * 1048576 + a * 16384 + i

/-- The word of `SHLI` (R112). -/
def wordShli (d a n : Nat) : Nat := 0x1C000000 + d * 1048576 + a * 16384 + n

/-- The word of `SHRI` (R112). -/
def wordShri (d a n : Nat) : Nat := 0x1C001000 + d * 1048576 + a * 16384 + n

/-- The word of `SARI` (R112). -/
def wordSari (d a n : Nat) : Nat := 0x1C002000 + d * 1048576 + a * 16384 + n

/-- The word of `ROLI` (R112). -/
def wordRoli (d a n : Nat) : Nat := 0x1C003000 + d * 1048576 + a * 16384 + n

/-- The word of `SLTI` (R112). -/
def wordSlti (d a i : Nat) : Nat := 0x20000000 + d * 1048576 + a * 16384 + i

/-- The word of `SLTNI` (R112). -/
def wordSltni (d a i : Nat) : Nat := 0x20002000 + d * 1048576 + a * 16384 + i

/-- The word of `LDHI` (R49). -/
def wordLdhi (d i : Nat) : Nat := 0x24000000 + d * 1048576 + i

/-- The word of `LEA` (R113). -/
def wordLea (d i : Nat) : Nat := 0x28000000 + d * 1048576 + i

/-- The word of `RDSR` (R105). -/
def wordRdsr (d r : Nat) : Nat := 0x2C000000 + d * 1048576 + r

/-- The word of `WRSR` (R105). -/
def wordWrsr (a r : Nat) : Nat := 0x2C001000 + a * 16384 + r

/-- The word of `BEQ` (R115). -/
def wordBeq (a b o : Nat) : Nat := 0x30000000 + a * 1048576 + b * 16384 + o

/-- The word of `BNE` (R115). -/
def wordBne (a b o : Nat) : Nat := 0x34000000 + a * 1048576 + b * 16384 + o

/-- The word of `BLT` (R115). -/
def wordBlt (a b o : Nat) : Nat := 0x38000000 + a * 1048576 + b * 16384 + o

/-- The word of `BGE` (R115). -/
def wordBge (a b o : Nat) : Nat := 0x3C000000 + a * 1048576 + b * 16384 + o

/-- The word of `BLTN` (R115). -/
def wordBltn (a b o : Nat) : Nat := 0x40000000 + a * 1048576 + b * 16384 + o

/-- The word of `BGEN` (R115). -/
def wordBgen (a b o : Nat) : Nat := 0x44000000 + a * 1048576 + b * 16384 + o

/-- The word of `JMP` (R116). -/
def wordJmp (o : Nat) : Nat := 0x48000000 + o

/-- The word of `JAL` (R116). -/
def wordJal (o : Nat) : Nat := 0x4C000000 + o

/-- The word of `JR` (R117). -/
def wordJr (a : Nat) : Nat := 0x50000000 + a * 16384

/-- The word of `RET` (R117). -/
def wordRet : Nat := 0x5007C000

/-- The word of `JALR` (R117). -/
def wordJalr (d a : Nat) : Nat := 0x50000001 + d * 1048576 + a * 16384

/-- The word of `LOOP` (R118). -/
def wordLoop (a o : Nat) : Nat := 0x54000000 + a * 1048576 + o

/-- The word of `LD` (R192). -/
def wordLd (d b z o : Nat) : Nat := 0x58000000 + d * 1048576 + b * 16384 + z * 4096 + o

/-- The word of `LDS` (R192). -/
def wordLds (d b z o : Nat) : Nat := 0x58000800 + d * 1048576 + b * 16384 + z * 4096 + o

/-- The word of `ST` (R192). -/
def wordSt (s b z o : Nat) : Nat := 0x5C000000 + s * 1048576 + b * 16384 + z * 4096 + o

/-- The word of `VLD` (R193). -/
def wordVld (v b p o : Nat) : Nat := 0x60000000 + v * 1048576 + b * 16384 + p * 512 + o

/-- The word of `VLDS` (R193). -/
def wordVlds (v b p s : Nat) : Nat := 0x60001000 + v * 1048576 + b * 16384 + p * 512 + s * 8

/-- The word of `VLDB` (R193). -/
def wordVldb (v b p o : Nat) : Nat := 0x60002000 + v * 1048576 + b * 16384 + p * 512 + o

/-- The word of `VST` (R193). -/
def wordVst (v b p o : Nat) : Nat := 0x64000000 + v * 1048576 + b * 16384 + p * 512 + o

/-- The word of `VSTS` (R193). -/
def wordVsts (v b p s : Nat) : Nat := 0x64001000 + v * 1048576 + b * 16384 + p * 512 + s * 8

/-- The word of `VGAT` (R194). -/
def wordVgat (v b i p : Nat) : Nat := 0x68000000 + v * 1048576 + b * 16384 + i * 256 + p * 32

/-- The word of `VSCT` (R194). -/
def wordVsct (v b i p : Nat) : Nat := 0x68000001 + v * 1048576 + b * 16384 + i * 256 + p * 32

/-- The word of `MGET` (R202). -/
def wordMget (x y z t : Nat) : Nat := 0x6C000000 + x * 524288 + y * 16384 + z * 256 + t

/-- The word of `MGETV` (R202). -/
def wordMgetv (y t : Nat) : Nat := 0x6D000000 + y * 16384 + t

/-- The word of `MPUT` (R203). -/
def wordMput (x y z : Nat) : Nat := 0x6E000000 + x * 524288 + y * 16384 + z * 256

/-- The word of `MPUT_R` (R203). -/
def wordMputR (x y z : Nat) : Nat := 0x6E000001 + x * 524288 + y * 16384 + z * 256

/-- The word of `MPUTV` (R203). -/
def wordMputv (y v : Nat) : Nat := 0x6F000000 + y * 16384 + v * 256

/-- The word of `MPUTV_R` (R203). -/
def wordMputvR (y v : Nat) : Nat := 0x6F000001 + y * 16384 + v * 256

/-- The word of `CPY` (R208). -/
def wordCpy (x y z w m : Nat) : Nat := 0x70000000 + x * 524288 + y * 16384 + z * 512 + w * 16 + m

/-- The word of `CPY2` (R209). -/
def wordCpy2 (x y z w m : Nat) : Nat := 0x71000000 + x * 524288 + y * 16384 + z * 512 + w * 16 + m

/-- The word of `CPYDL` (R211). -/
def wordCpydl (x y z w : Nat) : Nat := 0x72000000 + x * 524288 + y * 16384 + z * 512 + w * 16

/-- The word of `CPYST` (R212). -/
def wordCpyst (x : Nat) : Nat := 0x73000000 + x * 524288

/-- The word of `SWINIT` (R206). -/
def wordSwinit (x y z : Nat) : Nat := 0x74000000 + x * 524288 + y * 16384 + z * 512

/-- The word of `SWWAIT` (R206). -/
def wordSwwait (x y : Nat) : Nat := 0x75000000 + x * 524288 + y * 16384

/-- The word of `SWGET` (R206). -/
def wordSwget (x y : Nat) : Nat := 0x76000000 + x * 524288 + y * 16384

/-- The word of `SWADD` (R206). -/
def wordSwadd (x y : Nat) : Nat := 0x77000000 + x * 524288 + y * 16384

/-- The word of `WSLD` (R215). -/
def wordWsld (x y z w : Nat) : Nat := 0x78000000 + x * 524288 + y * 16384 + z * 512 + w * 16

/-- The word of `WSLD_B` (R215). -/
def wordWsldB (x y z w : Nat) : Nat := 0x78000001 + x * 524288 + y * 16384 + z * 512 + w * 16

/-- The word of `WSWR` (R215). -/
def wordWswr (x y z w : Nat) : Nat := 0x79000000 + x * 524288 + y * 16384 + z * 512 + w * 16

/-- The word of `WSINFO` (R215). -/
def wordWsinfo (x : Nat) : Nat := 0x7A000000 + x * 524288

/-- The word of `FENCE_ACQ` (R222). -/
def wordFenceAcq (m s : Nat) : Nat := 0x7C000010 + m * 1024 + s * 4

/-- The word of `FENCE_REL` (R221). -/
def wordFenceRel (m s : Nat) : Nat := 0x7C000020 + m * 1024 + s * 4

/-- The word of `FENCE_FULL` (R227). -/
def wordFenceFull (m s : Nat) : Nat := 0x7C000030 + m * 1024 + s * 4

/-- The word of `FACK` (R227). -/
def wordFack : Nat := 0x7C000040

/-- The word of `AMOADD` (R231). -/
def wordAmoadd (d a b m o s r : Nat) : Nat := 0x80000000 + d * 4194304 + a * 262144 + b * 16384 + m * 1024 + o * 16 + s * 4 + r

/-- The word of `AMOAND` (R231). -/
def wordAmoand (d a b m o s r : Nat) : Nat := 0x80000040 + d * 4194304 + a * 262144 + b * 16384 + m * 1024 + o * 16 + s * 4 + r

/-- The word of `AMOOR` (R231). -/
def wordAmoor (d a b m o s r : Nat) : Nat := 0x80000080 + d * 4194304 + a * 262144 + b * 16384 + m * 1024 + o * 16 + s * 4 + r

/-- The word of `AMOXOR` (R231). -/
def wordAmoxor (d a b m o s r : Nat) : Nat := 0x800000C0 + d * 4194304 + a * 262144 + b * 16384 + m * 1024 + o * 16 + s * 4 + r

/-- The word of `AMOMIN` (R231). -/
def wordAmomin (d a b m o s r : Nat) : Nat := 0x80000100 + d * 4194304 + a * 262144 + b * 16384 + m * 1024 + o * 16 + s * 4 + r

/-- The word of `AMOMAX` (R231). -/
def wordAmomax (d a b m o s r : Nat) : Nat := 0x80000140 + d * 4194304 + a * 262144 + b * 16384 + m * 1024 + o * 16 + s * 4 + r

/-- The word of `AMOMINN` (R231). -/
def wordAmominn (d a b m o s r : Nat) : Nat := 0x80000180 + d * 4194304 + a * 262144 + b * 16384 + m * 1024 + o * 16 + s * 4 + r

/-- The word of `AMOMAXN` (R231). -/
def wordAmomaxn (d a b m o s r : Nat) : Nat := 0x800001C0 + d * 4194304 + a * 262144 + b * 16384 + m * 1024 + o * 16 + s * 4 + r

/-- The word of `AMOSWP` (R231). -/
def wordAmoswp (d a b m o s r : Nat) : Nat := 0x80000200 + d * 4194304 + a * 262144 + b * 16384 + m * 1024 + o * 16 + s * 4 + r

/-- The word of `AMOCAS` (R231). -/
def wordAmocas (d a b m o s f r : Nat) : Nat := 0x80000240 + d * 4194304 + a * 262144 + b * 16384 + m * 1024 + o * 16 + s * 4 + f * 2 + r

/-- The word of `BARCFG` (R235). -/
def wordBarcfg (s a x i : Nat) : Nat := 0x84000000 + s * 4194304 + a * 16384 + x * 1024 + i

/-- The word of `BARRV` (R235). -/
def wordBarrv (s d x i : Nat) : Nat := 0x84800000 + s * 4194304 + d * 262144 + x * 1024 + i

/-- The word of `BARWT` (R235). -/
def wordBarwt (s a x i : Nat) : Nat := 0x85000000 + s * 4194304 + a * 16384 + x * 1024 + i

/-- The word of `BARSY` (R235). -/
def wordBarsy (s x i : Nat) : Nat := 0x85800000 + s * 4194304 + x * 1024 + i

/-- The word of `BARQ` (R235). -/
def wordBarq (s d x i : Nat) : Nat := 0x86000000 + s * 4194304 + d * 262144 + x * 1024 + i

/-- The word of `SEND` (R151). -/
def wordSend (c p n t : Nat) : Nat := 0x88000000 + c * 1048576 + p * 16384 + n * 2048 + t

/-- The word of `SENDV` (R151). -/
def wordSendv (c v n t : Nat) : Nat := 0x88000100 + c * 1048576 + v * 16384 + n * 2048 + t

/-- The word of `REPLY` (R151). -/
def wordReply (p n t : Nat) : Nat := 0x88000200 + p * 16384 + n * 2048 + t

/-- The word of `REPLYV` (R151). -/
def wordReplyv (v n t : Nat) : Nat := 0x88000300 + v * 16384 + n * 2048 + t

/-- The word of `BIND` (R161). -/
def wordBind (t e c : Nat) : Nat := 0x8C000000 + t * 1048576 + e * 16384 + c * 256

/-- The word of `UNBIND` (R162). -/
def wordUnbind (t : Nat) : Nat := 0x8C000001 + t * 1048576

/-- The word of `DONE` (R163). -/
def wordDone : Nat := 0x8C000002

/-- The word of `REFUSE` (R164). -/
def wordRefuse : Nat := 0x8C000003

/-- The word of `MSGRD` (R165). -/
def wordMsgrd (d i : Nat) : Nat := 0x8C000004 + d * 1048576 + i * 256

/-- The word of `JSET` (R175). -/
def wordJset (a b t : Nat) : Nat := 0x90000000 + a * 1048576 + b * 16384 + t

/-- The word of `ARRIVE` (R175). -/
def wordArrive (a b : Nat) : Nat := 0x90001000 + a * 1048576 + b * 16384

/-- The word of `JGET` (R175). -/
def wordJget (d a : Nat) : Nat := 0x90002000 + d * 1048576 + a * 16384

/-- The word of `GDEF` (R172). -/
def wordGdef (d a : Nat) : Nat := 0x94000000 + d * 1048576 + a * 16384

/-- The word of `GSUCC` (R172). -/
def wordGsucc (d a b : Nat) : Nat := 0x94000001 + d * 1048576 + a * 16384 + b * 256

/-- The word of `GDONE` (R172). -/
def wordGdone (d a : Nat) : Nat := 0x94000002 + d * 1048576 + a * 16384

/-- The word of `GQRY` (R172). -/
def wordGqry (d a : Nat) : Nat := 0x94000003 + d * 1048576 + a * 16384

/-- The word of `GDONE_HOLD` (R172). -/
def wordGdoneHold (d a : Nat) : Nat := 0x94000004 + d * 1048576 + a * 16384

/-- The word of `WPUT` (R176). -/
def wordWput (d a b : Nat) : Nat := 0x98000000 + d * 1048576 + a * 16384 + b * 256

/-- The word of `WTAKE` (R176). -/
def wordWtake (d a b : Nat) : Nat := 0x98000001 + d * 1048576 + a * 16384 + b * 256

/-- The word of `WQCFG` (R176). -/
def wordWqcfg (d a b : Nat) : Nat := 0x98000002 + d * 1048576 + a * 16384 + b * 256

/-- The word of `HCFG` (R178). -/
def wordHcfg (h a s z t : Nat) : Nat := 0x9C000000 + h * 1048576 + a * 16384 + s * 2048 + z * 128 + t * 4

/-- The word of `HADV` (R179). -/
def wordHadv (h n : Nat) : Nat := 0x9C000001 + h * 1048576 + n * 256

/-- The word of `HADV_P` (R179). -/
def wordHadvP (h n : Nat) : Nat := 0x9C000081 + h * 1048576 + n * 256

/-- The word of `HGET` (R179). -/
def wordHget (d h : Nat) : Nat := 0x9C000002 + d * 1048576 + h * 16384

/-- The word of `VADD` (R135). -/
def wordVadd (d a b p t : Nat) : Nat := 0xA0000000 + d * 1048576 + a * 16384 + b * 256 + p * 32 + t * 4

/-- The word of `VSUB` (R135). -/
def wordVsub (d a b p t : Nat) : Nat := 0xA0000001 + d * 1048576 + a * 16384 + b * 256 + p * 32 + t * 4

/-- The word of `VMUL` (R135). -/
def wordVmul (d a b p t : Nat) : Nat := 0xA0000002 + d * 1048576 + a * 16384 + b * 256 + p * 32 + t * 4

/-- The word of `VFMA` (R135). -/
def wordVfma (d a b p t : Nat) : Nat := 0xA0000003 + d * 1048576 + a * 16384 + b * 256 + p * 32 + t * 4

/-- The word of `VMIN` (R135). -/
def wordVmin (d a b p t : Nat) : Nat := 0xA4000000 + d * 1048576 + a * 16384 + b * 256 + p * 32 + t * 4

/-- The word of `VMAX` (R135). -/
def wordVmax (d a b p t : Nat) : Nat := 0xA4000001 + d * 1048576 + a * 16384 + b * 256 + p * 32 + t * 4

/-- The word of `VABS` (R135). -/
def wordVabs (d a p t : Nat) : Nat := 0xA4000002 + d * 1048576 + a * 16384 + p * 32 + t * 4

/-- The word of `VNEG` (R135). -/
def wordVneg (d a p t : Nat) : Nat := 0xA4000003 + d * 1048576 + a * 16384 + p * 32 + t * 4

/-- The word of `VAND` (R135). -/
def wordVand (d a b p : Nat) : Nat := 0xA8000000 + d * 1048576 + a * 16384 + b * 256 + p * 32

/-- The word of `VOR` (R135). -/
def wordVor (d a b p : Nat) : Nat := 0xA8000001 + d * 1048576 + a * 16384 + b * 256 + p * 32

/-- The word of `VXOR` (R135). -/
def wordVxor (d a b p : Nat) : Nat := 0xA8000002 + d * 1048576 + a * 16384 + b * 256 + p * 32

/-- The word of `VANDN` (R135). -/
def wordVandn (d a b p : Nat) : Nat := 0xA8000003 + d * 1048576 + a * 16384 + b * 256 + p * 32

/-- The word of `VSHL` (R135). -/
def wordVshl (d a b p t : Nat) : Nat := 0xAC000000 + d * 1048576 + a * 16384 + b * 256 + p * 32 + t * 4

/-- The word of `VSHR` (R135). -/
def wordVshr (d a b p t : Nat) : Nat := 0xAC000001 + d * 1048576 + a * 16384 + b * 256 + p * 32 + t * 4

/-- The word of `VSAR` (R135). -/
def wordVsar (d a b p t : Nat) : Nat := 0xAC000002 + d * 1048576 + a * 16384 + b * 256 + p * 32 + t * 4

/-- The word of `VROT` (R135). -/
def wordVrot (d a b p t : Nat) : Nat := 0xAC000003 + d * 1048576 + a * 16384 + b * 256 + p * 32 + t * 4

/-- The word of `VCEQ` (R136). -/
def wordVceq (d a b p t : Nat) : Nat := 0xB0000000 + d * 1048576 + a * 16384 + b * 256 + p * 32 + t * 4

/-- The word of `VCNE` (R136). -/
def wordVcne (d a b p t : Nat) : Nat := 0xB0000001 + d * 1048576 + a * 16384 + b * 256 + p * 32 + t * 4

/-- The word of `VCLT` (R136). -/
def wordVclt (d a b p t : Nat) : Nat := 0xB0000002 + d * 1048576 + a * 16384 + b * 256 + p * 32 + t * 4

/-- The word of `VCLE` (R136). -/
def wordVcle (d a b p t : Nat) : Nat := 0xB0000003 + d * 1048576 + a * 16384 + b * 256 + p * 32 + t * 4

/-- The word of `VMOV` (R137). -/
def wordVmov (d a p : Nat) : Nat := 0xB4000000 + d * 1048576 + a * 16384 + p * 32

/-- The word of `VSEL` (R137). -/
def wordVsel (d a b p t : Nat) : Nat := 0xB4000001 + d * 1048576 + a * 16384 + b * 256 + p * 32 + t * 4

/-- The word of `VBC` (R137). -/
def wordVbc (d a p t : Nat) : Nat := 0xB4000002 + d * 1048576 + a * 16384 + p * 32 + t * 4

/-- The word of `VEXT` (R137). -/
def wordVext (d a i t : Nat) : Nat := 0xB4000003 + d * 1048576 + a * 16384 + i * 256 + t * 4

/-- The word of `VPRM` (R137). -/
def wordVprm (d a b p : Nat) : Nat := 0xB8000000 + d * 1048576 + a * 16384 + b * 256 + p * 32

/-- The word of `VSLD` (R137). -/
def wordVsld (d a n p : Nat) : Nat := 0xB8000001 + d * 1048576 + a * 16384 + n * 256 + p * 32

/-- The word of `VREV` (R137). -/
def wordVrev (d a p t : Nat) : Nat := 0xB8000002 + d * 1048576 + a * 16384 + p * 32 + t * 4

/-- The word of `VZIP` (R137). -/
def wordVzip (d a b p t : Nat) : Nat := 0xB8000003 + d * 1048576 + a * 16384 + b * 256 + p * 32 + t * 4

/-- The word of `VRSUM` (R138). -/
def wordVrsum (d a p t : Nat) : Nat := 0xBC000000 + d * 1048576 + a * 16384 + p * 32 + t * 4

/-- The word of `VRMAX` (R138). -/
def wordVrmax (d a p t : Nat) : Nat := 0xBC000001 + d * 1048576 + a * 16384 + p * 32 + t * 4

/-- The word of `VRMIN` (R138). -/
def wordVrmin (d a p t : Nat) : Nat := 0xBC000002 + d * 1048576 + a * 16384 + p * 32 + t * 4

/-- The word of `VRAND` (R138). -/
def wordVrand (d a p t : Nat) : Nat := 0xBC000003 + d * 1048576 + a * 16384 + p * 32 + t * 4

/-- The word of `VRCP` (R139). -/
def wordVrcp (d a p t : Nat) : Nat := 0xC0000000 + d * 1048576 + a * 16384 + p * 32 + t * 4

/-- The word of `VRSQ` (R139). -/
def wordVrsq (d a p t : Nat) : Nat := 0xC0000001 + d * 1048576 + a * 16384 + p * 32 + t * 4

/-- The word of `VSQT` (R139). -/
def wordVsqt (d a p t : Nat) : Nat := 0xC0000002 + d * 1048576 + a * 16384 + p * 32 + t * 4

/-- The word of `VEXP` (R139). -/
def wordVexp (d a p t : Nat) : Nat := 0xC0000003 + d * 1048576 + a * 16384 + p * 32 + t * 4

/-- The word of `VLOG` (R139). -/
def wordVlog (d a p t : Nat) : Nat := 0xC4000000 + d * 1048576 + a * 16384 + p * 32 + t * 4

/-- The word of `VTNH` (R139). -/
def wordVtnh (d a p t : Nat) : Nat := 0xC4000001 + d * 1048576 + a * 16384 + p * 32 + t * 4

/-- The word of `VSGM` (R139). -/
def wordVsgm (d a p t : Nat) : Nat := 0xC4000002 + d * 1048576 + a * 16384 + p * 32 + t * 4

/-- The word of `VDIV` (R139). -/
def wordVdiv (d a b p t : Nat) : Nat := 0xC4000003 + d * 1048576 + a * 16384 + b * 256 + p * 32 + t * 4

/-- The word of `VCVT` (R142). -/
def wordVcvt (d a x p t : Nat) : Nat := 0xC8000000 + d * 1048576 + a * 16384 + x * 256 + p * 32 + t * 4

/-- The word of `VCEF` (R100). -/
def wordVcef (d a x p t : Nat) : Nat := 0xC8000001 + d * 1048576 + a * 16384 + x * 256 + p * 32 + t * 4

/-- The word of `VPAK` (R142). -/
def wordVpak (d a x p t : Nat) : Nat := 0xC8000002 + d * 1048576 + a * 16384 + x * 256 + p * 32 + t * 4

/-- The word of `VUNP` (R142). -/
def wordVunp (d a x p t : Nat) : Nat := 0xC8000003 + d * 1048576 + a * 16384 + x * 256 + p * 32 + t * 4

/-- The word of `VTKI` (R143). -/
def wordVtki (d a k p t : Nat) : Nat := 0xCC000000 + d * 1048576 + a * 16384 + k * 256 + p * 32 + t * 4

/-- The word of `VTKM` (R143). -/
def wordVtkm (d a k p t : Nat) : Nat := 0xCC000001 + d * 1048576 + a * 16384 + k * 256 + p * 32 + t * 4

/-- The word of `VTKR` (R143). -/
def wordVtkr (d a k p t : Nat) : Nat := 0xCC000002 + d * 1048576 + a * 16384 + k * 256 + p * 32 + t * 4

/-- The word of `VTKN` (R143). -/
def wordVtkn (d a k p t : Nat) : Nat := 0xCC000003 + d * 1048576 + a * 16384 + k * 256 + p * 32 + t * 4

/-- The word of `VPOP` (R144). -/
def wordVpop (d a p t : Nat) : Nat := 0xD0000000 + d * 1048576 + a * 16384 + p * 32 + t * 4

/-- The word of `VCLZ` (R144). -/
def wordVclz (d a p t : Nat) : Nat := 0xD0000001 + d * 1048576 + a * 16384 + p * 32 + t * 4

/-- The word of `VCTZ` (R144). -/
def wordVctz (d a p t : Nat) : Nat := 0xD0000002 + d * 1048576 + a * 16384 + p * 32 + t * 4

/-- The word of `VBRV` (R144). -/
def wordVbrv (d a p t : Nat) : Nat := 0xD0000003 + d * 1048576 + a * 16384 + p * 32 + t * 4

/-- The word of `CXBIND` (R285). -/
def wordCxbind (d a x : Nat) : Nat := 0xD4000000 + d * 1048576 + a * 16384 + x * 256

/-- The word of `CXDROP` (R286). -/
def wordCxdrop (x : Nat) : Nat := 0xD4000001 + x * 256

/-- The word of `CXDROP_ALL` (R286). -/
def wordCxdropAll (x : Nat) : Nat := 0xD4000002 + x * 256

/-- The word of `CXINFO` (R287). -/
def wordCxinfo (d i x : Nat) : Nat := 0xD4000003 + d * 1048576 + i * 16384 + x * 256

/-- The word of `KDEF` (R288). -/
def wordKdef (k a b : Nat) : Nat := 0xD4000008 + k * 1048576 + a * 16384 + b * 256

/-- The word of `KINFO` (R289). -/
def wordKinfo (d k i : Nat) : Nat := 0xD4000009 + d * 1048576 + k * 16384 + i * 256

/-- The word of `KVIEW` (R290). -/
def wordKview (d a b : Nat) : Nat := 0xD400000A + d * 1048576 + a * 16384 + b * 256

/-- The word of `KD` (R296). -/
def wordKd (d a r : Nat) : Nat := 0xD8000000 + d * 4194304 + a * 262144 + r * 2048

/-- The word of `KDT` (R296). -/
def wordKdt (d a r : Nat) : Nat := 0xD8000001 + d * 4194304 + a * 262144 + r * 2048

/-- The word of `KSPUSH` (R317). -/
def wordKspush (k : Nat) : Nat := 0xD8000008 + k * 4194304

/-- The word of `KACC` (R318). -/
def wordKacc (k r : Nat) : Nat := 0xD8000009 + k * 4194304 + r * 2048

/-- The word of `KSWAIT` (R319). -/
def wordKswait (k : Nat) : Nat := 0xD800000A + k * 4194304

/-- The word of `KSTAR` (R299). -/
def wordKstar (d a r : Nat) : Nat := 0xDC000000 + d * 4194304 + a * 262144 + r * 2048

/-- The word of `KSTARI` (R299). -/
def wordKstari (d a r : Nat) : Nat := 0xDC000001 + d * 4194304 + a * 262144 + r * 2048

/-- The word of `KCOD` (R299). -/
def wordKcod (d a r : Nat) : Nat := 0xDC000002 + d * 4194304 + a * 262144 + r * 2048

/-- The word of `KDOT` (R301). -/
def wordKdot (s a b r : Nat) : Nat := 0xDC000003 + s * 4194304 + a * 262144 + b * 16384 + r * 2048

/-- The word of `KWEDGE` (R302). -/
def wordKwedge (d a b r : Nat) : Nat := 0xE0000000 + d * 4194304 + a * 262144 + b * 16384 + r * 2048

/-- The word of `KINTERP` (R303). -/
def wordKinterp (d a b r : Nat) : Nat := 0xE0000001 + d * 4194304 + a * 262144 + b * 16384 + r * 2048

/-- The word of `KADD` (R304). -/
def wordKadd (d a b r : Nat) : Nat := 0xE4000000 + d * 4194304 + a * 262144 + b * 16384 + r * 2048

/-- The word of `KSUB` (R304). -/
def wordKsub (d a b r : Nat) : Nat := 0xE4000001 + d * 4194304 + a * 262144 + b * 16384 + r * 2048

/-- The word of `KMUL` (R304). -/
def wordKmul (d a b r : Nat) : Nat := 0xE4000002 + d * 4194304 + a * 262144 + b * 16384 + r * 2048

/-- The word of `KSC` (R304). -/
def wordKsc (d a s r : Nat) : Nat := 0xE4000003 + d * 4194304 + a * 262144 + s * 16384 + r * 2048

/-- The word of `KMOV` (R304). -/
def wordKmov (d a : Nat) : Nat := 0xE4000004 + d * 4194304 + a * 262144

/-- The word of `KCVT_BX` (R305). -/
def wordKcvtBx (d a r : Nat) : Nat := 0xE4000010 + d * 4194304 + a * 262144 + r * 2048

/-- The word of `KCVT_F32` (R305). -/
def wordKcvtF32 (d a r : Nat) : Nat := 0xE4000011 + d * 4194304 + a * 262144 + r * 2048

/-- The word of `KCVT_F16` (R305). -/
def wordKcvtF16 (d a r : Nat) : Nat := 0xE4000012 + d * 4194304 + a * 262144 + r * 2048

/-- The word of `KCVT_BF16` (R305). -/
def wordKcvtBf16 (d a r : Nat) : Nat := 0xE4000013 + d * 4194304 + a * 262144 + r * 2048

/-- The word of `KCVT_BX_FIX` (R305). -/
def wordKcvtBxFix (d a r : Nat) : Nat := 0xE4000014 + d * 4194304 + a * 262144 + r * 2048

/-- The word of `RMPOKE` (R325). -/
def wordRmpoke (d a b x : Nat) : Nat := 0xE8000000 + d * 1048576 + a * 16384 + b * 256 + x

/-- The word of `RMSPLIT` (R325). -/
def wordRmsplit (d a b x : Nat) : Nat := 0xE8000010 + d * 1048576 + a * 16384 + b * 256 + x

/-- The word of `RMFLIP` (R325). -/
def wordRmflip (d a x : Nat) : Nat := 0xE8000020 + d * 1048576 + a * 16384 + x

/-- The word of `RMCLPS` (R325). -/
def wordRmclps (d a b x : Nat) : Nat := 0xE8000030 + d * 1048576 + a * 16384 + b * 256 + x

/-- The word of `RMCMIT` (R326). -/
def wordRmcmit (d a x : Nat) : Nat := 0xE8000040 + d * 1048576 + a * 16384 + x

/-- The word of `KXFER` (R327). -/
def wordKxfer (d a r : Nat) : Nat := 0xE8000050 + d * 1048576 + a * 16384 + r * 2

/-- The word of `MMCFG` (R339). -/
def wordMmcfg (a : Nat) : Nat := 0xEC000000 + a * 16384

/-- The word of `MMLDB` (R341). -/
def wordMmldb (a i j : Nat) : Nat := 0xEC000010 + a * 16384 + i * 256 + j

/-- The word of `MMZP` (R345). -/
def wordMmzp (a : Nat) : Nat := 0xEC000020 + a * 16384

/-- The word of `MMCNT` (R343). -/
def wordMmcnt (a b : Nat) : Nat := 0xEC000030 + a * 16384 + b * 256

/-- The word of `MMMUL` (R346). -/
def wordMmmul (a b : Nat) : Nat := 0xEC000040 + a * 16384 + b * 256

/-- The word of `MMDRN` (R344). -/
def wordMmdrn : Nat := 0xEC000050

/-- The word of `MMMRG` (R348). -/
def wordMmmrg (d a : Nat) : Nat := 0xEC000060 + d * 1048576 + a * 16384

/-- The word of `MMCLR` (R351). -/
def wordMmclr (c : Nat) : Nat := 0xEC000070 + c

/-- The word of `MMSTA` (R351). -/
def wordMmsta (d i : Nat) : Nat := 0xEC000080 + d * 1048576 + i

/-- The word of `SACC` (R350). -/
def wordSacc (a b r : Nat) : Nat := 0xF0000000 + a * 16384 + b * 256 + r

/-- The word of `MMST` (R351). -/
def wordMmst (a b : Nat) : Nat := 0xF0000010 + a * 16384 + b * 256

/-- The word of `REP` (R355). -/
def wordRep (n s : Nat) : Nat := 0xF0000020 + n * 16384 + s * 256

/-- The word of `REPEND` (R355). -/
def wordRepend : Nat := 0xF0000030

/-- The word of `LCALL` (R383). -/
def wordLcall (o g : Nat) : Nat := 0xF4000000 + o * 256 + g

/-- The word of `LRET` (R384). -/
def wordLret : Nat := 0xF4000010

/-- The word of `LAXIS` (R385). -/
def wordLaxis (d n : Nat) : Nat := 0xF4000020 + d * 1048576 + n

/-- The word of `LAXIS_TAG` (R385). -/
def wordLaxisTag (d r f : Nat) : Nat := 0xF4000028 + d * 1048576 + r * 16384 + f

/-- The word of `LRED` (R386). -/
def wordLred (d a o n f t : Nat) : Nat := 0xF4000030 + d * 1048576 + a * 16384 + o * 4096 + n * 1024 + f * 256 + t

/-- The word of `LSEL` (R387). -/
def wordLsel (d a b f n : Nat) : Nat := 0xF4000040 + d * 1048576 + a * 16384 + b * 256 + f * 4 + n

/-- The word of `LBC` (R388). -/
def wordLbc (d a f n : Nat) : Nat := 0xF4000050 + d * 1048576 + a * 16384 + f * 4 + n

/-- The word of `LTAG` (R389). -/
def wordLtag (k n : Nat) : Nat := 0xF400006C + k * 1048576 + n

/-- The word of `LIDX` (R390). -/
def wordLidx (d n : Nat) : Nat := 0xF4000070 + d * 1048576 + n

/-- The word of `FOPEN` (R402). -/
def wordFopen (d a b : Nat) : Nat := 0xF8000000 + d * 1048576 + a * 16384 + b * 256

/-- The word of `FCLOSE` (R403). -/
def wordFclose (a : Nat) : Nat := 0xF8000010 + a * 16384

/-- The word of `FPATH` (R403). -/
def wordFpath (a b : Nat) : Nat := 0xF8000020 + a * 16384 + b * 256

/-- The word of `FSTAT` (R404). -/
def wordFstat (d a i : Nat) : Nat := 0xF8000030 + d * 1048576 + a * 16384 + i * 256

/-- The word of `RGET` (R406). -/
def wordRget (f a b p : Nat) : Nat := 0xF8000040 + f * 1048576 + a * 16384 + b * 256 + p

/-- The word of `RPUT` (R406). -/
def wordRput (f a b p : Nat) : Nat := 0xF8000050 + f * 1048576 + a * 16384 + b * 256 + p

/-- The word of `RAMO` (R407). -/
def wordRamo (f a b o : Nat) : Nat := 0xF8000060 + f * 1048576 + a * 16384 + b * 256 + o

/-- The word of `FWAIT` (R411). -/
def wordFwait (a : Nat) : Nat := 0xF8000070 + a * 16384

/-- The word of `RPUT_SW` (R406). -/
def wordRputSw (f b p : Nat) : Nat := 0xF8000080 + f * 1048576 + b * 256 + p

/-- The word of an instruction, built from the encoding tables field by field; an event has no word. -/
def encode : Instr → Option Nat
  | .trap a => some (wordTrap a)
  | .brk => some wordBrk
  | .frec d a i => some (wordFrec d a i)
  | .fres d a f => some (wordFres d a f)
  | .fabt d a => some (wordFabt d a)
  | .icinv m a b => some (wordIcinv m a b)
  | .tlbinv m a b => some (wordTlbinv m a b)
  | .hnop => some wordHnop
  | .hext i => some (wordHext i)
  | .hreg => some wordHreg
  | .hjoin o => some (wordHjoin o)
  | .hprio n => some (wordHprio n)
  | .hbank b => some (wordHbank b)
  | .hstall n => some (wordHstall n)
  | .htake f n => some (wordHtake f n)
  | .hlay i => some (wordHlay i)
  | .hflag => some wordHflag
  | .hlsend m => some (wordHlsend m)
  | .htrace i => some (wordHtrace i)
  | .hres k p => some (wordHres k p)
  | .add d a b => some (wordAdd d a b)
  | .sub d a b => some (wordSub d a b)
  | .mul d a b => some (wordMul d a b)
  | .mulh d a b => some (wordMulh d a b)
  | .mulhn d a b => some (wordMulhn d a b)
  | .div d a b => some (wordDiv d a b)
  | .divn d a b => some (wordDivn d a b)
  | .rem d a b => some (wordRem d a b)
  | .remn d a b => some (wordRemn d a b)
  | .and d a b => some (wordAnd d a b)
  | .or d a b => some (wordOr d a b)
  | .xor d a b => some (wordXor d a b)
  | .andn d a b => some (wordAndn d a b)
  | .orn d a b => some (wordOrn d a b)
  | .shl d a b => some (wordShl d a b)
  | .shr d a b => some (wordShr d a b)
  | .sar d a b => some (wordSar d a b)
  | .rol d a b => some (wordRol d a b)
  | .min d a b => some (wordMin d a b)
  | .max d a b => some (wordMax d a b)
  | .minn d a b => some (wordMinn d a b)
  | .maxn d a b => some (wordMaxn d a b)
  | .slt d a b => some (wordSlt d a b)
  | .sltn d a b => some (wordSltn d a b)
  | .seq d a b => some (wordSeq d a b)
  | .sne d a b => some (wordSne d a b)
  | .clz d a => some (wordClz d a)
  | .ctz d a => some (wordCtz d a)
  | .popc d a => some (wordPopc d a)
  | .sxb d a => some (wordSxb d a)
  | .sxh d a => some (wordSxh d a)
  | .sxw d a => some (wordSxw d a)
  | .zxb d a => some (wordZxb d a)
  | .zxh d a => some (wordZxh d a)
  | .zxw d a => some (wordZxw d a)
  | .bfx d a b => some (wordBfx d a b)
  | .bfi d a b => some (wordBfi d a b)
  | .padd d a b => some (wordPadd d a b)
  | .pchk d a b => some (wordPchk d a b)
  | .addi d a i => some (wordAddi d a i)
  | .andi d a i => some (wordAndi d a i)
  | .ori d a i => some (wordOri d a i)
  | .xori d a i => some (wordXori d a i)
  | .shli d a n => some (wordShli d a n)
  | .shri d a n => some (wordShri d a n)
  | .sari d a n => some (wordSari d a n)
  | .roli d a n => some (wordRoli d a n)
  | .slti d a i => some (wordSlti d a i)
  | .sltni d a i => some (wordSltni d a i)
  | .ldhi d i => some (wordLdhi d i)
  | .lea d i => some (wordLea d i)
  | .rdsr d r => some (wordRdsr d r)
  | .wrsr a r => some (wordWrsr a r)
  | .beq a b o => some (wordBeq a b o)
  | .bne a b o => some (wordBne a b o)
  | .blt a b o => some (wordBlt a b o)
  | .bge a b o => some (wordBge a b o)
  | .bltn a b o => some (wordBltn a b o)
  | .bgen a b o => some (wordBgen a b o)
  | .jmp o => some (wordJmp o)
  | .jal o => some (wordJal o)
  | .jr a => some (wordJr a)
  | .ret => some wordRet
  | .jalr d a => some (wordJalr d a)
  | .loop a o => some (wordLoop a o)
  | .ld d b z o => some (wordLd d b z o)
  | .lds d b z o => some (wordLds d b z o)
  | .st s b z o => some (wordSt s b z o)
  | .vld v b p o => some (wordVld v b p o)
  | .vlds v b p s => some (wordVlds v b p s)
  | .vldb v b p o => some (wordVldb v b p o)
  | .vst v b p o => some (wordVst v b p o)
  | .vsts v b p s => some (wordVsts v b p s)
  | .vgat v b i p => some (wordVgat v b i p)
  | .vsct v b i p => some (wordVsct v b i p)
  | .mget x y z t => some (wordMget x y z t)
  | .mgetv y t => some (wordMgetv y t)
  | .mput x y z => some (wordMput x y z)
  | .mputR x y z => some (wordMputR x y z)
  | .mputv y v => some (wordMputv y v)
  | .mputvR y v => some (wordMputvR y v)
  | .cpy x y z w m => some (wordCpy x y z w m)
  | .cpy2 x y z w m => some (wordCpy2 x y z w m)
  | .cpydl x y z w => some (wordCpydl x y z w)
  | .cpyst x => some (wordCpyst x)
  | .swinit x y z => some (wordSwinit x y z)
  | .swwait x y => some (wordSwwait x y)
  | .swget x y => some (wordSwget x y)
  | .swadd x y => some (wordSwadd x y)
  | .wsld x y z w => some (wordWsld x y z w)
  | .wsldB x y z w => some (wordWsldB x y z w)
  | .wswr x y z w => some (wordWswr x y z w)
  | .wsinfo x => some (wordWsinfo x)
  | .fenceAcq m s => some (wordFenceAcq m s)
  | .fenceRel m s => some (wordFenceRel m s)
  | .fenceFull m s => some (wordFenceFull m s)
  | .fack => some wordFack
  | .amoadd d a b m o s r => some (wordAmoadd d a b m o s r)
  | .amoand d a b m o s r => some (wordAmoand d a b m o s r)
  | .amoor d a b m o s r => some (wordAmoor d a b m o s r)
  | .amoxor d a b m o s r => some (wordAmoxor d a b m o s r)
  | .amomin d a b m o s r => some (wordAmomin d a b m o s r)
  | .amomax d a b m o s r => some (wordAmomax d a b m o s r)
  | .amominn d a b m o s r => some (wordAmominn d a b m o s r)
  | .amomaxn d a b m o s r => some (wordAmomaxn d a b m o s r)
  | .amoswp d a b m o s r => some (wordAmoswp d a b m o s r)
  | .amocas d a b m o s f r => some (wordAmocas d a b m o s f r)
  | .barcfg s a x i => some (wordBarcfg s a x i)
  | .barrv s d x i => some (wordBarrv s d x i)
  | .barwt s a x i => some (wordBarwt s a x i)
  | .barsy s x i => some (wordBarsy s x i)
  | .barq s d x i => some (wordBarq s d x i)
  | .send c p n t => some (wordSend c p n t)
  | .sendv c v n t => some (wordSendv c v n t)
  | .reply p n t => some (wordReply p n t)
  | .replyv v n t => some (wordReplyv v n t)
  | .bind t e c => some (wordBind t e c)
  | .unbind t => some (wordUnbind t)
  | .done => some wordDone
  | .refuse => some wordRefuse
  | .msgrd d i => some (wordMsgrd d i)
  | .jset a b t => some (wordJset a b t)
  | .arrive a b => some (wordArrive a b)
  | .jget d a => some (wordJget d a)
  | .gdef d a => some (wordGdef d a)
  | .gsucc d a b => some (wordGsucc d a b)
  | .gdone d a => some (wordGdone d a)
  | .gqry d a => some (wordGqry d a)
  | .gdoneHold d a => some (wordGdoneHold d a)
  | .wput d a b => some (wordWput d a b)
  | .wtake d a b => some (wordWtake d a b)
  | .wqcfg d a b => some (wordWqcfg d a b)
  | .hcfg h a s z t => some (wordHcfg h a s z t)
  | .hadv h n => some (wordHadv h n)
  | .hadvP h n => some (wordHadvP h n)
  | .hget d h => some (wordHget d h)
  | .vadd d a b p t => some (wordVadd d a b p t)
  | .vsub d a b p t => some (wordVsub d a b p t)
  | .vmul d a b p t => some (wordVmul d a b p t)
  | .vfma d a b p t => some (wordVfma d a b p t)
  | .vmin d a b p t => some (wordVmin d a b p t)
  | .vmax d a b p t => some (wordVmax d a b p t)
  | .vabs d a p t => some (wordVabs d a p t)
  | .vneg d a p t => some (wordVneg d a p t)
  | .vand d a b p => some (wordVand d a b p)
  | .vor d a b p => some (wordVor d a b p)
  | .vxor d a b p => some (wordVxor d a b p)
  | .vandn d a b p => some (wordVandn d a b p)
  | .vshl d a b p t => some (wordVshl d a b p t)
  | .vshr d a b p t => some (wordVshr d a b p t)
  | .vsar d a b p t => some (wordVsar d a b p t)
  | .vrot d a b p t => some (wordVrot d a b p t)
  | .vceq d a b p t => some (wordVceq d a b p t)
  | .vcne d a b p t => some (wordVcne d a b p t)
  | .vclt d a b p t => some (wordVclt d a b p t)
  | .vcle d a b p t => some (wordVcle d a b p t)
  | .vmov d a p => some (wordVmov d a p)
  | .vsel d a b p t => some (wordVsel d a b p t)
  | .vbc d a p t => some (wordVbc d a p t)
  | .vext d a i t => some (wordVext d a i t)
  | .vprm d a b p => some (wordVprm d a b p)
  | .vsld d a n p => some (wordVsld d a n p)
  | .vrev d a p t => some (wordVrev d a p t)
  | .vzip d a b p t => some (wordVzip d a b p t)
  | .vrsum d a p t => some (wordVrsum d a p t)
  | .vrmax d a p t => some (wordVrmax d a p t)
  | .vrmin d a p t => some (wordVrmin d a p t)
  | .vrand d a p t => some (wordVrand d a p t)
  | .vrcp d a p t => some (wordVrcp d a p t)
  | .vrsq d a p t => some (wordVrsq d a p t)
  | .vsqt d a p t => some (wordVsqt d a p t)
  | .vexp d a p t => some (wordVexp d a p t)
  | .vlog d a p t => some (wordVlog d a p t)
  | .vtnh d a p t => some (wordVtnh d a p t)
  | .vsgm d a p t => some (wordVsgm d a p t)
  | .vdiv d a b p t => some (wordVdiv d a b p t)
  | .vcvt d a x p t => some (wordVcvt d a x p t)
  | .vcef d a x p t => some (wordVcef d a x p t)
  | .vpak d a x p t => some (wordVpak d a x p t)
  | .vunp d a x p t => some (wordVunp d a x p t)
  | .vtki d a k p t => some (wordVtki d a k p t)
  | .vtkm d a k p t => some (wordVtkm d a k p t)
  | .vtkr d a k p t => some (wordVtkr d a k p t)
  | .vtkn d a k p t => some (wordVtkn d a k p t)
  | .vpop d a p t => some (wordVpop d a p t)
  | .vclz d a p t => some (wordVclz d a p t)
  | .vctz d a p t => some (wordVctz d a p t)
  | .vbrv d a p t => some (wordVbrv d a p t)
  | .cxbind d a x => some (wordCxbind d a x)
  | .cxdrop x => some (wordCxdrop x)
  | .cxdropAll x => some (wordCxdropAll x)
  | .cxinfo d i x => some (wordCxinfo d i x)
  | .kdef k a b => some (wordKdef k a b)
  | .kinfo d k i => some (wordKinfo d k i)
  | .kview d a b => some (wordKview d a b)
  | .kd d a r => some (wordKd d a r)
  | .kdt d a r => some (wordKdt d a r)
  | .kspush k => some (wordKspush k)
  | .kacc k r => some (wordKacc k r)
  | .kswait k => some (wordKswait k)
  | .kstar d a r => some (wordKstar d a r)
  | .kstari d a r => some (wordKstari d a r)
  | .kcod d a r => some (wordKcod d a r)
  | .kdot s a b r => some (wordKdot s a b r)
  | .kwedge d a b r => some (wordKwedge d a b r)
  | .kinterp d a b r => some (wordKinterp d a b r)
  | .kadd d a b r => some (wordKadd d a b r)
  | .ksub d a b r => some (wordKsub d a b r)
  | .kmul d a b r => some (wordKmul d a b r)
  | .ksc d a s r => some (wordKsc d a s r)
  | .kmov d a => some (wordKmov d a)
  | .kcvtBx d a r => some (wordKcvtBx d a r)
  | .kcvtF32 d a r => some (wordKcvtF32 d a r)
  | .kcvtF16 d a r => some (wordKcvtF16 d a r)
  | .kcvtBf16 d a r => some (wordKcvtBf16 d a r)
  | .kcvtBxFix d a r => some (wordKcvtBxFix d a r)
  | .rmpoke d a b x => some (wordRmpoke d a b x)
  | .rmsplit d a b x => some (wordRmsplit d a b x)
  | .rmflip d a x => some (wordRmflip d a x)
  | .rmclps d a b x => some (wordRmclps d a b x)
  | .rmcmit d a x => some (wordRmcmit d a x)
  | .kxfer d a r => some (wordKxfer d a r)
  | .mmcfg a => some (wordMmcfg a)
  | .mmldb a i j => some (wordMmldb a i j)
  | .mmzp a => some (wordMmzp a)
  | .mmcnt a b => some (wordMmcnt a b)
  | .mmmul a b => some (wordMmmul a b)
  | .mmdrn => some wordMmdrn
  | .mmmrg d a => some (wordMmmrg d a)
  | .mmclr c => some (wordMmclr c)
  | .mmsta d i => some (wordMmsta d i)
  | .sacc a b r => some (wordSacc a b r)
  | .mmst a b => some (wordMmst a b)
  | .rep n s => some (wordRep n s)
  | .repend => some wordRepend
  | .lcall o g => some (wordLcall o g)
  | .lret => some wordLret
  | .laxis d n => some (wordLaxis d n)
  | .laxisTag d r f => some (wordLaxisTag d r f)
  | .lred d a o n f t => some (wordLred d a o n f t)
  | .lsel d a b f n => some (wordLsel d a b f n)
  | .lbc d a f n => some (wordLbc d a f n)
  | .ltag k n => some (wordLtag k n)
  | .lidx d n => some (wordLidx d n)
  | .fopen d a b => some (wordFopen d a b)
  | .fclose a => some (wordFclose a)
  | .fpath a b => some (wordFpath a b)
  | .fstat d a i => some (wordFstat d a i)
  | .rget f a b p => some (wordRget f a b p)
  | .rput f a b p => some (wordRput f a b p)
  | .ramo f a b o => some (wordRamo f a b o)
  | .fwait a => some (wordFwait a)
  | .rputSw f b p => some (wordRputSw f b p)
  | .messageArrival _ _ => none
  | .activationStart _ => none
  | .systemHandler _ => none
  | .remoteOpExecute _ _ => none
  | .joinArrival _ _ => none
  | .syncWordRaise _ => none
  | .mgetReply _ => none
  | .memoryNodeRequest _ => none
  | .writeAcknowledgement _ => none
  | .pageWalk _ _ _ => none
  | .farReadFill _ => none
  | .markerArrival _ => none
  | .markerApply _ _ => none
  | .clockNoteArrival _ => none
  | .copyJobStart _ _ => none
  | .copyPartLanded _ _ _ => none
  | .copyJobMnodeStop _ _ => none
  | .rowActivationAlert _ => none
  | .refreshPostponementDue _ => none
  | .wsRefreshWindowOpen _ => none
  | .wsRefreshWindowClose _ => none
  | .copyRecordArrival _ => none
  | .copyRecordWithdrawal _ => none
  | .seamSend _ => none
  | .seamArrival _ => none
  | .seamArrivalResend _ => none
  | .seamTimeout _ _ => none
  | .hstallExpiry _ _ => none
  | .parkedActivationSave _ => none
  | .preemptBoundary _ _ => none
  | .preemptImmediate _ _ => none
  | .contextRestore _ _ => none
  | .coreMigration _ _ => none
  | .countEngineStep _ => none
  | .serviceEngineStep _ => none
  | .mergeSetArrival _ => none
  | .launchRegistration _ _ _ _ => none
  | .nodePlacement _ _ _ => none
  | .nodeDispatch _ _ => none
  | .nodeCompletion _ _ => none
  | .hostMessage _ => none
  | .vfCreate _ => none
  | .hostDebugCommand _ _ _ _ => none
  | .attestationQuote _ _ => none
  | .portModeWrite _ => none
  | .registerWrite _ _ => none
  | .runClockCommand _ _ => none
  | .holdCommand _ => none
  | .keepCommand _ => none
  | .offCommand _ => none
  | .stackSelfRefreshCommand _ _ => none
  | .dieDrainDone _ => none
  | .thermalWarning _ => none
  | .thermalAlert _ => none
  | .thermalTrip _ => none
  | .powerGood _ _ => none
  | .recoveryDoorbell _ => none
  | .stackTrained _ => none
  | .stackTrainTimeout _ => none
  | .matrixCalibrated _ => none
  | .portTrainingDone _ _ => none
  | .coreReset _ => none
  | .packageReset => none
  | .memoryNodeReset _ => none
  | .fabricPacketArrival _ => none
  | .flaggedApply _ _ => none
  | .fabricAckArrival _ => none
  | .rgetDataArrival _ _ => none
  | .ramoReply _ _ => none
  | .packetTrim _ _ _ => none
  | .flowRetryTimeout _ _ => none
  | .laceFlitReceive _ _ => none
  | .laceReplayRequest _ _ => none
  | .laneScoreInterval _ _ => none
  | .readReplyArrival _ => none
  | .markerAcknowledgement _ => none
  | .barrierArrival _ => none
  | .weightStoreLanding _ _ => none
  | .invalidationRequestArrival _ => none
  | .memoryNodeResetRelease _ => none
  | .coreResetRelease _ => none
  | .powerLoss => none
  | .objectLoad _ _ _ _ => none
  | .objectUnload _ _ => none
  | .pointerKeyReplace _ _ => none
  | .powerTransitionDone _ => none

end Sys2Proof
end

