-- ==== Sys2Proof/Machine/State.lean ====
section
/-!
DEFINITION. State: everything the manual gives the machine, as plain data, and the state after reset.
Sparse tables are lists of (key, value) pairs; a key that is not listed stands for the value named in the field's comment.
-/

namespace Sys2Proof.Machine

/-- A table of values by number. -/
abbrev Table (α : Type) := List (Nat × α)

/-- Byte memory: the listed cells, addresses strictly rising, no listed byte equal to what an unlisted address reads as. -/
abbrev Memory := List Host.Cell

/-- A register with its tag set (R368): `tags` bit L stands for axis L; `val` is instance 0; `more` holds the other instances
by packed index (10 bits an axis, as `sr.lidx`). -/
structure Tagged (α : Type) where
  tags : Nat
  val : α
  more : Table α
  deriving DecidableEq, Repr

/-- One partial received for an accumulate (R318): holder slice, owned row, instance, the row's elements as bit patterns. -/
structure Partial where
  slice : Nat
  row : Nat
  inst : Nat
  vals : List Nat
  deriving DecidableEq, Repr

/-- A cochain register (R280, R314): the two descriptor words, the seam kind (0 push, 1 accumulate), the arrivals still
expected, and of a pending merge its rounding mode, the copy records it began with (holder slice, ghost ordinal, owned row) and the
partials received. -/
structure KReg where
  w0 : Word := 0
  w1 : Word := 0
  kind : Nat := 0
  count : Nat := 0
  rnd : Nat := 0
  recs : List (Nat × Nat × Nat) := []
  parts : List Partial := []
  deriving DecidableEq, Repr

/-- A buffer handle (R178) and what the region record keeps of it (R180): its configuration and counts at region entry, the
slots consumed and the slots `hadv.p` produced since, and those copy engines produced since. -/
structure Handle where
  base : Nat := 0
  slots : Nat := 0
  z : Nat := 0
  take : Nat := 1
  filled : Nat := 0
  ridx : Nat := 0
  widx : Nat := 0
  deriving DecidableEq, Repr

/-- The region record's part for one handle. -/
structure HandleMark where
  entry : Handle := {}
  consumed : Nat := 0
  produced : Nat := 0
  engine : Nat := 0
  deriving DecidableEq, Repr

/-- One lift level (R364): extent, gauge, return address. -/
structure Level where
  ext : Nat
  gauge : Nat
  ret : Word
  deriving DecidableEq, Repr

/-- An open batched-branch frame (R379, R380); `tags` are those of its condition. -/
inductive Frame where
  | fork (join : Word) (tags : Nat) (saved pending : List Nat) (target : Word)
  | loop (branch join : Word) (tags : Nat) (saved : List Nat)
  deriving DecidableEq, Repr

/-- The lift state of an activation (R364 to R367): levels from 0 upward, open frames topmost first, active instances as
packed indices in instance order, and the `used` fields of the gauges. -/
structure Lift where
  levels : List Level := []
  frames : List Frame := []
  active : List Nat := [0]
  deriving DecidableEq, Repr

/-- The value of a tracked register, as a region record latches it (R252). -/
inductive RegSave where
  | s (n : Nat) (v : Tagged Word)
  | v (n : Nat) (v : Tagged Vec)
  | p (n : Nat) (v : Tagged Lane)
  | k (n : Nat) (v : KReg)
  deriving DecidableEq, Repr

/-- One matrix pass captured in a repetition body (R355): the command, its operand codes, its hints, the repetition, and the
address of its word. -/
structure RepPass where
  mul : Bool
  a : Nat
  b : Nat
  lay : Option Nat
  take : Option (Nat × Nat)
  j : Nat
  pc : Word
  deriving DecidableEq, Repr

/-- An open repetition body (R355): its count and step, the repetition being run, the address of its first word, the words of
the body seen so far in this repetition, whether its kind is known to be matrix, and the captured passes. -/
structure Rep where
  n : Nat
  step : Int
  j : Nat
  start : Word
  words : Nat
  matrix : Option Bool
  passes : List RepPass
  deriving DecidableEq, Repr

/-- The region record of a context (R250, R381). Registers are numbered file × 64 + number: scalar 0, vector 1, predicate 2,
cochain 3. `oldTags` keeps the registers whose tag set changed in the region as they stood before. -/
structure Region where
  entry : Word := 0
  wmask : BitVec 256 := 0
  fmask : BitVec 256 := 0
  latched : List RegSave := []
  oldTags : List RegSave := []
  handles : Table HandleMark := []
  lift : Lift := {}
  rep : Option Rep := none
  deriving DecidableEq, Repr

/-- The attaching hints pending in a context (R52). -/
structure Pending where
  ext : List Nat := []
  join : Option Nat := none
  bank : Option Nat := none
  take : Option (Nat × Nat) := none
  lay : Option Nat := none
  flag : Bool := false
  lsend : Option Nat := none
  deriving DecidableEq, Repr

/-- Whom a write, request or job belongs to: the core, context and activation that issued it, its virtual function and launch
(none for a launch-less activation), and for a later report (R257) the instruction's word and address and the address, pointer or
reference that fails. -/
structure Owner where
  core : Nat := 0
  ctx : Nat := 0
  act : Nat := 0
  vf : Nat := 0
  launch : Option Nat := none
  word : Nat := 0
  pc : Word := 0
  addr : Word := 0
  deriving DecidableEq, Repr

/-- A message (R149) as it travels and as the activation it starts holds it. `src` is the value of s8 (R158), `sys` the system
word (R157), `sent` says that an instruction of major 0x22 sent it. -/
structure Msg where
  type : Nat := 0
  tag : Nat := 0
  words : List Word := []
  vec : Option Vec := none
  src : Word := 0
  sys : Word := 0
  dst : Nat := 0
  vf : Nat := 0
  launch : Option Nat := none
  sent : Bool := false
  deriving DecidableEq, Repr

/-- Something that arrives in answer to one piece of a held access: the bytes, or the fault code 0x13 or 0x15. -/
inductive Piece where
  | data (bs : List Byte)
  | bad (code : Nat)
  deriving DecidableEq, Repr

/-- One end of a copy job: HBM by the pointer, its virtual address and its 64 KiB pages (virtual page number, physical page
number), a scratchpad, a handle's ring, the weight store or a B buffer. -/
inductive Place where
  | hbm (ptr : Word) (va : Nat) (pages : Table Nat)
  | spad (core addr : Nat)
  | handle (core act h : Nat)
  | store (off : Nat)
  | bbuf (oct off : Nat)
  deriving DecidableEq, Repr

/-- A copy or weight-store job of a die (R207 to R215): destination, source, rows and pitches in bytes, the deal pattern of
`cpydl` (block size, first core, width, number of targets, 0 for none), the sync word raised (core, address), bytes done and
whether started; of a weight-store job, whose blocks need not move in order (R214), the 64-byte blocks moved. -/
structure Job where
  id : Nat
  own : Owner
  wid : Nat
  dst : Place
  src : Place
  rowlen : Nat
  rows : Nat
  spitch : Nat
  dpitch : Nat
  deal : Option (Nat × Nat × Nat × Nat) := none
  sw : Option (Nat × Nat) := none
  ws : Bool := false
  done : Nat := 0
  started : Bool := false
  moved : List Nat := []
  deriving DecidableEq, Repr

/-- A packet not yet acknowledged: its number in the flow, its path, the data it carries, whether it waits for receiver credit (R419). -/
structure FabPkt where
  num : Nat
  path : Nat
  data : List Byte
  waits : Bool := false
  deriving DecidableEq, Repr

/-- One remote operation issued on a flow (R406, R407): kind 0 get, 1 put, 2 raise, 3 atomic; the packets outstanding; the local
landing address; bytes; offset and window; the function of an atomic; its ordered-flag bit; its pinned path. -/
structure FabOpRec where
  id : Nat
  kind : Nat
  pkts : List FabPkt
  land : Nat
  n : Nat
  off : Nat
  win : Nat
  op : Nat := 0
  flagged : Bool
  pin : Option Nat
  own : Owner
  deriving DecidableEq, Repr

/-- What the checks of one instance found, of an instruction whose instances begin one after the other once all of them have passed
(R371): a split-phase read, a copy job, an atomic on a core's scratchpad or on HBM, a remote operation of a flow with its packets. -/
inductive Planned where
  | mget (x : Nat) (y : Word) (n : Nat) (ps : List (Nat × Nat × Bool))
  | job (j : Job)
  | amo (core : Option Nat) (a : Nat)
  | fab (die n : Nat) (o : FabOpRec) (pkts : List (List Byte))
  deriving DecidableEq, Repr

/-- An instruction that holds its context with something begun (R195, R233): a serial number, the pieces still due and those that
came, by piece number; whether a pre-emption must let it complete; the pool registers taken in advance for the instances of its
result (R369); how many of its instances, or of the words it writes, are begun; and whether it is an instruction on the cochain unit,
whose serial number is its place in the unit's order and whose pieces are the scratchpad words it has read (R306); the instances that
have passed their checks and not begun, and of a push or accumulate the copy records held when it started (R312). -/
structure Held where
  id : Nat
  due : Nat
  got : Table Piece
  atomic : Bool
  pool : Nat := 0
  begun : Nat := 0
  unit : Bool := false
  plan : List Planned := []
  recs : Option (List (Nat × Nat × Nat)) := none
  deriving DecidableEq, Repr

/-- A release in progress (R221): whether its markers have been sent, and the marker acknowledgements still due. -/
structure Release where
  sent : Bool
  due : Nat
  deriving DecidableEq, Repr

/-- What a context waits for, as far as other units must know it. -/
inductive WaitFor where
  | ready
  | seam (k : Nat)
  | other
  deriving DecidableEq, Repr

/-- A word of a vector register with bad parity (R123): register, lane, the instance that holds it (packed), and the bits that would
read wrong. -/
structure BadWord where
  reg : Nat
  lane : Nat
  inst : Nat
  mask : Lane
  deriving DecidableEq, Repr

/-- A spare register of the pool that duplicates a vector register at one of its instances (R122): the register, the instance (packed),
and the lanes at which the duplicate has bad parity (R123). -/
structure Duplicate where
  reg : Nat
  inst : Nat
  lanes : List Nat := []
  deriving DecidableEq, Repr

/-- The life of a context: free, running an activation, or holding a parked one (R258). -/
inductive Status where
  | free
  | running
  | parked
  deriving DecidableEq, Repr

/-- The fault record (R255). -/
structure FaultRec where
  f0 : Word := 0
  f1 : Word := 0
  f2 : Word := 0
  f3 : Word := 0
  deriving DecidableEq, Repr

/-- The register files of an activation: scalar, vector, predicate, cochain. Unlisted registers read zero, untagged. -/
structure Regs where
  s : Table (Tagged Word) := []
  v : Table (Tagged Vec) := []
  p : Table (Tagged Lane) := []
  k : Table KReg := []
  deriving DecidableEq, Repr

/-- Identity and start of an activation: serial number, allotted vector registers, message, launch, virtual function, slice,
type, and how it was started: by node dispatch (`node` names the node reference), by a type-254 message (`serves` names the
park number); `lane` names the node in whose reserved context it started (R168). -/
structure Ident where
  act : Nat := 0
  nv : Nat := 0
  msg : Msg := {}
  launch : Option Nat := none
  vf : Nat := 0
  slice : Nat := 0
  type : Nat := 0
  node : Option Nat := none
  lane : Option Nat := none
  system : Bool := false
  serves : Option Nat := none
  deriving DecidableEq, Repr

/-- The special registers of an activation that instructions write, beside the lift state: `sr.fst`, `sr.kmode`, the ext fields
of `sr.gauge0` to `sr.gauge3`, the fault record. -/
structure Special where
  fst : Word := 0
  kmode : Word := 0x40000
  gauge : List Nat := [1, 1, 1, 1]
  fault : FaultRec := {}
  deriving DecidableEq, Repr

/-- Park state (R258, R263): number, resumes so far, held in the save area, whether it parked on `brk` under debugging, whether a
`fres` has it waiting for a free context. -/
structure Park where
  num : Nat := 0
  resumes : Nat := 0
  saved : Bool := false
  debug : Bool := false
  resume : Bool := false
  deriving DecidableEq, Repr

/-- One context of a core (R17). `hints` is the pending set; `prio` the issue priority; `passed` the cycles passed over (R54);
`stall` the cycles an `hstall` has left; `barsy` the record of R237; `tmo` marks that a seam wait has passed its timeout;
`pages` the pages written since start (R223), none when more than 16; `copyFail` the code of R212; `accf` the pending trap bits
of R352, lowest first; `bad` the register words of bad parity (R123); `dups` the duplicates of its vector registers, oldest
first (R122); `sta` the number below which an `mmsta` or `fwait` waits (R351, R411); `want` a pre-emption that waits for the region's end (R265). -/
structure Ctx where
  status : Status := .free
  id : Ident := {}
  pc : Word := 0
  regs : Regs := {}
  handles : Table Handle := []
  sp : Special := {}
  lift : Lift := {}
  region : Region := {}
  hints : Pending := {}
  prio : Nat := 0
  passed : Nat := 0
  stall : Nat := 0
  park : Park := {}
  rep : Option Rep := none
  barsy : Option (Nat × Nat) := none
  wait : WaitFor := .ready
  tmo : Bool := false
  held : Option Held := none
  rel : Option Release := none
  pages : Option (List Nat) := some []
  copyFail : Nat := 0
  accf : List Nat := []
  bad : List BadWord := []
  dups : List Duplicate := []
  sta : Option Nat := none
  want : Bool := false
  deriving DecidableEq, Repr

/-- A binding-table entry (R161). -/
structure Binding where
  entry : Word
  conc : Nat
  vregs : Nat
  deriving DecidableEq, Repr

/-- A complex (R276, R277) as its tables hold it. `faces` lists per degree 1 to 3, per cell, the used entries (face, sign +1 or
−1); `verts` per degree 1 to 3, per cell, the vertex list (simplicial images); `weights` per degree 0 to 3 the f32 patterns;
`owners` the owner table. -/
structure Cplx where
  gen : Nat := 0
  dim : Nat := 0
  simp : Bool := false
  own : List Nat := [0, 0, 0, 0]
  gh : List Nat := [0, 0, 0, 0]
  nf : List Nat := [0, 0, 0, 0]
  len : Nat := 0
  faces : List (List (List (Nat × Int))) := []
  verts : List (List (List Nat)) := []
  weights : List (List Nat) := []
  owners : List (Nat × Nat) := []
  deriving DecidableEq, Repr

/-- One recorded remeshing operation (R321, R325), on pending indices. -/
inductive RmOp where
  | poke (t w0 w1 w2 : Nat)
  | split (e wa wb : Nat)
  | flip (e : Nat)
  | clps (e : Nat) (keepB : Bool)
  deriving DecidableEq, Repr

/-- A pending complex (R321): vertex lists of edges and triangles by pending index (none where removed), live vertices, counts,
and the operations in order. -/
structure PendCplx where
  nv : Nat
  deadV : List Nat
  edges : Table (List Nat)
  tris : Table (List Nat)
  ne : Nat
  nt : Nat
  ops : List RmOp
  deriving DecidableEq, Repr

/-- What a commit keeps with the previous tables (R326): the operation log and, per degree, the old index of each row of the
new complex in the pending numbering. -/
structure CommitLog where
  ops : List RmOp
  map : List (List Nat)
  deriving DecidableEq, Repr

/-- A complex slot (R274). `named` lists the owner slices that the complex last bound here named (R312). -/
structure Slot where
  ctr : Nat := 0
  cur : Option Cplx := none
  prev : Option Cplx := none
  log : Option CommitLog := none
  pend : Option PendCplx := none
  named : List Nat := []
  deriving DecidableEq, Repr

/-- A copy record (R312): holder slice, degree, ghost ordinal, the owner's local index. -/
structure CopyRec where
  slot : Nat
  holder : Nat
  deg : Nat
  ord : Nat
  loc : Nat
  deriving DecidableEq, Repr

/-- A seam row on its way (R313, R315): slices from and to, slot, register, kind, degree, format, channels, exponent, instance,
tags and extents, ghost ordinal and the values. -/
structure SeamRow where
  src : Nat
  dst : Nat
  slot : Nat
  reg : Nat
  kind : Nat
  deg : Nat
  fmt : Nat
  chm : Nat
  E : Nat
  inst : Nat
  tags : Nat
  exts : List Nat
  ord : Nat
  vals : List Nat
  own : Owner
  wid : Nat
  deriving DecidableEq, Repr

/-- An operation in a remote-op queue (R166). `wid` is its entry in the ledger of writes, 0 for none. -/
inductive RemoteOp where
  | put (addr : Nat) (bs : List Byte) (own : Owner) (wid : Nat)
  | amo (fn addr : Nat) (x y : Word) (own : Owner) (id piece wid : Nat)
  | swadd (addr n : Nat) (own : Owner) (wid : Nat)
  | jset (addr target type : Nat) (own : Owner)
  | arrive (addr w : Nat) (own : Owner) (wid : Nat)
  | fabPut (addr : Nat) (bs : List Byte) (tok : Nat)
  | fabRaise (addr n vf : Nat) (tok : Nat)
  | fabAmo (fn addr : Nat) (x y : Word) (tok : Nat)
  | fabGet (addr n : Nat) (tok : Nat)
  deriving DecidableEq, Repr

/-- A raise that the landing port still has to apply to a sync word (R205). -/
structure Raise where
  addr : Nat
  n : Nat
  poison : Bool
  launch : Option Nat
  vf : Nat
  deriving DecidableEq, Repr

/-- Rounds of a sync word or join that have completed and whose messages have not entered the join-fire queue yet (R175, R205): the
message, whose second word is the number of the round, the number and the width of the last one sent, how many are left, and whether
the remote-op thread applied what completed them, or else the landing port. -/
structure Firing where
  msg : Msg
  gen : Nat
  bits : Nat
  left : Nat
  thread : Bool
  deriving DecidableEq, Repr

/-- A cached translation (R185): virtual function, virtual base, log2 of the page size, leaf entry. -/
structure TlbEntry where
  vf : Nat
  va : Nat
  lg : Nat
  pte : Word
  deriving DecidableEq, Repr

/-- The message machinery of a core (R154, R166, R175). -/
structure Queues where
  mailbox : List Msg := []
  pendq : List Msg := []
  joinq : List Msg := []
  ropq : List RemoteOp := []
  raises : List Raise := []
  fires : List Firing := []
  bindings : Table Binding := []
  deriving DecidableEq, Repr

/-- Arrivals still due to a register that has stopped being pushed (R314): its slice, slot, number and kind, and how many. -/
structure SeamGone where
  slice : Nat
  slot : Nat
  reg : Nat
  kind : Nat
  n : Nat
  deriving DecidableEq, Repr

/-- The seam unit of a core: copy records held, early arrivals, outgoing rows, rows refused by a full buffer that will be
resent, arrivals to be discarded (R312, R314, R315, R317). -/
structure SeamUnit where
  recs : List CopyRec := []
  early : List SeamRow := []
  out : List SeamRow := []
  resend : List SeamRow := []
  gone : List SeamGone := []
  deriving DecidableEq, Repr

/-- One core (R17). `fifos` holds the incoming link entries by port code 48 to 51; `saved` the parked activations and pre-empted
contexts in the save area, by original context and by park number; `noCredit` says that the request channel at the core's injection
point has no credit (R148); `pace` how many scratchpad words the cochain unit reads or writes before other traffic of the core comes
between, 0 for no limit (R306). -/
structure Core where
  ctxs : Table Ctx := []
  rr : Nat := 0
  inReset : Bool := false
  preempted : Bool := false
  noCredit : Bool := false
  pace : Nat := 0
  spad : Memory := []
  slots : Table Slot := []
  fifos : Table (List Vec) := []
  q : Queues := {}
  seam : SeamUnit := {}
  barriers : Table Word := []
  icache : List (Nat × Nat) := []
  utlb : List TlbEntry := []
  parkCount : Nat := 1
  savedParks : List Ctx := []
  savedCtxs : Table Ctx := []
  zrd : Nat := 0
  zwr : Nat := 0
  rpr : Nat := 0
  rnr : Nat := 0
  deriving DecidableEq, Repr

/-- An A word of a pass: read at issue, or to be had when the pass enters the queue: popped from a port, or read once more from an
instance of a register that was checked at `repend` (R355). -/
inductive AWord where
  | val (v : Vec)
  | port (code : Nat)
  | reg (n inst : Nat) (v : Vec)
  deriving DecidableEq, Repr

/-- A matrix command in a member's queue (R336), with the operands it read at issue: a configuration; a load of `n` bytes per
source address, instance j to `dst` + j × `n`; a B-buffer job of the die; zero points; a pass with its configuration, the A word
pair of each A instance, the number of B instances and its first k-step; a drain; a merge with its destination register, octet and
member; scales by row and by column with the rounding mode; a store with address and pitch; a clear. -/
inductive MCmd where
  | cfg (c : Word)
  | ldb (srcs : List Nat) (dst n : Nat)
  | wsldb (die job dst n : Nat)
  | zp (za zb : List Int)
  | pass (mul : Bool) (c : Word) (words : List (AWord × AWord)) (pb k0 : Nat)
  | drn
  | mrg (d : Nat) (oct member : Nat)
  | sacc (sa sb : List Nat) (rnd : Nat)
  | mst (addr pitch wid : Nat)
  | clr (c : Nat)
  deriving DecidableEq, Repr

/-- A queued command with its owner, its acceptance number (R338), and of a pass of a repetition body the number of its repetition
(R355). -/
structure MEntry where
  cmd : MCmd
  own : Owner
  seq : Nat
  rep : Option Nat := none
  deriving DecidableEq, Repr

/-- A member of a matrix unit. As commands see it at issue: configuration, whether one was given, B cursor, state (0 none,
1 counting, 2 drained), tags and instances of the B tile. As its queue executes: the configuration in force, the queue (16 deep),
the accepted repetitions not yet in it, the zero points, the bank set held, the tile, `acst`, and whether a merge is on its way. -/
structure Member where
  cfg : Word := 0x10
  configured : Bool := false
  kc : Nat := 0
  st : Nat := 0
  tb : Nat := 0
  pb : Nat := 1
  xcfg : Word := 0x10
  queue : List MEntry := []
  backlog : List MEntry := []
  za : List Int := []
  zb : List Int := []
  set : Option Nat := none
  tile : Table Nat := []
  acst : Nat := 0
  moving : Bool := false
  deriving DecidableEq, Repr

/-- A bank set (R342 to R346): owner member, whether it is drained, mode, M, N, steps Kd, counters by (m × 64 + n) × 96 + class, sums S, partials P by
m × 64 + n, rails. -/
structure BankSet where
  member : Option Nat := none
  drained : Bool := false
  mode : Nat := 0
  M : Nat := 0
  N : Nat := 0
  kd : Nat := 0
  counts : Table Nat := []
  sums : Table Int := []
  parts : Table Int := []
  railA : Table Int := []
  railB : Table Int := []
  deriving DecidableEq, Repr

/-- An octet's matrix unit (R336 to R338): members, the two bank sets, B buffer, block ids, engine pointers with the commands
the pointed member has executed in its turn, and the acceptance counter. -/
structure Octet where
  members : Table Member := []
  set0 : BankSet := {}
  set1 : BankSet := {}
  bbuf : Memory := []
  ids : Table Nat := []
  cptr : Nat := 0
  crun : Nat := 0
  sptr : Nat := 0
  srun : Nat := 0
  seq : Nat := 0
  deriving DecidableEq, Repr

/-- State of a node (R172): free is absence. -/
inductive NodeState where
  | pending
  | ready
  | bound
  | running
  | done
  deriving DecidableEq, Repr

/-- A node record in node SRAM (R167, R172). `completing` names the context whose writes it waits for, `pages` the pages that
context wrote (R223), `marks` the marker acknowledgements still due. -/
structure Node where
  entry : Word
  slice : Nat
  ctxs : Nat
  vregs : Nat
  spad : Nat
  bars : Nat
  cx : Nat
  held : Bool
  count : Nat
  words : List Word
  succs : List Nat
  vf : Nat
  launch : Option Nat
  state : NodeState
  core : Nat := 0
  first : Nat := 0
  lanes : List Nat := []
  completing : Option Owner := none
  pages : Option (List Nat) := none
  marks : Option Nat := none
  deriving DecidableEq, Repr

/-- A work queue (R176). -/
structure WorkQ where
  owner : Option Nat := none
  ranges : List (Nat × Nat) := []
  deriving DecidableEq, Repr

/-- A flow opened by a core (R398 to R404). `acked` counts the packets acknowledged on each path, `cong` holds the congestion level
a UE path reports, `noCredit` says that the receiver of a UE flow withholds credit (R419). -/
structure Flow where
  core : Nat
  vf : Nat
  peer : Nat
  ue : Bool
  mode : Nat
  set : Nat
  swe : Bool
  sw : Nat
  err : Nat := 0
  ops : List FabOpRec := []
  nextOp : Nat := 0
  nextPkt : Nat := 0
  acked : Table Nat := []
  cong : Table Nat := []
  noCredit : Bool := false
  deriving DecidableEq, Repr

/-- The target side of a flow of another package (R409, R410): the next sequence number of an ordered flow, the number below which
every packet is acknowledged, acknowledged numbers above it, packets that wait in a reorder buffer, ordered-flag packets held, and the
packets being applied with the port each came by. -/
structure TargetFlow where
  next : Nat := 0
  base : Nat := 0
  done : List Nat := []
  waiting : List FabPacket := []
  flagged : List FabPacket := []
  busy : List (Nat × Nat) := []
  deriving DecidableEq, Repr

/-- An answer this package sends to a package whose packet it applied (R408, R413): 0 or the failure detail, and the data of a get
or the old value of an atomic. -/
structure FabAnswer where
  pkg : Nat
  flow : Nat
  seq : Nat
  detail : Nat
  data : List Byte
  deriving DecidableEq, Repr

/-- An operation handed to a Lace link (R415): its channel, whether it carries data, and its header with its data. -/
structure LinkOp where
  chan : Nat
  data : Bool
  bytes : List Byte
  deriving DecidableEq, Repr

/-- An Ethernet port (R12, R415 to R418, R426): kind, training, sequence numbers, the last 256 flits sent, flits sent again, flits
received early (number, channel, payload), delivered payloads by channel, replay requests returned, send credits by channel, credit
increments owed to the peer by channel, whether those of the request channel are withheld (R409), operations that wait for credit,
corrections since training and by lane in the current interval, lane scores. -/
structure Port where
  ue : Bool := true
  trained : Bool := false
  failed : Bool := false
  txSeq : Nat := 0
  rxSeq : Nat := 0
  replay : List (Nat × List Byte) := []
  resend : List (Nat × List Byte) := []
  held : List (Nat × Nat × List Byte) := []
  delivered : List (Nat × List Byte) := []
  wanted : List Nat := []
  credits : List Nat := [0, 0, 0]
  owed : List Nat := [0, 0, 0]
  withheld : Bool := false
  out : List LinkOp := []
  fec : Nat := 0
  lanes : List Nat := [0, 0, 0, 0]
  scores : List Nat := [255, 255, 255, 255]
  deriving DecidableEq, Repr

/-- Power states of a die (R435). -/
inductive Power where
  | run
  | hold
  | keep
  | off
  deriving DecidableEq, Repr

/-- A transition of a die's power state: the state or clock asked for, whether the drain is done. -/
structure Transition where
  goal : Power
  clk : Clock
  drained : Bool
  deriving DecidableEq, Repr

/-- A release marker (R223). `all` stands for a summary of every page. -/
structure Marker where
  src : Nat
  seq : Nat
  clock : List Nat
  pages : Option (List Nat)
  own : Owner
  node : Option Nat
  deriving DecidableEq, Repr

/-- What a die counts and keeps about power and start-up (R425, R435). -/
structure DiePower where
  level : Nat := 0
  state : Power := .run
  clk : Clock := .ghz1_25
  trans : Option Transition := none
  stopped : Bool := false
  memUp : Bool := false
  trained : Bool := false
  stackFailed : Bool := false
  selfRefresh : Bool := false
  calibrated : Bool := false
  cycle : Nat := 0
  deriving DecidableEq, Repr

/-- Telemetry counts of a die (R153, R198, R199). -/
structure Telemetry where
  corrections : Nat := 0
  discardedStores : Nat := 0
  discardedLandings : Nat := 0
  rowAlerts : Nat := 0
  refreshes : Nat := 0
  deriving DecidableEq, Repr

/-- One die (R16). `clock` is the causal clock (R224), unlisted entries 0; `far` the far-read cache, by line number of the
physical address; `waiting` the markers and notes received and not yet processed, oldest first; `wsSlot`, `wsOpen`, `wsTime` the
refresh calendar (R214), the time since the slot began in units of 1/15 ns; `answers` what its fabric unit has answered. -/
structure Die where
  pw : DiePower := {}
  tlb : List TlbEntry := []
  far : Table Nat := []
  outCount : Nat := 0
  clock : Table Nat := []
  waiting : List (Marker ⊕ (Nat × Nat)) := []
  jobs : List Job := []
  nextJob : Nat := 1
  store : Memory := []
  wsSlot : Nat := 63
  wsOpen : Bool := false
  wsTime : Nat := 15000
  nodes : Table Node := []
  wqs : Table WorkQ := []
  flows : Table Flow := []
  answers : List FabAnswer := []
  port0 : Port := {}
  port1 : Port := {}
  tele : Telemetry := {}
  deriving DecidableEq, Repr

/-- A segment-table entry (R69): virtual base, length, permissions X W R A as in a pointer's bits [55:52]. -/
structure Segment where
  base : Nat
  len : Nat
  perm : Nat
  deriving DecidableEq, Repr

/-- A loaded object (R67 to R76): its slots, the entries of its pointer table and the slot of that table's read-only segment (0 when it
has none), floor flag, class name, handlers (type, entry, concurrency,
registers), the entry graph (descriptors and edges), launch words, whether level 3 is needed, scratchpad data (offset, slice or
none, bytes). -/
structure Obj where
  slots : List Nat
  nptr : Nat
  table : Nat
  floor : Bool
  cls : List Byte
  handlers : List (Nat × Word × Nat × Nat)
  nodes : List (List Byte)
  edges : List (Nat × Nat)
  words : List Word
  level3 : Bool
  spads : List (Nat × Option Nat × List Byte)
  wellFormed : Bool
  deriving DecidableEq, Repr

/-- A virtual function (R432). -/
structure Vf where
  quads : List Nat := []
  root : Nat := 0
  key : BitVec 128 := 0
  ws : List WsWindow := []
  peers : List (Nat × Peer) := []
  paths : List (Nat × PathEntry) := []
  windows : List (Nat × Window) := []
  segs : Table Segment := []
  retired : List Nat := []
  objs : Table Obj := []
  trace : Bool := false
  debug : Bool := false
  deriving DecidableEq, Repr

/-- A launch (R171): status 0 accepted, 2 complete, 3 aborted; the die that holds its nodes and their indices; the number of slices;
the core that runs a slice, as far as the firmware has chosen it (R65); whether the launch is being aborted; whether a die that was
shut down took unfinished nodes of it along. -/
structure Launch where
  vf : Nat
  obj : Nat
  status : Nat
  die : Nat
  nodes : List Nat
  nslice : Nat
  cores : Table Nat := []
  aborting : Bool := false
  broken : Bool := false
  deriving DecidableEq, Repr

/-- One write not yet acknowledged (R219): its owner, its home (a core, or 4096 + die for a memory node), the 64-byte lines of
HBM it names; of a copy or weight-store job's granule the job's first ledger number (0 for none), the 64-byte block of physical
addresses, and the raise of a sync word that its acknowledgement brings (R208); the number that the granules of one store share, and
whether the store's discarding has been reported (R200). -/
structure WriteRec where
  own : Owner
  home : Nat
  lines : List Nat
  job : Nat := 0
  block : Nat := 0
  raise : Option (Nat × Raise) := none
  part : Nat := 0
  told : Bool := false
  deriving DecidableEq, Repr

/-- Global reads not yet answered, of a core (R195): their lines, and how many reads they are. -/
structure ReadRec where
  core : Nat
  lines : List Nat
  n : Nat := 1
  deriving DecidableEq, Repr

/-- Reply data of a split-phase read (R202): the request's operands, the pieces gathered with the lengths of all, and whether its bytes
have landed. -/
structure MgetRec where
  own : Owner
  vecForm : Bool
  x : Nat
  y : Word
  n : Nat
  type : Nat
  tag : Nat
  home : Nat
  due : Nat
  got : Table Piece
  lens : List Nat := []
  landed : Bool := false
  deriving DecidableEq, Repr

/-- Barrier operations on a record of another core (R234, R235): 0 `barcfg`, 1 `barrv`, 2 `barwt`, 3 `barq`; `id` names the hold that
waits for the answer. -/
structure BarOp where
  fn : Nat
  n : Nat
  val : Word
  own : Owner
  id : Nat
  deriving DecidableEq, Repr

/-- Traffic on the three virtual channels (R146) and on the paths beside them. The bytes of a write that are not stored are
none (R193). -/
inductive Body where
  | msg (m : Msg)
  | remote (op : RemoteOp)
  | read (pa n : Nat) (own : Owner) (id piece : Nat) (load : Bool) (cache : Bool)
  | write (pa : Nat) (bs : List (Option Byte)) (wid : Nat)
  | amo (pa fn : Nat) (x y : Word) (own : Owner) (id piece wid : Nat)
  | reply (id piece : Nat) (p : Piece) (load : Bool) (line : Option (Nat × Nat)) (drop : List Nat) (wid : Nat)
  | ack (wid : Nat) (drop : List Nat)
  | marker (m : Marker)
  | markerAck (own : Owner) (node : Option Nat)
  | note (src seq : Nat)
  | copyRec (r : CopyRec) (slice : Nat) (own : Owner) (wid : Nat)
  | withdraw (slot holder : Nat) (own : Owner) (wid : Nat)
  | seam (r : SeamRow)
  | inval (icache : Bool) (vf lo hi : Nat) (own : Owner) (id : Nat) (since : Option Nat)
  | barrier (b : BarOp)
  | mergeReq (d : Nat) (oct member : Nat) (src : Nat) (set : Option BankSet) (own : Owner)
  deriving DecidableEq, Repr

/-- One item of traffic: channel (0 request, 1 forwarded, 2 reply, 3 the barrier path of an octet, 4 the seam lanes), the receiving and
the sending node, the body. A node is a core's coordinate number, 4096 + die for a die's memory node and cache, 8192 + die for its
scheduler block, 12288 + die for its fabric unit, 16384 for the host's rings. Items of one channel, sender and receiver keep their order
(R10, R148). -/
structure Flight where
  chan : Nat
  src : Nat
  dst : Nat
  body : Body
  deriving DecidableEq, Repr

/-- A ring of the host's memory (R433): entry count, entries held, entries dropped. -/
structure Ring where
  count : Nat := 64
  entries : List Msg := []
  dropped : Nat := 0
  deriving DecidableEq, Repr

/-- Events on the physical function's ring (R425, R435, R436, R261 excepted). -/
inductive PfEvent where
  | level (die level : Nat)
  | stackFailed (die : Nat)
  | thermal (die kind : Nat)
  | busy (die : Nat)
  | recovery (reason : Nat)
  | quote (bytes : List Byte)
  | quoteRefused (status : Nat)
  | debugStatus (status : Nat)
  deriving DecidableEq, Repr

/-- An entry of a command ring (R433): a message for a core, or a launch message (R171). -/
inductive Command where
  | msg (m : HostMsg)
  | launch (vf obj : Nat) (words : Option (List Word))
  deriving DecidableEq, Repr

/-- The virtual function whose ring an entry stands on. -/
def Command.vf : Command → Nat
  | .msg m => m.vf
  | .launch vf _ _ => vf

/-- The host's side (R433, R426): per virtual function the command, event, reply and trace rings; the entries held on die 0 for full
rings; the physical function's ring of events with its entry count, the events held on die 0 for it and the events dropped; registers. -/
structure HostSide where
  commands : Table (List Command) := []
  events : Table Ring := []
  replies : Table Ring := []
  traces : Table (List (List Byte)) := []
  traceDrops : Table Nat := []
  traceCounts : Table Nat := []
  commandCounts : Table Nat := []
  heldEntries : List (Nat × Bool × Msg) := []
  pf : List PfEvent := []
  pfCount : Nat := 64
  pfHeld : List PfEvent := []
  pfDropped : Nat := 0
  regs : Table Nat := []
  bases : Table Nat := []
  deriving DecidableEq, Repr

/-- Where an image holds its security version (2 bytes), its public key (68 bytes) and its signature (2,820 bytes): byte offsets that the
boot ROM knows and the spec does not give (L67). -/
structure FwLayout where
  version : Nat := 0
  key : Nat := 2
  sig : Nat := 70
  deriving DecidableEq, Repr

/-- The package's non-volatile and identity state (R426, R429 to R431, R438, R103). `stored` is the image the package carries, `image`
the one that runs; `window` the bytes of the recovery window and `status` the recovery status register, the reason of the last refusal,
0 for none; `waiting` are the dies whose start waits for an accepted image. -/
structure Firmware where
  portMode : BitVec 16 := 0xFFFF
  pkg : Nat := 0
  romKey : BitVec 256 := 0
  fused : Nat := 0
  layout : FwLayout := {}
  stored : Option (List Byte) := none
  image : Option (List Byte) := none
  window : Memory := []
  status : Nat := 0
  recovered : Bool := false
  recovery : Bool := false
  waiting : List Nat := []
  attest : Nat := 0
  deriving DecidableEq, Repr

/-- One turn of the agenda: which agent acts next, as plain data (L4). -/
inductive Turn where
  | event (i : Instr)
  | core (c : Nat)
  | tick (die n : Nat)
  | hostWrite (pa : Nat) (bs : List Byte)
  | hostRead (vf : Nat) (ring : Nat) (n : Nat)
  | hostCommand (c : Command)
  | windowWrite (off : Nat) (bs : List Byte)
  | upset (c ctx reg lane inst : Nat) (mask : Lane) (copy : Bool)
  | duplicate (c ctx reg inst : Nat)
  | credit (c : Nat) (ok : Bool)
  | pace (c n : Nat)
  | bitError (pa : Nat) (fatal : Bool)
  | congestion (die flow path level : Nat)
  | receiverCredit (die flow : Nat) (ok : Bool)
  deriving DecidableEq, Repr

/-- The machine. `cur` is the core whose turn it is and `curCtx` its context that executes; `hbm` holds the cells of die d at
d × 2^36 + offset; `poison` the granules (address / 64) that are poisoned; `writes`, `reads`, `mgets` the ledgers of writes
not yet acknowledged and reads not yet answered by serial number; `serial` the next serial number (the model's own); `targets` the
packet-delivery contexts of other packages' flows (R402). -/
structure State where
  cur : Nat
  curCtx : Nat
  agenda : List Turn
  serial : Nat
  cores : Table Core
  dies : Table Die
  octets : Table Octet
  hbm : Memory
  poison : List Nat
  vfs : Table Vf
  launches : Table Launch
  net : List Flight
  writes : Table WriteRec
  reads : Table ReadRec
  mgets : Table MgetRec
  targets : Table TargetFlow
  host : HostSide
  fw : Firmware
  deriving DecidableEq, Repr

/-- Why the machine stops with a fault. -/
inductive Fault where
  /-- An instruction word is executed while the selected context runs no activation: no instruction issues there (R19). Raised
  by the shared execution of every instruction word. Safe: the hardware issues nothing either. -/
  | noActivation
  deriving DecidableEq, Repr

/-- Why a step has no meaning. -/
inductive Refusal where
  /-- An instruction that has no meaning in the model yet, by its mnemonic. Raised by the dispatcher only. Safe. -/
  | notModelled (mnemonic : String)
  deriving DecidableEq, Repr

/-- The machine right after package reset: nothing runs, every register at its stated value or at the value of L2, memories
list nothing (L1), every die before its start (R425), memory nodes down, the clock of every die at its first cycle. -/
def State.reset : State where
  cur := 0
  curCtx := 0
  agenda := []
  serial := 1
  cores := []
  dies := []
  octets := []
  hbm := []
  poison := []
  vfs := []
  launches := []
  net := []
  writes := []
  reads := []
  mgets := []
  targets := []
  host := {}
  fw := {}

end Sys2Proof.Machine
end

