-- ==== Sys2Proof/Machine/Maps.lean ====
section
/-!
DEFINITION. Tables, byte memories and bit fields: the plain data operations everything else is written with.
-/

namespace Sys2Proof.Machine

/-- The value listed first for a key. -/
def tlook {α : Type} : Table α → Nat → Option α
  | [], _ => none
  | (j, v) :: rest, k => if j = k then some v else tlook rest k

/-- The value of a key, with the value an unlisted key stands for. -/
def tget {α : Type} (m : Table α) (d : α) (k : Nat) : α := (tlook m k).getD d

/-- List a value for a key, keys kept rising. -/
def tput {α : Type} : Table α → Nat → α → Table α
  | [], k, v => [(k, v)]
  | (j, w) :: rest, k, v =>
    if j = k then (k, v) :: rest
    else if k < j then (k, v) :: (j, w) :: rest
    else (j, w) :: tput rest k v

/-- Drop a key. -/
def tdel {α : Type} (m : Table α) (k : Nat) : Table α := m.filter (fun p => p.1 != k)

/-- Change the value of a key. -/
def tmod {α : Type} (m : Table α) (d : α) (k : Nat) (f : α → α) : Table α := tput m k (f (tget m d k))

/-- One byte of a memory; an unlisted address reads as `Config.blankByte` (L1). -/
def mget (m : Memory) (a : Nat) : Byte := tget m Config.blankByte a

/-- Write one byte, keeping the canonical form: no byte equal to the blank byte is listed. -/
def mset (m : Memory) (a : Nat) (b : Byte) : Memory := if b = Config.blankByte then tdel m a else tput m a b

/-- `n` bytes from an address upward. -/
def mread (m : Memory) : Nat → Nat → List Byte
  | _, 0 => []
  | a, n + 1 => mget m a :: mread m (a + 1) n

/-- Write bytes from an address upward. -/
def mwrite (m : Memory) : Nat → List Byte → Memory
  | _, [] => m
  | a, b :: bs => mwrite (mset m a b) (a + 1) bs

/-- The little-endian value of `n` bytes (R3). -/
def mreadNat (m : Memory) (a n : Nat) : Nat := leNat (mread m a n)

/-- Addresses strictly rising from a bound. -/
def risingFrom : Nat → Memory → Bool
  | _, [] => true
  | lo, (a, b) :: rest => decide (lo ≤ a) && (b != Config.blankByte) && risingFrom (a + 1) rest

/-- The canonical form of a memory: addresses strictly rising, no listed byte equal to the blank byte. -/
def Memory.wf (m : Memory) : Bool := risingFrom 0 m

/-- Bits hi to lo of a word (R3). -/
def fld (x : Word) (hi lo : Nat) : Nat := bits x.toNat lo (hi + 1 - lo)

/-- The value of an `n`-bit field read as two's complement. -/
def sxt (n v : Nat) : Int := if v % 2 ^ n < 2 ^ (n - 1) then (v % 2 ^ n : Nat) else (v % 2 ^ n : Nat) - (2 ^ n : Nat)

/-- An `n`-bit field sign-extended to 64 bits. -/
def sextW (n v : Nat) : Word := BitVec.ofInt 64 (sxt n v)

/-- The `n` low bits of an integer. -/
def wrapN (n : Nat) (z : Int) : Nat := (z % (2 ^ n : Nat)).toNat

/-- A natural number as a 64-bit word. -/
def wd (n : Nat) : Word := BitVec.ofNat 64 n

/-- `x` rounded up to a multiple of `m`. -/
def roundUp (x m : Nat) : Nat := (x + m - 1) / m * m

/-- Replace element `i` of a list. -/
def lset {α : Type} : List α → Nat → α → List α
  | [], _, _ => []
  | _ :: xs, 0, y => y :: xs
  | x :: xs, i + 1, y => x :: lset xs i y

/-- Lane `l` of a vector register (R17). -/
def lane (v : Vec) (l : Nat) : Lane := BitVec.ofNat 32 (v.toNat / 2 ^ (32 * l))

/-- The vector with the given lane values, lane 0 first. -/
def ofLanes (ls : List Nat) : Vec :=
  BitVec.ofNat 1024 (ls.foldr (fun x acc => x % 4294967296 + 4294967296 * acc) 0)

/-- The values of `n` packed elements of `w` bits, low element first (R84, R85). -/
def unpack (w : Nat) : Nat → Nat → List Nat
  | 0, _ => []
  | n + 1, x => x % 2 ^ w :: unpack w n (x / 2 ^ w)

/-- Pack elements of `w` bits, low element first. -/
def pack (w : Nat) : List Nat → Nat
  | [] => 0
  | x :: xs => x % 2 ^ w + 2 ^ w * pack w xs

/-- The 128 bytes of a vector in memory order (R3). -/
def vecBytes (v : Vec) : List Byte := leBytes 128 v.toNat

/-- The vector of 128 bytes in memory order. -/
def vecOf (bs : List Byte) : Vec := BitVec.ofNat 1024 (leNat bs)

/-- Whether bit `i` of a natural number is 1. -/
def bitOf (x i : Nat) : Bool := x / 2 ^ i % 2 == 1

/-- The first element that satisfies a test, with its index. -/
def findIdx {α : Type} (p : α → Bool) : List α → Nat → Option (Nat × α)
  | [], _ => none
  | x :: xs, i => if p x then some (i, x) else findIdx p xs (i + 1)

/-- Drop element `i`. -/
def dropAt {α : Type} : List α → Nat → List α
  | [], _ => []
  | _ :: xs, 0 => xs
  | x :: xs, i + 1 => x :: dropAt xs i

/-- Element `i` of a list. -/
def nth {α : Type} : List α → Nat → Option α
  | [], _ => none
  | x :: _, 0 => some x
  | _ :: xs, i + 1 => nth xs i

/-- Insert a number into a list without repeats. -/
def addOnce (xs : List Nat) (x : Nat) : List Nat := if xs.contains x then xs else xs ++ [x]

end Sys2Proof.Machine
end

