-- ==== Sys2Proof/Machine/Pointers.lean ====
section
/-!
DEFINITION. Bounded pointers: their fields (R70), the check byte (R71), the checks of R72, and pointer arithmetic (R110).
-/

namespace Sys2Proof.Machine

/-- Offset, slot, permissions (X W R A from bit 3 to bit 0) and check byte of a bounded pointer (R70). -/
def ptrOff (x : Word) : Nat := fld x 39 0
/-- The segment slot. -/
def ptrSlot (x : Word) : Nat := fld x 51 40
/-- The permissions. -/
def ptrPerm (x : Word) : Nat := fld x 55 52
/-- The check byte. -/
def ptrChk (x : Word) : Nat := fld x 63 56

/-- The permission bits X, W, R, A. -/
def permX : Nat := 8
/-- Write. -/
def permW : Nat := 4
/-- Read. -/
def permR : Nat := 2
/-- Atomic and remote. -/
def permA : Nat := 1

/-- A pointer with another offset. -/
def ptrAt (x : Word) (off : Nat) : Word := wd (x.toNat / 2 ^ 40 * 2 ^ 40 + off % 2 ^ 40)

/-- One round of SipHash on its four state words. -/
def sipRound (v : Word × Word × Word × Word) : Word × Word × Word × Word :=
  let (a, b, c, d) := v
  let a := a + b
  let b := b.rotateLeft 13 ^^^ a
  let a := a.rotateLeft 32
  let c := c + d
  let d := d.rotateLeft 16 ^^^ c
  let a := a + d
  let d := d.rotateLeft 21 ^^^ a
  let c := c + b
  let b := b.rotateLeft 17 ^^^ c
  let c := c.rotateLeft 32
  (a, b, c, d)

/-- SipHash-2-4 of one 8-byte message under a 128-bit key, low key half first. PRESUMED (L14): the manual names the function and
does not print it. -/
def sipHash (key : BitVec 128) (m : Word) : Word :=
  let k0 := wd key.toNat
  let k1 := wd (key.toNat / 2 ^ 64)
  let v : Word × Word × Word × Word :=
    (k0 ^^^ 0x736f6d6570736575, k1 ^^^ 0x646f72616e646f6d, k0 ^^^ 0x6c7967656e657261, k1 ^^^ 0x7465646279746573)
  let comp (v : Word × Word × Word × Word) (m : Word) : Word × Word × Word × Word :=
    let (a, b, c, d) := sipRound (sipRound (v.1, v.2.1, v.2.2.1, v.2.2.2 ^^^ m))
    (a ^^^ m, b, c, d)
  let v := comp (comp v m) 0x0800000000000000
  let (a, b, c, d) := sipRound (sipRound (sipRound (sipRound (v.1, v.2.1, v.2.2.1 ^^^ 0xff, v.2.2.2))))
  a ^^^ b ^^^ c ^^^ d

/-- The check byte of a pointer (R71): chk and off count as zero. -/
def checkByte (key : BitVec 128) (x : Word) : Nat :=
  (sipHash key (wd (fld x 55 40 * 2 ^ 40))).toNat % 256

/-- A pointer to an offset of a slot with permissions, its check byte computed (R71, R74). -/
def mkPtr (key : BitVec 128) (perm slot off : Nat) : Word :=
  let x := wd (perm * 2 ^ 52 + slot * 2 ^ 40 + off)
  wd (x.toNat + checkByte key x * 2 ^ 56)

/-- What a pointer check finds (R72): all well, the check byte or a permission fails, or the length. -/
inductive PtrResult where
  | ok (va : Nat)
  | perm
  | bounds
  deriving DecidableEq, Repr

/-- The segment of a pointer that passes step 1 of R72. -/
def ptrSegment (vf : Vf) (x : Word) : Option Segment :=
  match tlook vf.segs (ptrSlot x) with
  | some g => if ptrSlot x ≠ 0 ∧ ptrChk x = checkByte vf.key x then some g else none
  | none => none

/-- The checks of R72 for an access of `n` bytes that needs permissions `need`; the virtual address when all pass. -/
def ptrCheck (vf : Vf) (x : Word) (need n : Nat) : PtrResult :=
  match ptrSegment vf x with
  | none => .perm
  | some g =>
    if (ptrPerm x &&& need) ≠ need ∨ (g.perm &&& need) ≠ need then .perm
    else if ptrOff x + n ≤ g.len then .ok (g.base + ptrOff x)
    else .bounds

/-- The offset of a pointer moved by a signed delta, none outside 0 to 2^40 − 1 (R110). -/
def ptrMove (x : Word) (delta : Int) : Option Word :=
  let n := (ptrOff x : Int) + delta
  if n < 0 ∨ n ≥ (2 ^ 40 : Nat) then none else some (ptrAt x n.toNat)

/-- Whether a register value names scratchpad (R183). -/
def isSpad (x : Word) : Bool := ptrSlot x == 0

end Sys2Proof.Machine
end

