-- ==== Sys2Proof/Machine/Ops.lean ====
section
/-!
DEFINITION. The shared operations of the machine: access to its parts, register files with tag sets, regions and tink-back,
taking a fault, and the frame in which every instruction word executes.
-/

namespace Sys2Proof.Machine

/-! ## Parts of the state -/

/-- The core of a coordinate number. -/
def State.core (s : State) (c : Nat) : Core := tget s.cores {} c
/-- Replace a core. -/
def State.setCore (s : State) (c : Nat) (x : Core) : State := { s with cores := tput s.cores c x }
/-- Change a core. -/
def State.modCore (s : State) (c : Nat) (f : Core → Core) : State := s.setCore c (f (s.core c))
/-- A context of a core. -/
def State.ctxAt (s : State) (c x : Nat) : Ctx := tget (s.core c).ctxs {} x
/-- Replace a context of a core. -/
def State.setCtxAt (s : State) (c x : Nat) (v : Ctx) : State :=
  s.modCore c fun k => { k with ctxs := tput k.ctxs x v }
/-- Change a context of a core. -/
def State.modCtxAt (s : State) (c x : Nat) (f : Ctx → Ctx) : State := s.setCtxAt c x (f (s.ctxAt c x))
/-- The context that executes. -/
def State.ctx (s : State) : Ctx := s.ctxAt s.cur s.curCtx
/-- Replace the context that executes. -/
def State.setCtx (s : State) (v : Ctx) : State := s.setCtxAt s.cur s.curCtx v
/-- Change the context that executes. -/
def State.modCtx (s : State) (f : Ctx → Ctx) : State := s.setCtx (f s.ctx)
/-- Change the activation of a serial number wherever it is: in a context or in a save area. -/
def State.modAct (s : State) (act : Nat) (f : Ctx → Ctx) : State :=
  let g (x : Ctx) : Ctx := if x.status != .free && x.id.act == act then f x else x
  { s with cores := s.cores.map fun (c : Nat × Core) =>
      (c.1, { c.2 with ctxs := c.2.ctxs.map fun (e : Nat × Ctx) => (e.1, g e.2), savedParks := c.2.savedParks.map g,
                       savedCtxs := c.2.savedCtxs.map fun (e : Nat × Ctx) => (e.1, g e.2) }) }
/-- The core and the record of an activation, wherever it is. -/
def State.actAt (s : State) (act : Nat) : Option (Nat × Ctx) :=
  s.cores.findSome? fun (c : Nat × Core) =>
    (((c.2.ctxs.map fun e => e.2) ++ c.2.savedParks ++ c.2.savedCtxs.map fun e => e.2).find? fun x =>
      x.status != .free && x.id.act == act).map fun x => (c.1, x)
/-- A die. -/
def State.die (s : State) (d : Nat) : Die := tget s.dies {} d
/-- Replace a die. -/
def State.setDie (s : State) (d : Nat) (x : Die) : State := { s with dies := tput s.dies d x }
/-- Change a die. -/
def State.modDie (s : State) (d : Nat) (f : Die → Die) : State := s.setDie d (f (s.die d))
/-- An octet by die × 32 + number (R14). -/
def State.octet (s : State) (o : Nat) : Octet := tget s.octets {} o
/-- Change an octet. -/
def State.modOctet (s : State) (o : Nat) (f : Octet → Octet) : State := { s with octets := tput s.octets o (f (s.octet o)) }
/-- A virtual function. -/
def State.vf (s : State) (n : Nat) : Vf := tget s.vfs {} n
/-- The virtual function of the context that executes. -/
def State.myVf (s : State) : Vf := s.vf s.ctx.id.vf
/-- The die of the core whose turn it is. -/
def State.myDie (s : State) : Nat := s.cur / 256
/-- Add traffic. -/
def State.post (s : State) (f : Flight) : State := { s with net := s.net ++ [f] }
/-- Take a fresh serial number. -/
def State.fresh (s : State) : Nat × State := (s.serial, { s with serial := s.serial + 1 })

/-- Die, row and column of a coordinate number (R13, R104). -/
def dieOf (c : Nat) : Nat := c / 256
/-- Row. -/
def rowOf (c : Nat) : Nat := c / 16 % 16
/-- Column. -/
def colOf (c : Nat) : Nat := c % 16
/-- The octet of a core, as die × 32 + number (R14). -/
def octetOf (c : Nat) : Nat := dieOf c * 32 + rowOf c / 2 * 4 + colOf c / 4
/-- The die of an octet (R14). -/
def dieOfOctet (o : Nat) : Nat := o / 32
/-- The member index of a core in its octet (R14). -/
def memberOf (c : Nat) : Nat := rowOf c % 2 * 4 + colOf c % 4
/-- The core of an octet and a member index (R14). -/
def coreOf (o m : Nat) : Nat := o / 32 * 256 + (o % 32 / 4 * 2 + m / 4) * 16 + (o % 4 * 4 + m % 4)
/-- The package quad of a core (R15). -/
def quadOf (c : Nat) : Nat := dieOf c * 64 + rowOf c * 4 + colOf c / 4
/-- Whether a core lies in a virtual function's quads (R15). -/
def inQuads (v : Vf) (c : Nat) : Bool := v.quads.contains (quadOf c)
/-- The dies granted to a virtual function, as a mask (R15, R103). -/
def dieMask (v : Vf) : Nat :=
  ((List.range 8).filter fun d => v.quads.any fun q => q / 64 == d).foldl (fun m d => m + 2 ^ d) 0
/-- The neighbour behind a port code 48 N, 49 E, 50 S, 51 W (R13, R43), none at the edge of the die. -/
def neighbour (c port : Nat) : Option Nat :=
  match port with
  | 48 => if rowOf c = 0 then none else some (c - 16)
  | 49 => if colOf c = 15 then none else some (c + 1)
  | 50 => if rowOf c = 15 then none else some (c + 16)
  | 51 => if colOf c = 0 then none else some (c - 1)
  | _ => none
/-- The port of the receiver through which a push by the given port arrives. -/
def opposite (port : Nat) : Nat :=
  match port with
  | 48 => 50
  | 49 => 51
  | 50 => 48
  | 51 => 49
  | p => p
/-- Whether the clocks of a die's cores, units and scheduler are held (R435). -/
def State.clocksHeld (s : State) (d : Nat) : Bool := (s.die d).pw.state == .hold
/-- Whether a core is running (R153): its die in RUN and the core not held in reset. -/
def State.isRunning (s : State) (c : Nat) : Bool := (s.die (dieOf c)).pw.state == .run && !(s.core c).inReset
/-- Whether a core issues: it is running and its die has not stopped issue for a transition (R435). -/
def State.issues (s : State) (c : Nat) : Bool := s.isRunning c && !(s.die (dieOf c)).pw.stopped
/-- The network node of a die's memory node and cache. -/
def memNode (d : Nat) : Nat := 4096 + d
/-- The network node of a die's scheduler block. -/
def schedNode (d : Nat) : Nat := 8192 + d
/-- The network node behind which the host's rings stand. -/
def hostNode : Nat := 16384

/-! ## Ways an instruction does not complete -/

/-- A fault with what its record holds (R255, R257): code, detail, the value of `sr.fault1`, the A and W bits, the failing
instance and repetition. -/
structure FaultInfo where
  code : Nat
  detail : Nat := 0
  f1 : Word := 0
  addr : Bool := false
  write : Bool := false
  lift : Option Nat := none
  rep : Option Nat := none
  debug : Bool := false
  deriving DecidableEq, Repr

/-- How an instruction stops short: it waits at issue; it waits with something begun; it faults, what it did to memory standing
(R371); or it restarts its region by tink-back without a fault (R123). -/
inductive Stop where
  | wait (w : WaitFor)
  | hold (s : State)
  | trap (f : FaultInfo) (s : State)
  | tink (s : State)
  deriving DecidableEq, Repr

/-- A computation that may stop short. -/
abbrev Act (α : Type) := Except Stop α

/-- Fault codes (R256). -/
def cILL : Nat := 0x01
/-- ALIGN. -/
def cALIGN : Nat := 0x02
/-- XLATE. -/
def cXLATE : Nat := 0x03
/-- PERM/PTRCHK. -/
def cPERM : Nat := 0x04
/-- BOUNDS. -/
def cBOUNDS : Nat := 0x05
/-- NOPORT. -/
def cNOPORT : Nat := 0x06
/-- STALE. -/
def cSTALE : Nat := 0x07
/-- KTYPE. -/
def cKTYPE : Nat := 0x08
/-- ALIAS. -/
def cALIAS : Nat := 0x09
/-- SEAMTO. -/
def cSEAMTO : Nat := 0x0A
/-- SEAMRM. -/
def cSEAMRM : Nat := 0x0B
/-- AXOVF. -/
def cAXOVF : Nat := 0x0C
/-- LJOIN. -/
def cLJOIN : Nat := 0x0D
/-- LWRITE. -/
def cLWRITE : Nat := 0x0E
/-- LAYOUT. -/
def cLAYOUT : Nat := 0x0F
/-- ACCF. -/
def cACCF : Nat := 0x10
/-- REGVIOL. -/
def cREGVIOL : Nat := 0x11
/-- RFPAR. -/
def cRFPAR : Nat := 0x12
/-- POISON. -/
def cPOISON : Nat := 0x13
/-- DMASK. -/
def cDMASK : Nat := 0x14
/-- MNODE. -/
def cMNODE : Nat := 0x15
/-- FLOW. -/
def cFLOW : Nat := 0x16
/-- WSWR. -/
def cWSWR : Nat := 0x17
/-- BAR. -/
def cBAR : Nat := 0x18
/-- HBIND. -/
def cHBIND : Nat := 0x19
/-- SVC. -/
def cSVC : Nat := 0x1A
/-- TRAP. -/
def cTRAP : Nat := 0x20

/-- Raise a fault with nothing done. -/
def trap {α : Type} (s : State) (f : FaultInfo) : Act α := .error (.trap f s)
/-- A fault with a code, a detail and a value. -/
def fault {α : Type} (s : State) (code detail : Nat) (f1 : Word := 0) : Act α :=
  .error (.trap { code := code, detail := detail, f1 := f1 } s)
/-- A fault about an address (A = 1), of a read or a write. -/
def faultAt {α : Type} (s : State) (code detail : Nat) (f1 : Word) (write : Bool := false) : Act α :=
  .error (.trap { code := code, detail := detail, f1 := f1, addr := true, write := write } s)
/-- Fault unless a condition holds. -/
def need (b : Bool) (s : State) (code detail : Nat) (f1 : Word := 0) : Act Unit :=
  if b then .ok () else fault s code detail f1
/-- Wait at issue unless a condition holds. -/
def waitFor (b : Bool) : Act Unit := if b then .ok () else .error (.wait .other)

/-! ## Lift state -/

/-- A register with one untagged value. -/
def plain {α : Type} (v : α) : Tagged α := ⟨0, v, []⟩

/-- The extent of axis L, 1 when it is not pushed. -/
def extOf (l : Lift) (ax : Nat) : Nat :=
  match nth l.levels ax with
  | some v => v.ext
  | none => 1

/-- A packed index restricted to the axes of a tag set (R366, R367). -/
def proj (tags i : Nat) : Nat :=
  (List.range 4).foldl (fun acc ax => if bitOf tags ax then acc + i / 2 ^ (10 * ax) % 1024 * 2 ^ (10 * ax) else acc) 0

/-- Put a number into a rising list without repeats. -/
def insertUp (x : Nat) : List Nat → List Nat
  | [] => [x]
  | y :: ys => if x < y then x :: y :: ys else if x = y then y :: ys else y :: insertUp x ys

/-- All instances of a tag set, in instance order (R367): axis 0 varies fastest. -/
def instances (l : Lift) (tags : Nat) : List Nat :=
  (List.range 4).foldl
    (fun acc ax => if bitOf tags ax then
        ((List.range (extOf l ax)).map fun i => acc.map fun j => j + i * 2 ^ (10 * ax)).flatten
      else acc) [0]

/-- The number of instances of a tag set. -/
def instCount (l : Lift) (tags : Nat) : Nat :=
  (List.range 4).foldl (fun acc ax => if bitOf tags ax then acc * extOf l ax else acc) 1

/-- The instance number of a packed index of a tag set (R367). -/
def instNumber (l : Lift) (tags i : Nat) : Nat :=
  ((List.range 4).foldl
    (fun (p : Nat × Nat) ax => if bitOf tags ax then (p.1 + i / 2 ^ (10 * ax) % 1024 * p.2, p.2 * extOf l ax) else p)
    (0, 1)).1

/-- The active instances of a tag set, in instance order (R367). -/
def activeOf (l : Lift) (tags : Nat) : List Nat :=
  if tags = 0 then [0] else (l.active.map (proj tags)).foldr insertUp []

/-- The axes on which open frames restrict the active set: `sr.lmask.restr` (R366). -/
def restr (l : Lift) : Nat :=
  l.frames.foldl (fun acc f => match f with
    | .fork _ t _ _ _ => acc ||| t
    | .loop _ _ t _ => acc ||| t) 0

/-- The value of an operand at an instance: at the matching indices (R370). -/
def atInst {α : Type} (t : Tagged α) (i : Nat) : α :=
  if t.tags = 0 then t.val else
    let j := proj t.tags i
    if j = 0 then t.val else tget t.more t.val j

/-- A register value from its tag set and its values by instance. -/
def mkTagged {α : Type} (tags : Nat) (d : α) (vals : Table α) : Tagged α :=
  ⟨tags, tget vals d 0, if tags = 0 then [] else vals.filter fun p => p.1 != 0⟩

/-- The tag set a register destination takes (R370). -/
def destTags (l : Lift) (S old : Nat) : Nat := if l.frames.isEmpty then S else S ||| restr l ||| old

/-- The value a register destination takes (R370): active instances get the results computed at the instances of `S`, inactive
ones keep their values. -/
def writeTagged {α : Type} (l : Lift) (old : Tagged α) (S : Nat) (res : Nat → α) : Tagged α :=
  if S = 0 ∧ l.frames.isEmpty then plain (res 0) else
    let T := destTags l S old.tags
    let act := activeOf l T
    mkTagged T old.val ((instances l T).map fun i => (i, if act.contains i then res (proj S i) else atInst old i))

/-! ## Registers -/

/-- The four register files as numbered in region masks and fault records (R251, R257). -/
def sCode (n : Nat) : Nat := n
/-- A vector register. -/
def vCode (n : Nat) : Nat := 64 + n
/-- A predicate. -/
def pCode (n : Nat) : Nat := 128 + n
/-- A cochain register. -/
def kCode (n : Nat) : Nat := 192 + n

/-- Whether a register is tracked by regions (R251): not s0 and not p0. -/
def tracked (c : Nat) : Bool := c != 0 && c != 128

/-- Scalar register n with its tags; s0 reads zero (R41). -/
def Ctx.sreg (x : Ctx) (n : Nat) : Tagged Word := if n = 0 then plain 0 else tget x.regs.s (plain 0) n
/-- Vector register n with its tags. -/
def Ctx.vreg (x : Ctx) (n : Nat) : Tagged Vec := tget x.regs.v (plain 0) n
/-- Predicate n with its tags; p0 is all ones (R45). -/
def Ctx.preg (x : Ctx) (n : Nat) : Tagged Lane := if n = 0 then plain 0xFFFFFFFF else tget x.regs.p (plain 0) n
/-- Cochain register n. -/
def Ctx.kreg (x : Ctx) (n : Nat) : KReg := tget x.regs.k {} n
/-- The untagged value of scalar register n. -/
def Ctx.sv (x : Ctx) (n : Nat) : Word := (x.sreg n).val
/-- The tag set of a cochain register (R280). -/
def KReg.tags (k : KReg) : Nat := fld k.w0 47 44

/-- The value of scalar register n of the context that executes, instance 0. -/
def State.sv (s : State) (n : Nat) : Word := s.ctx.sv n

/-- A register as a region record keeps it. -/
def Ctx.save (x : Ctx) (code : Nat) : RegSave :=
  let n := code % 64
  match code / 64 with
  | 0 => .s n (x.sreg n)
  | 1 => .v n (x.vreg n)
  | 2 => .p n (x.preg n)
  | _ => .k n (x.kreg n)

/-- The code of a kept register. -/
def RegSave.code : RegSave → Nat
  | .s n _ => sCode n
  | .v n _ => vCode n
  | .p n _ => pCode n
  | .k n _ => kCode n

/-- The fields of a cochain descriptor that tink-back does not restore (R253, R314): sticky status and seam state. -/
def keepStatus (old cur : KReg) : KReg :=
  let m : Word := 0x00000F8000000000
  { cur with w0 := (old.w0 &&& ~~~ m) ||| (cur.w0 &&& m), w1 := old.w1 }

/-- Put a kept register back; a vector register is rewritten, so no word of it keeps bad parity (R123, R253). -/
def Ctx.restore (x : Ctx) (r : RegSave) : Ctx :=
  match r with
  | .s n v => { x with regs := { x.regs with s := tput x.regs.s n v } }
  | .v n v => { x with regs := { x.regs with v := tput x.regs.v n v }, bad := x.bad.filter fun b => b.reg != n
                       dups := x.dups.filter fun d => d.reg != n }
  | .p n v => { x with regs := { x.regs with p := tput x.regs.p n v } }
  | .k n v => { x with regs := { x.regs with k := tput x.regs.k n (keepStatus v (x.kreg n)) } }

/-- Remember a register whose tag set is about to change (R381). -/
def Ctx.noteTags (x : Ctx) (code newTags oldTags : Nat) : Ctx :=
  if newTags = oldTags ∨ x.region.oldTags.any (fun r => r.code == code) then x
  else { x with region := { x.region with oldTags := x.region.oldTags ++ [x.save code] } }

/-- Write scalar register n; s0 discards (R41). -/
def Ctx.putS (x : Ctx) (n : Nat) (v : Tagged Word) : Ctx :=
  if n = 0 then x else
    let y := x.noteTags (sCode n) v.tags (x.sreg n).tags
    { y with regs := { y.regs with s := tput y.regs.s n v } }
/-- Write vector register n. -/
def Ctx.putV (x : Ctx) (n : Nat) (v : Tagged Vec) : Ctx :=
  let y := x.noteTags (vCode n) v.tags (x.vreg n).tags
  { y with regs := { y.regs with v := tput y.regs.v n v } }
/-- Write predicate n; p0 is never written (R45). -/
def Ctx.putP (x : Ctx) (n : Nat) (v : Tagged Lane) : Ctx :=
  if n = 0 then x else
    let y := x.noteTags (pCode n) v.tags (x.preg n).tags
    { y with regs := { y.regs with p := tput y.regs.p n v } }
/-- Write cochain register n. -/
def Ctx.putK (x : Ctx) (n : Nat) (v : KReg) : Ctx :=
  let y := x.noteTags (kCode n) v.tags (x.kreg n).tags
  { y with regs := { y.regs with k := tput y.regs.k n v } }

/-! ## The vector pool (R121, R122, R368) -/

/-- Pool registers that hold instances of a context's registers, or are taken for those of a result on its way (R368, R369). -/
def Ctx.instRegs (x : Ctx) : Nat :=
  let P (t : Nat) : Nat := instCount x.lift t - 1
  (match x.held with
    | some h => h.pool
    | none => 0)
    + x.regs.v.foldl (fun acc r => acc + P r.2.tags) 0
    + x.regs.s.foldl (fun acc r => acc + (P r.2.tags + 15) / 16) 0
    + x.regs.p.foldl (fun acc r => acc + (P r.2.tags + 31) / 32) 0

/-- The nodes that hold bind records of a core, with their references. -/
def State.nodesOn (s : State) (c : Nat) : List (Nat × Node) :=
  (s.dies.map fun d => d.2.nodes.filterMap fun n =>
    if n.2.core == c && (n.2.state == .bound || n.2.state == .running) then some (d.1 * 65536 + n.1, n.2) else none).flatten

/-- The live activations of a core, by context. -/
def Core.live (k : Core) : List (Nat × Ctx) := k.ctxs.filter fun p => p.2.status != .free

/-- Registers of the pool in use (R155, R168, R369): every node's reservation, or what its activations hold when that is more;
every other activation's allotment; the registers that hold instances. -/
def State.poolUsed (s : State) (c : Nat) : Nat :=
  let live := (s.core c).live
  let nodes := s.nodesOn c
  nodes.foldl (fun acc n => acc + max n.2.vregs (live.foldl (fun t p => if p.2.id.lane == some n.1 then t + p.2.id.nv else t) 0)) 0
    + live.foldl (fun acc p => if nodes.any fun n => p.2.id.lane == some n.1 then acc else acc + p.2.id.nv) 0
    + live.foldl (fun acc p => acc + p.2.instRegs) 0

/-- Registers of the pool that are free (R155). -/
def State.poolFree (s : State) (c : Nat) : Nat := 256 - s.poolUsed c

/-- Registers of the pool that a context holds (R122). -/
def Core.heldRegs (k : Core) : Nat := k.live.foldl (fun acc p => acc + p.2.id.nv + p.2.instRegs) 0

/-- Drop the oldest duplicates of contexts, in context order, beyond the number that spare registers can hold. -/
def trimDups : Nat → Table Ctx → Table Ctx
  | _, [] => []
  | room, (i, x) :: rest =>
    let keep := if x.status == .free then 0 else min room x.dups.length
    (i, if keep = x.dups.length then x else { x with dups := x.dups.drop (x.dups.length - keep) }) :: trimDups (room - keep) rest

/-- Taking registers of the pool discards the duplicates they held (R122, R369); which ones go, the spec leaves open (L59). -/
def Core.trim (k : Core) : Core := { k with ctxs := trimDups (256 - k.heldRegs) k.ctxs }

/-- The duplicates of a core after registers were taken. -/
def State.trim (s : State) (c : Nat) : State :=
  if (s.core c).ctxs.all fun e => e.2.dups.isEmpty then s else s.modCore c Core.trim

/-- A write that gives registers more instances takes the registers it needs or faults AXOVF, detail 4 (R369). -/
def poolCheck (s s' : State) : Act State :=
  if (s'.ctx).instRegs ≤ s.ctx.instRegs then .ok s'
  else if s'.poolUsed s.cur ≤ 256 then .ok (s'.trim s.cur) else fault s cAXOVF 4

/-! ## Regions (R250 to R253, R180, R381) -/

/-- The mask of a list of registers. -/
def maskOf (codes : List Nat) : BitVec 256 :=
  codes.foldl (fun m c => if tracked c then m ||| (1#256 <<< c) else m) 0

/-- The read-first mask after an instruction's register reads (R251). -/
def Region.readFirst (r : Region) (reads : List Nat) : BitVec 256 :=
  reads.foldl (fun f c => if tracked c && !r.wmask.getLsbD c then f ||| (1#256 <<< c) else f) r.fmask

/-- The first written register that was read first in the region (R251). -/
def Region.violates (r : Region) (reads writes : List Nat) : Option Nat :=
  writes.find? fun c => tracked c && (r.readFirst reads).getLsbD c

/-- The region record after an instruction's reads and writes (R251). -/
def Region.count (r : Region) (reads writes : List Nat) : Region :=
  { r with wmask := r.wmask ||| maskOf writes, fmask := r.readFirst reads }

/-- Count an instruction's register reads, then its writes (R251). -/
def track (s : State) (reads writes : List Nat) : Act State :=
  match s.ctx.region.violates reads writes with
  | some c => fault s cREGVIOL 0 (wd c)
  | none => .ok (s.modCtx fun x => { x with region := x.region.count reads writes })

/-- End the region: the next begins at the pc the context now has; the registers the instruction writes are latched and count as
written (R252). -/
def Ctx.endRegion (x : Ctx) (writes : List Nat) : Ctx :=
  let ws := writes.filter tracked
  { x with region :=
    { entry := x.pc, wmask := maskOf ws, fmask := 0, latched := ws.map x.save, oldTags := [], handles := [], lift := x.lift,
      rep := x.rep } }

/-- Latch a register that an ended region's instruction delivers later (R252, R357). -/
def Ctx.latch (x : Ctx) (code : Nat) : Ctx :=
  if tracked code then
    { x with region :=
      { x.region with wmask := x.region.wmask ||| maskOf [code],
                      latched := x.region.latched.filter (fun r => r.code != code) ++ [x.save code] } }
  else x

/-- A handle as tink-back leaves it (R180). -/
def HandleMark.restored (m : HandleMark) : Handle :=
  { m.entry with filled := m.entry.filled + m.engine,
                 widx := if m.entry.slots = 0 then 0 else (m.entry.widx + m.engine) % m.entry.slots }

/-- Tink-back of a context (R253). -/
def Ctx.tinkBack (x : Ctx) : Ctx :=
  let r := x.region
  let y := { x with lift := r.lift }
  let y := r.oldTags.foldl Ctx.restore y
  let y := r.latched.foldl Ctx.restore y
  { y with hints := {}, pc := r.entry, rep := r.rep, wait := .ready, stall := 0, held := none, sta := none, tmo := false,
           handles := r.handles.foldl (fun h m => tput h m.1 m.2.restored) y.handles,
           region := { r with wmask := maskOf (r.latched.map RegSave.code), fmask := 0, oldTags := [], handles := [] } }

/-! ## Messages and reports -/

/-- The owner for work the executing instruction starts. -/
def State.owner (s : State) (word : Nat) : Owner :=
  { core := s.cur, ctx := s.curCtx, act := s.ctx.id.act, vf := s.ctx.id.vf, launch := s.ctx.id.launch, word := word,
    pc := s.ctx.pc }

/-- Bit 63:32 and the flags of a fault record's first word (R255). -/
def faultWord (word code detail : Nat) (rp n p l w a : Bool) : Word :=
  let b (c : Bool) (i : Nat) : Nat := if c then 2 ^ i else 0
  wd (word * 2 ^ 32 + detail * 2 ^ 24 + b rp 21 + b n 20 + b p 19 + b l 18 + b w 17 + b a 16 + code)

/-- A type-254 message to a core about itself (R258). -/
def faultMsg (core vf : Nat) (launch : Option Nat) (rec : FaultRec) (ref region : Word) : Msg :=
  { type := 254, words := [rec.f0, rec.f1, rec.f2, rec.f3, ref, region], src := wd core, dst := core, vf := vf,
    launch := launch }

/-- Send a message from a node to a core on the reply channel. -/
def State.postReply (s : State) (src : Nat) (m : Msg) : State := s.post ⟨2, src, m.dst, .msg m⟩

/-- Send a message from a node toward the host's rings (R146): an event on the reply channel, a reply on the request channel. -/
def State.postHost (s : State) (src : Nat) (event : Bool) (m : Msg) : State :=
  s.post ⟨if event then 2 else 0, src, hostNode, .msg m⟩

/-- A report that parks nothing (R257): delivered to the fault binding of the core that issued the instruction; one raised for a
repetition of a body names it (R255). -/
def State.report (s : State) (o : Owner) (code detail : Nat) (f1 : Word) (addr write : Bool) (rep : Option Nat := none) : State :=
  let rec_ : FaultRec :=
    { f0 := faultWord o.word code detail rep.isSome false false false write addr, f1 := f1, f2 := wd (rep.getD 0 * 2 ^ 40), f3 := o.pc }
  s.postReply o.core (faultMsg o.core o.vf o.launch rec_ 0 0)

/-- Entries of 256 bytes in the buffer of 1 MiB on die 0, which all rings share (R433). -/
def HostSide.held (h : HostSide) : Nat := h.heldEntries.length + h.pfHeld.length

/-- Append an entry to a ring of the host (R433): held on die 0 when the ring is full, dropped and counted beyond 1 MiB. -/
def State.hostEntry (s : State) (vf : Nat) (event : Bool) (m : Msg) : State :=
  let rings := if event then s.host.events else s.host.replies
  let r := tget rings {} vf
  let putRing (r : Ring) : State :=
    if event then { s with host := { s.host with events := tput rings vf r } }
    else { s with host := { s.host with replies := tput rings vf r } }
  if r.entries.length < r.count then putRing { r with entries := r.entries ++ [m] }
  else if s.host.held < 4096 then
    { s with host := { s.host with heldEntries := s.host.heldEntries ++ [(vf, event, m)] } }
  else putRing { r with dropped := r.dropped + 1 }

/-- Append to the physical function's event ring (R433). -/
def HostSide.pfAppend (h : HostSide) (e : PfEvent) : HostSide :=
  if h.pf.length < h.pfCount then { h with pf := h.pf ++ [e] }
  else if h.held < 4096 then { h with pfHeld := h.pfHeld ++ [e] }
  else { h with pfDropped := h.pfDropped + 1 }

/-- An event on the physical function's ring. -/
def State.pfEvent (s : State) (e : PfEvent) : State := { s with host := s.host.pfAppend e }

/-- Move the entries held on die 0 into rings that have room again, oldest first (R433). -/
def State.refillRings (s : State) : State :=
  let held := s.host.heldEntries
  let pf := s.host.pfHeld
  let s := held.foldl (fun s e => s.hostEntry e.1 e.2.1 e.2.2) { s with host := { s.host with heldEntries := [], pfHeld := [] } }
  pf.foldl State.pfEvent s

/-- A virtual function as the host can name it: in recovery only the physical function is enumerated (R431). -/
def State.enumerated (s : State) (vf : Nat) : Option Vf := if s.fw.recovery then none else tlook s.vfs vf

/-- The device reads the oldest entry of a command ring, moving its read index (R433): none when the entry it would read is another. An
entry met with an empty ring has just been written. -/
def State.takeCommand (s : State) (c : Command) : Option State :=
  match tget s.host.commands [] c.vf with
  | [] => some s
  | e :: rest => if e = c then some { s with host := { s.host with commands := tput s.host.commands c.vf rest } } else none

/-! ## Taking a fault (R254, R255, R258, R261, R268) -/

/-- The park reference of a context (R259). -/
def parkRef (num ctx : Nat) (saved : Bool) : Word := wd (num * 65536 + (if saved then 8 else 0) + ctx)

/-- The record of a fault (R255). -/
def faultRecord (word : Nat) (pc : Word) (n : Bool) (f : FaultInfo) : FaultRec :=
  { f0 := faultWord word f.code f.detail f.rep.isSome n true f.lift.isSome f.write f.addr
    f1 := f.f1
    f2 := wd (f.lift.getD 0 + f.rep.getD 0 * 2 ^ 40)
    f3 := pc }

/-- Park the activation of a context with its record (R258); a fault in an activation started by a type-254 message, and a `brk`
under debugging, go to the event ring instead (R261, R268). -/
def State.park (s : State) (word : Nat) (f : FaultInfo) : State :=
  let x := s.ctx
  let n := x.id.type == 254
  let rec_ := faultRecord word x.pc n f
  let num := (s.core s.cur).parkCount
  let x' := { x with status := .parked, hints := {}, sp := { x.sp with fault := rec_ }, stall := 0, wait := .ready,
                     held := none, rel := none, sta := none, tmo := false,
                     park := { num := num, resumes := x.park.resumes, saved := false, debug := f.debug } }
  let s1 := (s.setCtx x').modCore s.cur fun k => { k with parkCount := if num = 65535 then 1 else num + 1 }
  let m := faultMsg s.cur x.id.vf x.id.launch rec_ (parkRef num s.curCtx false) x.region.entry
  if n ∨ f.debug then s1.postHost s.cur true m else s1.postReply s.cur m

/-- A matrix command queue of the executing core's member holds a merge of a given destination that the activation issued and whose
register is not yet written (R348). -/
def State.mergesInto (s : State) (p : Nat → Bool) : Bool :=
  (tget (s.octet (octetOf s.cur)).members {} (memberOf s.cur)).queue.any fun e => match e.cmd with
    | .mrg d _ _ => e.own.act == s.ctx.id.act && d != 0 && p d
    | _ => false

/-- A merge of the executing activation has not written its register yet. -/
def State.merging (s : State) : Bool := s.mergesInto fun _ => true

/-- What a fault keeps of the executing context: what belongs to other units or to no region (R7, R254). -/
def Ctx.faulted (x y : Ctx) : Ctx :=
  { x with pages := y.pages, accf := y.accf, copyFail := y.copyFail, bad := y.bad, dups := y.dups }

/-- What a stopped instruction leaves (R7, R254). One that waits for a seam gives up the cochain unit (R306). A fault parks once every
earlier instruction has written its registers, a merge's outcome included (R254); one for want of pool registers comes before the
instruction has done anything (R369). An ILL names no repetition, whichever rule raised it (L84). -/
def settle (word : Nat) (s : State) : Stop → State
  | .wait w => s.modCtx fun x => { x with wait := w, held := match w with
      | .seam _ => none
      | _ => x.held }
  | .hold s' => s'.modCtx fun y => { y with wait := .other }
  | .trap f s' =>
    if s.merging then s.modCtx fun x => { x with wait := .other } else
    let s' := if f.code = cAXOVF ∧ f.detail = 4 then s else s'
    (s'.setCtx (s.ctx.faulted s'.ctx)).park word
      { f with rep := if f.code = cILL then none else if f.rep.isSome then f.rep else s.ctx.rep.map (fun r => r.j) }
  | .tink s' => ((s'.setCtx (s.ctx.faulted s'.ctx)).modCtx Ctx.tinkBack).trim s.cur

/-! ## Hints (R50 to R52) -/

/-- Whether a field of a word is an operand code, or names a handle (R43, R51, R127): 0 d, 1 a, 2 b. -/
def operandField (w f : Nat) : Bool :=
  let op := bits w 26 6
  let v := 0x28 ≤ op && op ≤ 0x34
  match f with
  | 0 => (v && op != 0x2C && !(op == 0x2D && bits w 0 2 == 3)) || (op == 0x27 && bits w 0 2 < 2)
  | 1 => (v && !(op == 0x2D && bits w 0 2 == 2)) || (op == 0x3B && (bits w 4 4 == 3 || bits w 4 4 == 4))
          || (op == 0x22 && (bits w 8 3 == 1 || bits w 8 3 == 3)) || (op == 0x27 && bits w 0 2 == 2)
  | _ => (v && op != 0x2F && op != 0x32 && op != 0x33 && op != 0x34 && op != 0x30
            && !(op == 0x31 && bits w 0 2 != 3) && !(op == 0x2D && bits w 0 2 ≥ 2) && !(op == 0x2E && bits w 0 2 == 1))
          || (op == 0x3B && (bits w 4 4 == 3 || bits w 4 4 == 4)) || (op == 0x1B && bits w 24 2 == 3)

/-- The 6-bit field d, a or b of a word. -/
def fieldOf (w f : Nat) : Nat := bits w (match f with | 0 => 20 | 1 => 14 | _ => 8) 6

/-- How many ext hints a word accepts (R50 and the class chapters). -/
def extLimit (w : Nat) : Nat :=
  match bits w 26 6 with
  | 0x03 | 0x04 | 0x05 | 0x06 | 0x08 | 0x0C | 0x0D | 0x0E | 0x0F | 0x10 | 0x11 | 0x15 | 0x16 | 0x17 | 0x22 => 2
  | 0x12 | 0x13 => 1
  | 0x18 => if bits w 12 2 = 1 then 0 else 2
  | 0x19 => if bits w 12 2 = 0 then 2 else 0
  | 0x1B => if bits w 24 2 < 2 then 2 else 0
  | 0x3D => if bits w 4 4 = 0 then 1 else 0
  | _ => 0

/-- Whether a word accepts every pending hint (R52). -/
def accepts (h : Pending) (w : Nat) : Bool :=
  let op := bits w 26 6
  let branch := (0x0C ≤ op && op ≤ 0x11) || op == 0x15
  let pass := op == 0x3B && (bits w 4 4 == 3 || bits w 4 4 == 4)
  h.ext.length ≤ extLimit w && (h.join.isNone || branch) && (h.bank.isNone || (0x16 ≤ op && op ≤ 0x1A))
    && (match h.take with
        | some (f, _) => operandField w f && 52 ≤ fieldOf w f && fieldOf w f < 60
        | none => true)
    && (h.lay.isNone || pass) && (!h.flag || (op == 0x3E && (bits w 4 4 == 5 || bits w 4 4 == 8)))
    && (h.lsend.isNone || op == 0x22)

/-- An immediate field of `n` bits joined with the pending ext hints (R50): value and width. -/
def extended (h : Pending) (n v : Nat) : Nat × Nat :=
  match h.ext with
  | [] => (v, n)
  | [a] => (a * 2 ^ n + v, n + 22)
  | a :: b :: _ => (a * 2 ^ (n + 22) + b * 2 ^ n + v, n + 44)

/-- An extended immediate, sign-extended. -/
def extS (h : Pending) (n v : Nat) : Int := sxt (extended h n v).2 (extended h n v).1

/-! ## The frame of execution -/

/-- What the shared frame needs to know of an instruction: its word, the tracked registers it reads and writes, whether it ends
the region (R252), whether it is once only inside a lift (R373), whether its operand values make it ILL (R59). -/
structure Ins where
  word : Nat
  reads : List Nat := []
  writes : List Nat := []
  ends : Bool := false
  once : Bool := false
  ill : Bool := false
  deriving DecidableEq, Repr

/-- The tag set of a register by code. -/
def Ctx.tagsOf (x : Ctx) (code : Nat) : Nat :=
  match code / 64 with
  | 0 => (x.sreg (code % 64)).tags
  | 1 => (x.vreg (code % 64)).tags
  | 2 => (x.preg (code % 64)).tags
  | _ => (x.kreg (code % 64)).tags

/-- The union of the tag sets of registers (R370). -/
def Ctx.tagUnion (x : Ctx) (codes : List Nat) : Nat := codes.foldl (fun t c => t ||| x.tagsOf c) 0

/-- LWRITE with the first tagged operand of a list (R391). -/
def lwrite {α : Type} (s : State) (detail : Nat) (codes : List Nat) : Act α :=
  match codes.find? fun c => s.ctx.tagsOf c != 0 with
  | some c => fault s cLWRITE detail (wd (c + s.ctx.tagsOf c * 256))
  | none => fault s cLWRITE detail

/-- Service level of the executing core's die (R103, R425). -/
def State.level (s : State) : Nat := (s.die s.myDie).pw.level

/-- The service-level check of R358, R398 and R427, by major and type. -/
def svcOk (level w : Nat) : Bool :=
  let op := bits w 26 6
  if level ≥ 3 then true
  else if op == 0x3B || op == 0x3C || op == 0x3E then false
  else if level ≥ 2 then true
  else op ≤ 0x17 || (0x28 ≤ op && op ≤ 0x34 && bits w 2 3 == 0 && (op != 0x32 || bits w 8 6 == 0))

/-- The rules of a repetition body for a word that is no hint (R355). -/
def repAllows (x : Ctx) (w : Nat) : Bool :=
  match x.rep with
  | none => true
  | some r =>
    let op := bits w 26 6
    let vec := 0x28 ≤ op && op ≤ 0x34
    let mat := op == 0x3B && (bits w 4 4 == 3 || bits w 4 4 == 4)
    let close := op == 0x3C && bits w 4 4 == 3
    close || (r.words < 16 && ((vec && r.matrix != some true) || (mat && r.matrix != some false)))

/-- The registers an instruction names must be allotted (R121): the first vector register at or above the allotment. Where several are
not, the spec does not say which one the record names; the model takes them in the order sources, then destinations (L60). -/
def unallotted (x : Ctx) (codes : List Nat) : Option Nat :=
  codes.find? fun c => c / 64 == 1 && x.id.nv ≤ c % 64

/-- Whether a register awaits the outcome of a merge that the executing context's activation issued (R348, R357). -/
def State.awaits (s : State) (code : Nat) : Bool := s.mergesInto fun d => code == sCode d

/-- A pending accumulator trap: the lowest bit faults and is no longer pending (R352). -/
def accfTrap (s : State) : Act Unit :=
  match s.ctx.accf with
  | b :: bs =>
    fault (s.modCtx fun x => { x with accf := bs }) cACCF b (wd (tget (s.octet (octetOf s.cur)).members {} (memberOf s.cur)).acst)
  | [] => .ok ()

/-- Everything a word passes before its own checks: ILL by pending hints, repetition rules or operand values (R52, R59, R355), a
pending accumulator trap (R352), the service level (R427), its register tracking (R251), and the once-only rule of a lift (R373). -/
def prelude (i : Ins) (s : State) : Act State := do
  if !accepts s.ctx.hints i.word || !repAllows s.ctx i.word || i.ill then fault s cILL 0
  let op := bits i.word 26 6
  if op == 0x3B || op == 0x3C then accfTrap s
  if !svcOk s.level i.word then fault s cSVC 0
  match unallotted s.ctx (i.reads ++ i.writes) with
  | some c => fault s cBOUNDS 2 (wd (c % 64))
  | none => pure ()
  waitFor !((i.reads ++ i.writes).any s.awaits)
  let s1 ← track s i.reads (if i.ends then [] else i.writes)
  if i.once && s.ctx.tagUnion i.reads != 0 then lwrite s 2 i.reads
  pure s1

/-- A repetition body after one more of its words (R355). -/
def stepRep (w : Nat) (r : Option Rep) : Option Rep :=
  r.map fun r =>
    let op := bits w 26 6
    if op = 0x3C then r
    else { r with words := r.words + 1, matrix := if op = 0x01 then r.matrix else some (op == 0x3B) }

/-- Retire at a next pc: hints used up, waits over, the region ended when the instruction ends it. An activation that has ended
keeps nothing (R19). -/
def retire (i : Ins) (s : State) (pc : Word) : State :=
  if s.ctx.status ≠ .running then s else
  s.modCtx fun x =>
    let y := { x with pc := pc, hints := {}, wait := .ready, tmo := false, held := none, rel := none, sta := none,
                      rep := stepRep i.word x.rep }
    if i.ends then y.endRegion i.writes else y

/-- The address of the next word. -/
def pc4 (s : State) : Word := ptrAt s.ctx.pc (ptrOff s.ctx.pc + 4)

/-- Execute one instruction word on the context whose turn it is: the shared checks, then its own effect, which answers the new
state and the next pc. A fault parks, a wait leaves the instruction to be tried again (L6). -/
def execute (i : Ins) (body : State → Act (State × Word)) (s : State) : Host.Outcome State Fault Refusal :=
  if s.ctx.status = .running then
    match (prelude i s).bind body with
    | .ok (s', pc) => .next (retire i s' pc)
    | .error st => .next (settle i.word s st)
  else .fault .noActivation

/-- Mark a fault of a widened instruction with its instance (R371). -/
def atInstance {α : Type} (S i : Nat) : Act α → Act α
  | .error (.trap f s) => .error (.trap { f with lift := if S = 0 then f.lift else some i } s)
  | r => r

/-- Run once per active instance of a tag set, in instance order, the first failing instance faulting (R371). -/
def widenOver {α : Type} (S : Nat) (f : State → Nat → Act (State × α)) : List Nat → State → Act (State × Table α)
  | [], s => .ok (s, [])
  | i :: is, s =>
    (atInstance S i (f s i)).bind fun (s1, v) => (widenOver S f is s1).bind fun (s2, vs) => .ok (s2, (i, v) :: vs)

/-- The same over the active instances of the executing context. -/
def widen {α : Type} (s : State) (S : Nat) (f : State → Nat → Act (State × α)) : Act (State × Table α) :=
  widenOver S f (activeOf s.ctx.lift S) s

/-- Write a scalar destination (R370), given the results by instance of `S`. -/
def writeS (s : State) (d S : Nat) (res : Nat → Word) : Act State :=
  if d = 0 then .ok s
  else poolCheck s (s.modCtx fun x => x.putS d (writeTagged x.lift (x.sreg d) S res))

/-- The pool registers that a scalar result over a tag set needs beyond those its register holds, as the pool has them (R369): an
instruction that acts before it writes its result takes them in advance. -/
def takePool (s : State) (d S : Nat) : Act Nat :=
  let y := s.ctx.putS d (writeTagged s.ctx.lift (s.ctx.sreg d) S fun _ => 0)
  let n := y.instRegs - s.ctx.instRegs
  if n = 0 ∨ s.poolUsed s.cur + n ≤ 256 then .ok n else fault s cAXOVF 4

/-- The frame for an instruction that goes on to the next word. -/
def onward (i : Ins) (body : State → Act State) (s : State) : Host.Outcome State Fault Refusal :=
  execute i (fun s => (body s).bind fun s' => .ok (s', pc4 s)) s

end Sys2Proof.Machine
end

