-- ==== Sys2Proof/Machine/Special.lean ====
section
/-!
DEFINITION. Special registers (R103 to R105) and the `rdsr` and `wrsr` instructions.
-/

namespace Sys2Proof.Machine

/-- The length of one cycle of a clock, in units of 1/15 ns (R23). -/
def Clock.units : Clock → Nat
  | .ghz1_25 => 12
  | .ghz1_0 => 15
  | .ghz0_75 => 20
  | .ghz0_625 => 24

/-- The clock a die runs (R23): 0.625 GHz at level 1. -/
def DiePower.units (p : DiePower) : Nat := if p.level ≤ 1 then 24 else Clock.units p.clk

/-- `sr.wsref` (R214): a slot of 1 µs, a window of 400 ns at its start. -/
def wsref (d : Die) : Word :=
  let u := d.pw.units
  let next := (15000 - d.wsTime + u - 1) / u
  let left := if d.wsOpen then (6000 - d.wsTime + u - 1) / u else 0
  let bank := if d.wsOpen then d.wsSlot % 64 else (d.wsSlot + 1) % 64
  wd (next * 2 ^ 32 + left * 2 ^ 16 + (if d.wsOpen then 2 ^ 15 else 0) + bank)

/-- `sr.zfstat` (R124): repairs and failures saturate, zero-flag counts are in units of 1,024 and wrap. -/
def zfstat (k : Core) : Word :=
  wd (min k.rpr 65535 * 2 ^ 48 + min k.rnr 65535 * 2 ^ 32 + k.zrd / 1024 % 65536 * 2 ^ 16 + k.zwr / 1024 % 65536)

/-- `sr.cxgenN` (R274): 0 when the slot is empty. -/
def cxgen (k : Core) (n : Nat) : Word :=
  match (tget k.slots {} n).cur with
  | some c => wd c.gen
  | none => 0

/-- `sr.gaugeN` (R365). -/
def gaugeWord (x : Ctx) (n : Nat) : Word :=
  let used := ((List.range 4).filter fun l => match nth x.lift.levels l with
    | some v => v.gauge == n
    | none => false).foldl (fun m l => m + 2 ^ l) 0
  wd (used * 2 ^ 16 + (nth x.sp.gauge n).getD 1)

/-- `sr.lmask` (R366). -/
def lmask (x : Ctx) : Word :=
  wd (x.lift.frames.length * 2 ^ 24 + restr x.lift * 2 ^ 16 + x.lift.active.length)

/-- A special register as `rdsr` reads it, at a packed lift index (R103, R372); numbers outside the table read zero (R60).
`sr.nslice` of an activation that belongs to no launch, whose value the spec does not give, reads zero (L77). -/
def readSpecial (s : State) (n i : Nat) : Word :=
  let x := s.ctx
  match n with
  | 0x000 => wd s.cur
  | 0x001 => wd x.id.slice
  | 0x002 => match x.id.launch.bind fun l => tlook s.launches l with
    | some l => wd l.nslice
    | none => 0
  | 0x003 => wd s.curCtx
  | 0x004 => wd x.id.vf
  | 0x005 => wd (dieMask s.myVf)
  | 0x006 => wd (s.die s.myDie).pw.level
  | 0x007 => wd s.fw.pkg
  | 0x008 => wd (s.die s.myDie).pw.cycle
  | 0x010 => x.sp.fst
  | 0x011 => x.sp.kmode
  | 0x012 => zfstat (s.core s.cur)
  | 0x018 => cxgen (s.core s.cur) 0
  | 0x019 => cxgen (s.core s.cur) 1
  | 0x020 => gaugeWord x 0
  | 0x021 => gaugeWord x 1
  | 0x022 => gaugeWord x 2
  | 0x023 => gaugeWord x 3
  | 0x024 => wd x.lift.levels.length
  | 0x025 => lmask x
  | 0x026 => wd i
  | 0x030 => x.sp.fault.f0
  | 0x031 => x.sp.fault.f1
  | 0x032 => x.sp.fault.f2
  | 0x033 => x.sp.fault.f3
  | 0x034 => x.region.entry
  | 0x040 => wsref (s.die s.myDie)
  | _ => 0

/-- Every pushed axis. -/
def allAxes (l : Lift) : Nat := 2 ^ l.levels.length - 1

/-- `rdsr` (R105, R372): only `sr.lidx` is tagged. -/
def execRdsr (d r : Nat) (s : State) : Host.Outcome State Fault Refusal :=
  onward { word := wordRdsr d r, writes := [d] }
    (fun s => writeS s d (if r = 0x026 then allAxes s.ctx.lift else 0) fun i => readSpecial s r i) s

/-- The special registers after a `wrsr` (R92, R103, R283, R365): only RW fields are written; none where the write is ILL. -/
def writeSpecial (sp : Special) (r : Nat) (v : Word) : Option Special :=
  match r with
  | 0x010 => if fld v 10 8 ≥ 4 then none else some { sp with fst := v &&& 0xFF071F }
  | 0x011 => some { sp with kmode := v &&& 0xFFFFFF01 }
  | 0x020 => some { sp with gauge := lset sp.gauge 0 (fld v 10 0) }
  | 0x021 => some { sp with gauge := lset sp.gauge 1 (fld v 10 0) }
  | 0x022 => some { sp with gauge := lset sp.gauge 2 (fld v 10 0) }
  | 0x023 => some { sp with gauge := lset sp.gauge 3 (fld v 10 0) }
  | _ => none

/-- Whether a write of a special register is ILL (R59, R60, R92, R103): the register is not writable, or the value, once it is there,
names a reserved rounding mode. -/
def wrsrIll (s : State) (a r : Nat) : Bool :=
  (writeSpecial s.ctx.sp r 0).isNone
    || ((s.ctx.sreg a).tags == 0 && !s.awaits (sCode a) && (writeSpecial s.ctx.sp r (s.sv a)).isNone)

/-- `wrsr` (R103, R105, R252): once only, ends the region. -/
def execWrsr (a r : Nat) (s : State) : Host.Outcome State Fault Refusal :=
  onward { word := wordWrsr a r, reads := [a], ends := true, once := true, ill := wrsrIll s a r }
    (fun s => .ok (s.modCtx fun x => { x with sp := (writeSpecial x.sp r (s.sv a)).getD x.sp })) s

end Sys2Proof.Machine
end

