-- ==== Sys2Proof/Machine/Translate.lean ====
section
/-!
DEFINITION. Physical addresses, page tables and translation (R185 to R188), the address checks of R184, and instruction fetch
(R72, R114). A walk is made at once at the access that needs it (L8).
-/

namespace Sys2Proof.Machine

/-- The home die of a physical address (R187). -/
def homeDie (pa : Nat) : Nat := if bitOf pa 40 then bits pa 36 3 else bits pa 12 3
/-- The offset in the home die's stack (R187). -/
def homeOff (pa : Nat) : Nat := if bitOf pa 40 then pa % 2 ^ 36 else bits pa 15 24 * 4096 + pa % 4096
/-- The number of an HBM cell: one number for both windows on it. -/
def cellOf (pa : Nat) : Nat := homeDie pa * 2 ^ 36 + homeOff pa
/-- The granule of a physical address. -/
def granuleOf (pa : Nat) : Nat := cellOf pa / 64

/-- `n` bytes of HBM at a physical address that do not cross a 4 KiB block. -/
def State.hbmRead (s : State) (pa n : Nat) : List Byte := mread s.hbm (cellOf pa) n
/-- Write bytes of HBM at a physical address within a 4 KiB block. -/
def State.hbmWrite (s : State) (pa : Nat) (bs : List Byte) : State := { s with hbm := mwrite s.hbm (cellOf pa) bs }
/-- Whether a memory node answers (R200, R425, R435). -/
def State.memUp (s : State) (d : Nat) : Bool :=
  let p := (s.die d).pw
  p.memUp && p.trained && !p.stackFailed && !p.selfRefresh && p.state != .off

/-- What a page walk finds: a leaf with the log2 of its page size, an invalid translation (the detail of R257), or a home that
does not answer. -/
inductive Walk where
  | leaf (pte : Word) (lg : Nat)
  | xlate (detail : Nat)
  | mnode
  | poison
  deriving DecidableEq, Repr

/-- The checks on a leaf's frame (R187, R188). -/
def leafCheck (e : Word) (lo : Nat) : Walk :=
  let pa := bits e.toNat lo (41 - lo) * 2 ^ lo
  if bitOf pa 39 then .xlate 4
  else if Config.stackBytes ≤ homeOff (pa + 2 ^ lo - 1) then .xlate 5
  else .leaf e lo

/-- The walk of R185 over its levels: (level, high bit, low bit). A table at a stack offset without cells reads as zero, so that the walk
ends at its level, and a poisoned entry faults POISON (L85). -/
def walkLevels (s : State) (va : Nat) : List (Nat × Nat × Nat) → Nat → Walk
  | [], _ => .xlate 3
  | (lvl, hi, lo) :: rest, t =>
    let pa := t + 8 * bits va lo (hi + 1 - lo)
    if bitOf pa 39 then .xlate 4
    else if !s.memUp (homeDie pa) then .mnode
    else if s.poison.contains (granuleOf pa) then .poison
    else
      let e := wd (leNat (s.hbmRead pa 8))
      if fld e 0 0 = 0 ∨ fld e 63 41 ≠ 0 then .xlate lvl
      else if fld e 1 1 = 1 then
        if lvl = 0 ∨ bits e.toNat 8 (lo - 8) ≠ 0 then .xlate lvl else leafCheck e lo
      else if lvl = 3 then .xlate 3
      else walkLevels s va rest (fld e 40 8 * 256)

/-- The walk of a virtual address for a virtual function (R185). -/
def walk (s : State) (vf va : Nat) : Walk :=
  walkLevels s va [(0, 51, 39), (1, 38, 26), (2, 25, 21), (3, 20, 16)] (s.vf vf).root

/-- Whether a cached entry translates an address. -/
def TlbEntry.covers (e : TlbEntry) (vf va : Nat) : Bool := e.vf == vf && va / 2 ^ e.lg == e.va / 2 ^ e.lg

/-- A cached translation for a core: its micro-TLB, then its die's last-level TLB (R185). -/
def State.tlbFind (s : State) (c vf va : Nat) : Option TlbEntry :=
  match (s.core c).utlb.find? fun e => e.covers vf va with
  | some e => some e
  | none => (s.die (dieOf c)).tlb.find? fun e => e.covers vf va

/-- Keep a translation in a core's micro-TLB and its die's TLB, oldest entries out first (L10). -/
def State.tlbFill (s : State) (c : Nat) (e : TlbEntry) : State :=
  let s := s.modCore c fun k => { k with utlb := (e :: k.utlb.filter fun x => x != e).take 64 }
  s.modDie (dieOf c) fun d => { d with tlb := (e :: d.tlb.filter fun x => x != e).take 12288 }

/-- The page permissions X W R A of a leaf, coded as a pointer's (R186). -/
def leafPerm (e : Word) : Nat := fld e 7 7 * 8 + fld e 4 4 * 4 + fld e 3 3 * 2 + fld e 5 5

/-- The entry that translates one address of the executing context (R185); `p` is the pointer a fault names. Answers the state with the
caches filled. -/
def findPage (s : State) (p : Word) (va : Nat) (write : Bool) : Act (State × TlbEntry) := do
  let vf := s.ctx.id.vf
  let e ← match s.tlbFind s.cur vf va with
    | some e => pure e
    | none =>
      match walk s vf va with
      | .leaf pte lg => pure ⟨vf, va / 2 ^ lg * 2 ^ lg, lg, pte⟩
      | .xlate d => faultAt s cXLATE d p write
      | .mnode => faultAt s cMNODE 0 p write
      | .poison => faultAt s cPOISON 0 p write
  pure (s.tlbFill s.cur e, e)

/-- The page permission of an access (R186). -/
def permit (s : State) (p : Word) (need_ : Nat) (write : Bool) (e : TlbEntry) : Act Unit :=
  if (leafPerm e.pte &&& need_) = need_ then .ok () else faultAt s cPERM 0 p write

/-- The physical address of a virtual address in its page, and the page's NC bit. -/
def TlbEntry.place (e : TlbEntry) (va : Nat) : Nat × Bool :=
  (bits e.pte.toNat e.lg (41 - e.lg) * 2 ^ e.lg + va % 2 ^ e.lg, fld e.pte 6 6 == 1)

/-- Translate one address for permissions `need_`: the state with the caches filled, the physical address and the NC bit. -/
def translate (s : State) (p : Word) (va need_ : Nat) (write : Bool) : Act (State × Nat × Bool) := do
  let (s, e) ← findPage s p va write
  permit s p need_ write e
  pure (s, e.place va)

/-- The pieces of a range of `n` bytes from `va` upward that stay within aligned blocks of `blk` bytes: (address, length). -/
def cutAt (blk : Nat) : Nat → Nat → Nat → List (Nat × Nat)
  | 0, _, _ => []
  | fuel + 1, va, n =>
    if n = 0 then [] else
      let k := min n (blk - va % blk)
      (va, k) :: cutAt blk fuel (va + k) (n - k)

/-- A piece of a range with its address and the entry that translates it. -/
abbrev Found := List (Nat × Nat × TlbEntry)

/-- Find the page of every piece of a range (R184, step 3). -/
def findPages (s : State) (p : Word) (write : Bool) : List (Nat × Nat) → Act (State × Found)
  | [] => .ok (s, [])
  | (va, n) :: rest =>
    (findPage s p va write).bind fun (s, e) =>
      (findPages s p write rest).bind fun (s, es) => .ok (s, (va, n, e) :: es)

/-- The permissions of every page found (R184, step 4). -/
def permitAll (s : State) (p : Word) (need_ : Nat) (write : Bool) : Found → Act Unit
  | [] => .ok ()
  | (_, _, e) :: rest => (permit s p need_ write e).bind fun _ => permitAll s p need_ write rest

/-- The pieces of a range found: (physical address, length, NC). -/
def Found.pieces (es : Found) : List (Nat × Nat × Bool) := es.map fun e => ((e.2.2.place e.1).1, e.2.1, (e.2.2.place e.1).2)

/-- Translate every page of a range, then check every page's permissions (R184, R207): the pieces in order. -/
def translateRange (s : State) (p : Word) (need_ : Nat) (write : Bool) (ps : List (Nat × Nat)) :
    Act (State × List (Nat × Nat × Bool)) := do
  let (s, es) ← findPages s p write ps
  permitAll s p need_ write es
  pure (s, es.pieces)

/-- Where a checked address operand lies: an offset in the own scratchpad, or HBM pieces within 64 KiB pages. -/
inductive Loc where
  | spad (a : Nat)
  | hbm (pieces : List (Nat × Nat × Bool))
  deriving DecidableEq, Repr

/-- The bound of a scratchpad access (R183). -/
def spadCheck (s : State) (x : Word) (n : Nat) (write : Bool) : Act Nat :=
  if x.toNat + n ≤ Config.spadBytes then .ok x.toNat else faultAt s cBOUNDS 1 x write

/-- A pointer check of R72 at an access of `n` bytes: the virtual address. -/
def pointerCheck (s : State) (x : Word) (need_ n : Nat) (write : Bool) : Act Nat :=
  match ptrCheck s.myVf x need_ n with
  | .ok va => .ok va
  | .perm => faultAt s cPERM 0 x write
  | .bounds => faultAt s cBOUNDS 1 x write

/-- The checks of R184 on one address operand, in their order: bound or pointer, alignment, translation, page permission. -/
def resolve (s : State) (x : Word) (n align need_ : Nat) (write : Bool) : Act (State × Loc) := do
  if isSpad x then
    let a ← spadCheck s x n write
    if x.toNat % align ≠ 0 then faultAt s cALIGN 0 x write
    pure (s, .spad a)
  else
    let va ← pointerCheck s x need_ n write
    if ptrOff x % align ≠ 0 then faultAt s cALIGN 0 x write
    let (s, ps) ← translateRange s x need_ write (cutAt 65536 (n / 65536 + 2) va n)
    pure (s, .hbm ps)

/-- An operand that must be a scratchpad address (R183). -/
def resolveSpad (s : State) (x : Word) (n align : Nat) (write : Bool) : Act Nat := do
  if !isSpad x then faultAt s cBOUNDS 1 x write
  let a ← spadCheck s x n write
  if x.toNat % align ≠ 0 then faultAt s cALIGN 0 x write
  pure a

/-- An operand that must be a bounded pointer (R183). -/
def resolvePtr (s : State) (x : Word) (n align need_ : Nat) (write : Bool) : Act (State × List (Nat × Nat × Bool)) := do
  if isSpad x then faultAt s cBOUNDS 1 x write
  let (s, l) ← resolve s x n align need_ write
  match l with
  | .hbm ps => pure (s, ps)
  | .spad _ => pure (s, [])

/-- An address operand (R183): value, bytes, alignment, permissions, whether it is written, and the kind its instruction names, none
where it accepts either: `some true` a scratchpad address, `some false` a pointer. -/
structure Operand where
  x : Word
  n : Nat
  align : Nat
  need : Nat
  write : Bool
  kind : Option Bool := none
  deriving DecidableEq, Repr

/-- Step 1 of R184: the kind, then the scratchpad bound or the checks of R72. Answers the address. -/
def Operand.bound (o : Operand) (s : State) : Act Nat :=
  if o.kind == some (!isSpad o.x) then faultAt s cBOUNDS 1 o.x o.write
  else if isSpad o.x then spadCheck s o.x o.n o.write
  else pointerCheck s o.x o.need o.n o.write

/-- Step 2: alignment. -/
def Operand.aligned (o : Operand) (s : State) : Act Unit :=
  if (if isSpad o.x then o.x.toNat else ptrOff o.x) % o.align = 0 then .ok () else faultAt s cALIGN 0 o.x o.write

/-- Step 3: translation of a pointer's range from its address. -/
def Operand.find (o : Operand) (s : State) (a : Nat) : Act (State × Found) :=
  if isSpad o.x then .ok (s, []) else findPages s o.x o.write (cutAt 65536 (o.n / 65536 + 2) a o.n)

/-- Step 4: page permissions. -/
def Operand.permit (o : Operand) (s : State) (es : Found) : Act Unit := permitAll s o.x o.need o.write es

/-- The first steps of R184 for several operands: step 1 for each, then step 2 for each. Answers the addresses. -/
def checkOperands (s : State) (os : List Operand) : Act (List Nat) := do
  let as ← os.mapM fun o => o.bound s
  os.forM fun o => o.aligned s
  pure as

/-- An address with a byte offset added (R184): a natural sum in scratchpad, `padd` for a pointer. -/
def addOffset (s : State) (x : Word) (off : Int) (write : Bool) : Act Word :=
  if isSpad x then
    let a := (x.toNat : Int) + off
    if 0 ≤ a ∧ a < (2 ^ 40 : Nat) then .ok (wd a.toNat) else faultAt s cBOUNDS 1 (BitVec.ofInt 64 a) write
  else
    match ptrSegment s.myVf x with
    | none => faultAt s cPERM 0 x write
    | some _ =>
      match ptrMove x off with
      | some y => .ok y
      | none => faultAt s cBOUNDS 1 (ptrAt x (wrapN 40 ((ptrOff x : Int) + off))) write

/-- A scratchpad reference (R174, R183): address and coordinate, checked against the layout and the virtual function's quads. -/
def resolveRef (s : State) (x : Word) (write : Bool) : Act (Nat × Nat) :=
  if fld x 31 20 ≠ 0 ∨ fld x 63 43 ≠ 0 then faultAt s cBOUNDS 4 x write
  else if !inQuads s.myVf (fld x 42 32) then faultAt s cPERM 0 x write
  else .ok (fld x 19 0, fld x 42 32)

/-! ## Instruction fetch -/

/-- The number of an instruction-cache line: virtual function and virtual line. -/
def lineKey (vf va : Nat) : Nat := vf * 2 ^ 46 + va / 64

/-- Bytes at a pointer through a core's instruction cache: the checks of R72 with X, or another permission, then the cached line, or a
fill from HBM (R114, R267, L10). Answers the state and the bytes. A start whose pointer is no multiple of 4, of which the spec says
nothing, fetches at that address and no further than the end of the line, without ALIGN (L74). -/
def fetchBytes (s : State) (p : Word) (need_ n : Nat) : Act (State × List Byte) := do
  let va ← pointerCheck s p need_ n false
  let key := lineKey s.ctx.id.vf va
  let off := va % 64
  match tlook (s.core s.cur).icache key with
  | some line => pure (s, ((leBytes 64 line).drop off).take n)
  | none =>
    let (s, pa, _) ← translate s p va need_ false
    if !s.memUp (homeDie pa) then faultAt s cMNODE 0 p
    if s.poison.contains (granuleOf pa) then faultAt s cPOISON 0 p
    let line := s.hbmRead (pa / 64 * 64) 64
    let s := s.modCore s.cur fun k =>
      { k with icache := ((key, leNat line) :: k.icache.filter fun e => e.1 != key).take 1024 }
    pure (s, (line.drop off).take n)

/-- Check a control-transfer target as a fetch of 4 bytes with X permission (R114). -/
def checkTarget (s : State) (t : Word) : Act Unit :=
  match ptrCheck s.myVf t permX 4 with
  | .ok _ => .ok ()
  | .perm => faultAt s cPERM 0 t
  | .bounds => faultAt s cBOUNDS 1 t

/-- A relative target (R114): the pc moved by a number of words, BOUNDS with detail 1 when the offset leaves 0 to 2^40 − 1. -/
def relTarget (s : State) (words : Int) : Act Word :=
  match ptrMove s.ctx.pc (4 * words) with
  | some t => .ok t
  | none => faultAt s cBOUNDS 1 (ptrAt s.ctx.pc (wrapN 40 ((ptrOff s.ctx.pc : Int) + 4 * words)))

end Sys2Proof.Machine
end

