-- ==== Sys2Proof/Machine/Control.lean ====
section
/-!
DEFINITION. Majors 0x0A and 0x0C to 0x15: `lea`, branches, jumps and `loop`, outside a lift and batched (R113 to R119, R373,
R378 to R381).
-/

namespace Sys2Proof.Machine

/-- The object whose code segment a pc lies in. -/
def State.objOf (s : State) (vf : Nat) (pc : Word) : Option Obj :=
  ((s.vf vf).objs.find? fun o => o.2.slots.contains (ptrSlot pc)).map fun o => o.2

/-- Entry i of an object's pointer table, as a pointer into the table's segment. -/
def Obj.entryAt (o : Obj) (v : Vf) (i : Nat) : Word := mkPtr v.key permR o.table (8 * i)

/-- `lea` (R113): the entry is read through the instruction-fetch path. -/
def execLea (d i : Nat) (s : State) : Host.Outcome State Fault Refusal :=
  onward { word := wordLea d i, writes := [d] }
    (fun s => do
      match (s.objOf s.ctx.id.vf s.ctx.pc).filter fun o => i < o.nptr with
      | some o =>
        let (s, bs) ← fetchBytes s (o.entryAt s.myVf i) permR 8
        writeS s d 0 fun _ => wd (leNat bs)
      | none => fault s cBOUNDS 3 (wd i)) s

/-- The join point of the pending `hjoin`, when there is one: it must lie in the code segment (R119). -/
def joinPoint (s : State) : Act (Option Word) :=
  match s.ctx.hints.join with
  | none => .ok none
  | some o => do
    let j ← relTarget s o
    match ptrCheck s.myVf j 0 4 with
    | .ok _ => pure (some j)
    | _ => faultAt s cBOUNDS 1 j

/-- Transfer to a relative target after its checks (R114). -/
def takeBranch (s : State) (words : Int) : Act (State × Word) := do
  let t ← relTarget s words
  checkTarget s t
  pure (s, t)

/-- The whole-stack active instances for which a condition by instance holds. -/
def splitActive (l : Lift) (cond : Nat → Bool) : List Nat × List Nat := l.active.partition cond

/-- A batched branch (R378 to R380): `cond` by instance, `tags` of its condition. -/
def batched (s : State) (tags : Nat) (words : Int) (cond : Nat → Bool) (dec : State → Act State) : Act (State × Word) := do
  let some j ← joinPoint s | fault s cLJOIN 1
  let x := s.ctx
  let t ← relTarget s words
  let here := ptrOff x.pc
  let forward := here < ptrOff t
  if !(if forward then ptrOff t ≤ ptrOff j else ptrOff j == here + 4) then fault s cLJOIN 5
  let (T, F) := splitActive x.lift cond
  if !T.isEmpty then checkTarget s t
  let mine := match x.lift.frames with
    | .loop b _ _ _ :: _ => !forward && b == x.pc
    | _ => false
  let push := !T.isEmpty && (if forward then !F.isEmpty else !mine)
  if push && x.lift.frames.length ≥ 16 then fault s cAXOVF 5
  let s ← dec s
  let setLift (f : Lift → Lift) (s : State) : State := s.modCtx fun x => { x with lift := f x.lift }
  if forward then
    if T.isEmpty then pure (s, pc4 s)
    else if F.isEmpty then pure (s, t)
    else pure (setLift (fun l => { l with frames := .fork j tags l.active T t :: l.frames, active := F }) s, pc4 s)
  else if mine then
    if T.isEmpty then
      pure (setLift (fun l => match l.frames with
        | .loop _ _ _ saved :: fs => { l with frames := fs, active := saved }
        | _ => l) s, j)
    else pure (setLift (fun l => { l with active := T }) s, t)
  else if T.isEmpty then pure (s, pc4 s)
  else pure (setLift (fun l => { l with frames := .loop x.pc j tags l.active :: l.frames, active := T }) s, t)

/-- A conditional branch (R115, R119, R373): ordinary when its operands are untagged, batched otherwise; only the batched form
ends the region (R381). A taken branch under `hjoin` checks its join point before its target (L83). -/
def branch (w a b o : Nat) (f : Word → Word → Bool) (s : State) : Host.Outcome State Fault Refusal :=
  let tags := s.ctx.tagUnion [a, b]
  execute { word := w, reads := [a, b], ends := tags != 0 }
    (fun s => do
      let x := s.ctx
      let off := extS x.hints 14 o
      if tags = 0 then
        let _ ← joinPoint s
        if f (x.sv a) (x.sv b) then takeBranch s off else pure (s, pc4 s)
      else batched s tags off (fun i => f (atInst (x.sreg a) i) (atInst (x.sreg b) i)) .ok) s

/-- `beq` (R115). -/
def execBeq (a b o : Nat) (s : State) := branch (wordBeq a b o) a b o (fun x y => x == y) s
/-- `bne` (R115). -/
def execBne (a b o : Nat) (s : State) := branch (wordBne a b o) a b o (fun x y => x != y) s
/-- `blt` (R115). -/
def execBlt (a b o : Nat) (s : State) := branch (wordBlt a b o) a b o (fun x y => x.slt y) s
/-- `bge` (R115). -/
def execBge (a b o : Nat) (s : State) := branch (wordBge a b o) a b o (fun x y => !x.slt y) s
/-- `bltn` (R115). -/
def execBltn (a b o : Nat) (s : State) := branch (wordBltn a b o) a b o (fun x y => x.ult y) s
/-- `bgen` (R115). -/
def execBgen (a b o : Nat) (s : State) := branch (wordBgen a b o) a b o (fun x y => !x.ult y) s

/-- `jmp` (R116). -/
def execJmp (o : Nat) (s : State) : Host.Outcome State Fault Refusal :=
  execute { word := wordJmp o } (fun s => takeBranch s (extS s.ctx.hints 26 o)) s

/-- `jal` (R116): s31 takes the address of the next word, untagged (R373). -/
def execJal (o : Nat) (s : State) : Host.Outcome State Fault Refusal :=
  execute { word := wordJal o, writes := [31] }
    (fun s => do
      let (s, t) ← takeBranch s (extS s.ctx.hints 26 o)
      let s ← writeS s 31 0 fun _ => pc4 s
      pure (s, t)) s

/-- The target of a register jump (R117): untagged, a pointer that passes R72 for a fetch, 4-aligned. -/
def jumpTarget (s : State) (a : Nat) : Act Word := do
  let t := s.ctx.sreg a
  if t.tags ≠ 0 then fault s cLJOIN 3
  checkTarget s t.val
  if ptrOff t.val % 4 ≠ 0 then faultAt s cALIGN 0 t.val
  pure t.val

/-- `jr` (R117). -/
def execJr (a : Nat) (s : State) : Host.Outcome State Fault Refusal :=
  execute { word := wordJr a, reads := [a] } (fun s => do pure (s, ← jumpTarget s a)) s

/-- `ret` (R117). -/
def execRet (s : State) : Host.Outcome State Fault Refusal :=
  execute { word := wordRet, reads := [31] } (fun s => do pure (s, ← jumpTarget s 31)) s

/-- `jalr` (R117): the target is read before the link is written. -/
def execJalr (d a : Nat) (s : State) : Host.Outcome State Fault Refusal :=
  execute { word := wordJalr d a, reads := [a], writes := [d] }
    (fun s => do
      let t ← jumpTarget s a
      let s ← writeS s d 0 fun _ => pc4 s
      pure (s, t)) s

/-- `loop` (R118, R378): the decrement and the region end are part of it. -/
def execLoop (a o : Nat) (s : State) : Host.Outcome State Fault Refusal :=
  execute { word := wordLoop a o, reads := [a], writes := [a], ends := true }
    (fun s => do
      let x := s.ctx
      let off := extS x.hints 14 o
      let r := x.sreg a
      let dec (i : Nat) : Word := atInst r i - 1
      if r.tags = 0 then
        let _ ← joinPoint s
        if dec 0 ≠ 0 then
          let (s, t) ← takeBranch s off
          let s ← writeS s a 0 dec
          pure (s, t)
        else
          let s ← writeS s a 0 dec
          pure (s, pc4 s)
      else batched s r.tags off (fun i => dec i != 0) (fun s => writeS s a r.tags dec)) s

/-! ## Joins of open frames (R379, R381) -/

/-- Path switches and pops at the join point of the topmost fork frame, as many as apply before the next word issues. -/
def atJoin : Nat → Ctx → Ctx
  | 0, x => x
  | fuel + 1, x =>
    match x.lift.frames with
    | .fork j tags saved pending t :: fs =>
      if j ≠ x.pc then x
      else if pending.isEmpty then
        atJoin fuel (({ x with lift := { x.lift with frames := fs, active := saved } }).endRegion [])
      else
        atJoin fuel (({ x with pc := t,
                               lift := { x.lift with frames := .fork j tags saved [] t :: fs, active := pending } }).endRegion [])
    | _ => x

end Sys2Proof.Machine
end

