-- ==== Sys2Proof/Machine/Flags.lean ====
section
/-!
DEFINITION. Floating-point formats, exact values, `round_once`, the status flags, and the arithmetic built on them (R80 to R100,
R139).
-/

namespace Sys2Proof.Machine

/-- A binary floating-point format: exponent and fraction widths (R80). -/
structure Fmt where
  eb : Nat
  mb : Nat
  deriving DecidableEq, Repr

/-- binary32. -/
def f32 : Fmt := ⟨8, 23⟩
/-- binary16. -/
def f16 : Fmt := ⟨5, 10⟩
/-- The top half of binary32. -/
def bf16 : Fmt := ⟨8, 7⟩
/-- binary64. -/
def f64 : Fmt := ⟨11, 52⟩

/-- Width of a format in bits. -/
def Fmt.width (f : Fmt) : Nat := 1 + f.eb + f.mb
/-- Exponent of the smallest normal value. -/
def Fmt.emin (f : Fmt) : Int := 2 - (2 ^ (f.eb - 1) : Nat)
/-- Exponent of the largest finite value. -/
def Fmt.emax (f : Fmt) : Nat := 2 ^ (f.eb - 1) - 1
/-- The sign bit. -/
def Fmt.signBit (f : Fmt) : Nat := 2 ^ (f.eb + f.mb)
/-- The pattern of +∞. -/
def Fmt.infBits (f : Fmt) : Nat := (2 ^ f.eb - 1) * 2 ^ f.mb
/-- The canonical quiet NaN (R82). -/
def Fmt.nan (f : Fmt) : Nat := f.infBits + 2 ^ (f.mb - 1)

/-- Status flags by bit, as in `sr.fst` (R92): NV. -/
def fNV : Nat := 16
/-- DZ. -/
def fDZ : Nat := 8
/-- OF. -/
def fOF : Nat := 4
/-- UF. -/
def fUF : Nat := 2
/-- NX. -/
def fNX : Nat := 1

/-- Rounding modes (R46): rne. -/
def rne : Nat := 0
/-- toward zero. -/
def rtz : Nat := 1
/-- toward −∞. -/
def rdn : Nat := 2
/-- toward +∞. -/
def rup : Nat := 3

/-- What a pattern stands for: a NaN (signalling or quiet), an infinity, or (−1)^neg · num · 2^k. -/
inductive FVal where
  | nan (snan : Bool)
  | inf (neg : Bool)
  | fin (neg : Bool) (num : Nat) (k : Int)
  deriving DecidableEq, Repr

/-- Read a pattern (R80, R81). -/
def Fmt.read (f : Fmt) (b : Nat) : FVal :=
  let neg := bitOf b (f.eb + f.mb)
  let e := b / 2 ^ f.mb % 2 ^ f.eb
  let m := b % 2 ^ f.mb
  if e = 2 ^ f.eb - 1 then (if m = 0 then .inf neg else .nan (m < 2 ^ (f.mb - 1)))
  else if e = 0 then .fin neg m (f.emin - f.mb)
  else .fin neg (2 ^ f.mb + m) (f.emin - f.mb + (e - 1 : Nat))

/-- A result: the pattern (or integer) delivered and the flags raised. -/
structure FR where
  bits : Nat
  flags : Nat
  deriving DecidableEq, Repr

/-- `n` with the sign bit of a format when negative. -/
def Fmt.sign (f : Fmt) (neg : Bool) (n : Nat) : Nat := if neg then f.signBit + n else n

/-- num / den as a multiple of 2^q, rounded (R94): the multiple and whether it is inexact. -/
def quantize (mode : Nat) (neg : Bool) (num den : Nat) (q : Int) : Nat × Bool :=
  let N := if q < 0 then num * 2 ^ (-q).toNat else num
  let D := if q < 0 then den else den * 2 ^ q.toNat
  let n := N / D
  let r := N % D
  let up := match mode with
    | 0 => decide (2 * r > D) || (2 * r == D && n % 2 == 1)
    | 1 => false
    | 2 => neg && decide (0 < r)
    | _ => !neg && decide (0 < r)
  (if up then n + 1 else n, r != 0)

/-- The exponent e with 2^e ≤ num / den < 2^(e+1). -/
def ratLog (num den : Nat) : Int :=
  let e : Int := (num.log2 : Int) - den.log2
  let lt := if e < 0 then decide (num * 2 ^ (-e).toNat < den) else decide (num < den * 2 ^ e.toNat)
  if lt then e - 1 else e

/-- `round_once` of ± num / den, num > 0 (R7, R94 to R96). -/
def roundRat (f : Fmt) (mode : Nat) (neg : Bool) (num den : Nat) : FR :=
  let e := ratLog num den
  let q : Int := max e f.emin - f.mb
  let (n, inexact) := quantize mode neg num den q
  if n ≥ 2 ^ ((f.emax : Int) + 1 - q).toNat ∧ q ≤ (f.emax : Int) + 1 ∨ q > (f.emax : Int) + 1 then
    let toInf := mode = rne ∨ (mode = rdn ∧ neg) ∨ (mode = rup ∧ !neg)
    ⟨f.sign neg (if toInf then f.infBits else f.infBits - 1), fOF + fNX⟩
  else
    let (nu, _) := quantize mode neg num den (e - f.mb)
    let tiny := e < f.emin ∧ nu < 2 ^ (f.emin - (e - f.mb)).toNat
    ⟨f.sign neg ((q - (f.emin - f.mb)).toNat * 2 ^ f.mb + n),
      if inexact then (if tiny then fUF + fNX else fNX) else 0⟩

/-- `round_once` of an exact rational z / den; `zneg` is the sign an exact zero takes. -/
def roundQ (f : Fmt) (mode : Nat) (z : Int) (den : Nat) (zneg : Bool) : FR :=
  if z = 0 then ⟨f.sign zneg 0, 0⟩ else roundRat f mode (z < 0) z.natAbs den

/-- A dyadic number z · 2^e. -/
structure Dy where
  z : Int
  e : Int
  deriving DecidableEq, Repr

/-- Exact sum. -/
def Dy.add (a b : Dy) : Dy :=
  if a.z = 0 then b else if b.z = 0 then a else
    let e := min a.e b.e
    ⟨a.z * (2 ^ (a.e - e).toNat : Nat) + b.z * (2 ^ (b.e - e).toNat : Nat), e⟩
/-- Exact product. -/
def Dy.mul (a b : Dy) : Dy := ⟨a.z * b.z, a.e + b.e⟩
/-- Negation. -/
def Dy.neg (a : Dy) : Dy := ⟨-a.z, a.e⟩
/-- Numerator and denominator. -/
def Dy.rat (a : Dy) : Int × Nat :=
  if a.e < 0 then (a.z, 2 ^ (-a.e).toNat) else (a.z * (2 ^ a.e.toNat : Nat), 1)
/-- An integer. -/
def Dy.ofInt (z : Int) : Dy := ⟨z, 0⟩
/-- `round_once` of a dyadic number. -/
def Dy.round (f : Fmt) (mode : Nat) (a : Dy) (zneg : Bool) : FR := roundQ f mode a.rat.1 a.rat.2 zneg

/-- The dyadic value of a finite value, 0 for the others. -/
def FVal.dy : FVal → Dy
  | .fin neg n k => ⟨if neg then -(n : Int) else n, k⟩
  | _ => ⟨0, 0⟩
/-- Sign of a value. -/
def FVal.neg : FVal → Bool
  | .fin neg _ _ => neg
  | .inf neg => neg
  | .nan _ => false
/-- Whether it is a NaN. -/
def FVal.isNan : FVal → Bool
  | .nan _ => true
  | _ => false
/-- Whether it is a signalling NaN. -/
def FVal.isSnan : FVal → Bool
  | .nan s => s
  | _ => false
/-- Whether it is infinite. -/
def FVal.isInf : FVal → Bool
  | .inf _ => true
  | _ => false
/-- Whether it is a zero. -/
def FVal.isZero : FVal → Bool
  | .fin _ n _ => n == 0
  | _ => false
/-- The opposite value. -/
def FVal.flip : FVal → FVal
  | .fin neg n k => .fin (!neg) n k
  | .inf neg => .inf (!neg)
  | v => v

/-- NV when some operand is a signalling NaN (R95). -/
def snanFlag (vs : List FVal) : Nat := if vs.any FVal.isSnan then fNV else 0

/-- An exact product of two values, NV for 0 × ∞ (R95); the flag of signalling operands is added by the caller. -/
def FVal.times (a b : FVal) : FVal × Nat :=
  if a.isNan || b.isNan then (.nan false, 0)
  else if a.isInf || b.isInf then
    (if a.isZero || b.isZero then (.nan false, fNV) else (.inf (a.neg != b.neg), 0))
  else
    match a, b with
    | .fin n1 x k1, .fin n2 y k2 => (.fin (n1 != n2) (x * y) (k1 + k2), 0)
    | _, _ => (.nan false, 0)

/-- The sign of an exact zero sum (R94). -/
def zeroSign (mode : Nat) (terms : List FVal) : Bool :=
  match terms with
  | [] => false
  | _ =>
    if terms.all fun t => t.isZero && t.neg then true
    else if terms.all fun t => t.isZero && !t.neg then false
    else mode == rdn

/-- Σexact of finite terms. -/
def dySum (terms : List FVal) : Dy := terms.foldl (fun acc t => acc.add t.dy) ⟨0, 0⟩

/-- Σexact of terms, scaled by num / den > 0, then one `round_once` (R94 to R98): NaN, infinities and zero signs included. -/
def sumRound (f : Fmt) (mode : Nat) (terms : List FVal) (num den : Nat) : FR :=
  if terms.any FVal.isNan then ⟨f.nan, snanFlag terms⟩
  else if terms.any fun t => t.isInf && t.neg then
    (if terms.any fun t => t.isInf && !t.neg then ⟨f.nan, fNV⟩ else ⟨f.sign true f.infBits, 0⟩)
  else if terms.any FVal.isInf then ⟨f.infBits, 0⟩
  else
    let r := (dySum terms).rat
    roundQ f mode (r.1 * num) (r.2 * den) (zeroSign mode terms)

/-- a + b (R135). -/
def fAdd (f : Fmt) (mode a b : Nat) : FR := sumRound f mode [f.read a, f.read b] 1 1
/-- a − b (R94: the sum of a and −b). -/
def fSub (f : Fmt) (mode a b : Nat) : FR := sumRound f mode [f.read a, (f.read b).flip] 1 1
/-- a × b + the further terms, rounded once into a format (R98). -/
def fMulAdd (f : Fmt) (mode : Nat) (a b : FVal) (more : List FVal) : FR :=
  let (p, fl) := a.times b
  let r := sumRound f mode (p :: more) 1 1
  ⟨r.bits, r.flags ||| fl ||| snanFlag [a, b]⟩
/-- a × b. -/
def fMul (f : Fmt) (mode a b : Nat) : FR := fMulAdd f mode (f.read a) (f.read b) []
/-- a × b + c (R98). -/
def fFma (f : Fmt) (mode a b c : Nat) : FR := fMulAdd f mode (f.read a) (f.read b) [f.read c]

/-- Quotient of two values, correctly rounded (R95, R139). -/
def divVal (f : Fmt) (mode : Nat) (a b : FVal) : FR :=
  let neg := a.neg != b.neg
  if a.isNan || b.isNan then ⟨f.nan, snanFlag [a, b]⟩
  else if (a.isInf && b.isInf) || (a.isZero && b.isZero) then ⟨f.nan, fNV⟩
  else if a.isInf then ⟨f.sign neg f.infBits, 0⟩
  else if b.isInf then ⟨f.sign neg 0, 0⟩
  else if b.isZero then ⟨f.sign neg f.infBits, fDZ⟩
  else if a.isZero then ⟨f.sign neg 0, 0⟩
  else
    let x := a.dy.rat
    let y := b.dy.rat
    roundRat f mode neg (x.1.natAbs * y.2) (x.2 * y.1.natAbs)
/-- a / b. -/
def fDiv (f : Fmt) (mode a b : Nat) : FR := divVal f mode (f.read a) (f.read b)
/-- 1 / a (R139). -/
def fRcp (f : Fmt) (mode a : Nat) : FR := divVal f mode (.fin false 1 0) (f.read a)

/-- Integer square root by `n` result bits. -/
def isqrtBits : Nat → Nat → Nat → Nat
  | 0, _, r => r
  | n + 1, x, r => let t := r + 2 ^ n; isqrtBits n x (if t * t ≤ x then t else r)
/-- The integer square root. -/
def isqrt (x : Nat) : Nat := isqrtBits (x.log2 / 2 + 1) x 0

/-- `round_once` of √(num / den), num > 0: the root to 2 × 128 bits with its inexactness kept as a half unit. -/
def sqrtRound (f : Fmt) (mode num den : Nat) : FR :=
  let y := num * 2 ^ (2 * 1400) / den
  let r := isqrt y
  if r * r * den = num * 2 ^ (2 * 1400) then roundRat f mode false r (2 ^ 1400)
  else roundRat f mode false (2 * r + 1) (2 ^ 1401)

/-- √a (R139). -/
def fSqrt (f : Fmt) (mode a : Nat) : FR :=
  match f.read a with
  | .nan s => ⟨f.nan, if s then fNV else 0⟩
  | .inf neg => if neg then ⟨f.nan, fNV⟩ else ⟨f.infBits, 0⟩
  | .fin neg n k =>
    if n = 0 then ⟨f.sign neg 0, 0⟩ else if neg then ⟨f.nan, fNV⟩ else
      let r := (Dy.mk n k).rat
      sqrtRound f mode r.1.natAbs r.2
/-- 1 / √a (R139). -/
def fRsqrt (f : Fmt) (mode a : Nat) : FR :=
  match f.read a with
  | .nan s => ⟨f.nan, if s then fNV else 0⟩
  | .inf neg => if neg then ⟨f.nan, fNV⟩ else ⟨0, 0⟩
  | .fin neg n k =>
    if n = 0 then ⟨f.sign neg f.infBits, fDZ⟩ else if neg then ⟨f.nan, fNV⟩ else
      let r := (Dy.mk n k).rat
      sqrtRound f mode r.2 r.1.natAbs

/-! ## The transcendental functions (R139)
Each is evaluated in fixed point with 512 fraction bits; the truncation error, below 2^−450 of the value, lies far inside the
distance of any such value from a rounding boundary (L15). -/

/-- Fraction bits of the evaluations. -/
def fixBits : Nat := 512

/-- Σ r^i / i! in fixed point. -/
def expSeries : Nat → Nat → Nat → Nat → Nat
  | 0, _, _, _ => 0
  | n + 1, i, r, t => t + expSeries n (i + 1) r (t * r / 2 ^ fixBits / (i + 1))
/-- Square `n` times in fixed point. -/
def squares : Nat → Nat → Nat
  | 0, v => v
  | n + 1, v => squares n (v * v / 2 ^ fixBits)
/-- e^(num/den) in fixed point, for num/den from 0 to 1024. -/
def expFix (num den : Nat) : Nat := squares 11 (expSeries 80 0 (num * 2 ^ fixBits / (den * 2048)) (2 ^ fixBits))
/-- Σ z^(2i+1) / (2i+1) in fixed point, with z² given. -/
def atanhSeries : Nat → Nat → Nat → Nat → Nat
  | 0, _, _, _ => 0
  | n + 1, i, t, z2 => t / (2 * i + 1) + atanhSeries n (i + 1) (t * z2 / 2 ^ fixBits) z2
/-- ln(num/den) in fixed point for num/den from 1 to 2. -/
def lnFix (num den : Nat) : Nat :=
  let z := (num - den) * 2 ^ fixBits / (num + den)
  2 * atanhSeries 200 0 z (z * z / 2 ^ fixBits)

/-- Deliver a positive irrational value known in fixed point. -/
def roundFix (f : Fmt) (mode : Nat) (neg : Bool) (v den : Nat) : FR := roundRat f mode neg (2 * v + 1) (2 * den)

/-- |x| as a fraction, at most 1024. -/
def capped (d : Dy) : Nat × Nat :=
  let r := d.rat
  if r.1.natAbs > 1024 * r.2 then (1024, 1) else (r.1.natAbs, r.2)

/-- e^a. -/
def fExp (f : Fmt) (mode a : Nat) : FR :=
  let v := f.read a
  match v with
  | .nan s => ⟨f.nan, if s then fNV else 0⟩
  | .inf neg => ⟨if neg then 0 else f.infBits, 0⟩
  | .fin neg n _ =>
    if n = 0 then roundRat f mode false 1 1 else
      let (p, q) := capped v.dy
      let E := expFix p q
      if neg then roundFix f mode false (2 ^ (3 * fixBits) / E * 2 ^ fixBits) (2 ^ (3 * fixBits))
      else roundFix f mode false E (2 ^ fixBits)

/-- ln a. -/
def fLog (f : Fmt) (mode a : Nat) : FR :=
  let v := f.read a
  match v with
  | .nan s => ⟨f.nan, if s then fNV else 0⟩
  | .inf neg => if neg then ⟨f.nan, fNV⟩ else ⟨f.infBits, 0⟩
  | .fin neg n k =>
    if n = 0 then ⟨f.sign true f.infBits, fDZ⟩ else if neg then ⟨f.nan, fNV⟩ else
      let e : Int := (n.log2 : Int) + k
      if e = 0 ∧ n = 2 ^ n.log2 then ⟨0, 0⟩ else
        let z : Int := e * (lnFix 2 1 : Nat) + (lnFix n (2 ^ n.log2) : Nat)
        if z < 0 then roundRat f mode true (2 * z.natAbs - 1) (2 ^ (fixBits + 1))
        else roundFix f mode false z.natAbs (2 ^ fixBits)

/-- tanh a. -/
def fTanh (f : Fmt) (mode a : Nat) : FR :=
  let v := f.read a
  match v with
  | .nan s => ⟨f.nan, if s then fNV else 0⟩
  | .inf neg => roundRat f mode neg 1 1
  | .fin neg n _ =>
    if n = 0 then ⟨f.sign neg 0, 0⟩ else
      let (p, q) := capped v.dy
      if p * 2 ^ 30 < q then roundRat f mode neg (3 * p * q * q - p * p * p) (3 * q * q * q) else
        let E := expFix (2 * p) q
        let E := if 512 * q < p then expFix 1000 1 else E
        roundFix f mode neg ((E - 2 ^ fixBits) * 2 ^ (3 * fixBits) / (E + 2 ^ fixBits)) (2 ^ (3 * fixBits))

/-- 1 / (1 + e^−a). -/
def fSgm (f : Fmt) (mode a : Nat) : FR :=
  let v := f.read a
  match v with
  | .nan s => ⟨f.nan, if s then fNV else 0⟩
  | .inf neg => if neg then ⟨0, 0⟩ else roundRat f mode false 1 1
  | .fin neg n _ =>
    if n = 0 then roundRat f mode false 1 2 else
      let (p, q) := capped v.dy
      let E := expFix p q
      let num := if neg then 2 ^ fixBits else E
      roundFix f mode false (num * 2 ^ (4 * fixBits) / (E + 2 ^ fixBits)) (2 ^ (4 * fixBits))

/-! ## Minimum, maximum, comparison (R83, R136) -/

/-- a < b by value, −0 = +0; both finite or infinite. -/
def FVal.lt (a b : FVal) : Bool :=
  match a, b with
  | .nan _, _ => false
  | _, .nan _ => false
  | .inf n, .inf m => n && !m
  | .inf n, _ => n
  | _, .inf m => !m
  | _, _ => let d := (a.dy.add b.dy.neg); decide (d.z < 0)
/-- a = b by value, −0 = +0. -/
def FVal.eqv (a b : FVal) : Bool := !a.isNan && !b.isNan && !a.lt b && !b.lt a

/-- Minimum or maximum (R83): −0 is less than +0. -/
def fMinMax (f : Fmt) (isMax : Bool) (a b : Nat) : FR :=
  let x := f.read a
  let y := f.read b
  let fl := snanFlag [x, y]
  if x.isNan && y.isNan then ⟨f.nan, fl⟩
  else if x.isNan then ⟨b, fl⟩
  else if y.isNan then ⟨a, fl⟩
  else
    let less := x.lt y || (x.eqv y && x.neg && !y.neg)
    ⟨if less != isMax then a else b, fl⟩

/-! ## Conversions to integers, bx and l4 (R89, R96, R140) -/

/-- A value rounded to an integer. -/
def toIntRound (mode : Nat) (z : Int) (den : Nat) : Int × Bool :=
  let (n, ix) := quantize mode (z < 0) z.natAbs den 0
  (if z < 0 then -(n : Int) else n, ix)

/-- A float into an integer range (R96): the integer and the flags. -/
def floatToInt (mode : Nat) (lo hi : Int) (v : FVal) : Int × Nat :=
  match v with
  | .nan _ => (0, fNV)
  | .inf neg => (if neg then lo else hi, fNV)
  | .fin _ _ _ =>
    let r := v.dy.rat
    let (z, ix) := toIntRound mode r.1 r.2
    if z < lo then (lo, fOF + fNX) else if z > hi then (hi, fOF + fNX) else (z, if ix then fNX else 0)

/-- The largest bx mantissa (R88). -/
def bxMax : Int := 2147483647

/-- Conversion into bx with exponent E (R89). -/
def convertBx (mode : Nat) (E : Int) (v : FVal) : Int × Nat :=
  match v with
  | .nan _ => (0, fNV)
  | .inf neg => (if neg then -bxMax else bxMax, fNV)
  | .fin _ _ _ =>
    let r := (Dy.mk v.dy.z (v.dy.e - E)).rat
    let (z, ix) := toIntRound mode r.1 r.2
    if z > bxMax then (bxMax, fOF + fNX) else if z < -bxMax then (-bxMax, fOF + fNX)
    else (z, if ix then fNX else 0)

/-- An integer by value into an integer range (R96): saturation sets OF only. -/
def intToInt (lo hi z : Int) : Int × Nat := if z < lo then (lo, fOF) else if z > hi then (hi, fOF) else (z, 0)

/-- The magnitude of an l4 exponent field (R86). -/
def l4Mag (e : Nat) : Nat := if e = 0 then 0 else 2 ^ (e - 1)

/-- The value of an l4 code (R86). -/
def l4Value (c : Nat) : Int := if bitOf c 3 then -(l4Mag (c % 8) : Int) else l4Mag (c % 8)

/-- The largest exponent field whose magnitude is at most num / den. -/
def l4Floor (num den : Nat) : Nat :=
  ((List.range 8).filter fun e => l4Mag e * den ≤ num).foldl max 0

/-- A rational into l4 (R140): the code and the flags. A zero takes the code 0000 (L21). -/
def toL4 (mode : Nat) (neg : Bool) (num den : Nat) : Nat × Nat :=
  let sgn (e : Nat) : Nat := if neg && e != 0 then 8 + e else e
  if num > 64 * den then (sgn 7, fOF + fNX)
  else
    let e := l4Floor num den
    if l4Mag e * den = num then (sgn e, 0)
    else
      let lo := l4Mag e * den
      let hi := l4Mag (e + 1) * den
      let up := match mode with
        | 0 => decide (hi - num < num - lo) || (hi - num == num - lo && (e + 1) % 2 == 0)
        | 1 => false
        | 2 => neg
        | _ => !neg
      (sgn (if up then e + 1 else e), fNX)

end Sys2Proof.Machine
end

