-- ==== Sys2Proof/Machine/Operands.lean ====
section
/-!
DEFINITION. The operands of vector instructions: registers with parity and zero flags, links, handles, MSG, ZERO, LIDX,
predicates (R43 to R45, R121 to R131, R178 to R180, R356, R370 to R373), and the frame in which every vector instruction executes.
-/

namespace Sys2Proof.Machine

/-! ## Parity and zero flags (R123, R124) -/

/-- Zero lanes among the 32 lanes of a vector. -/
def zeroLanes (v : Vec) : Nat := (unpack 32 32 v.toNat).foldl (fun n x => if x = 0 then n + 1 else n) 0

/-- Zero lanes among the active instances of a vector register (R124, R367). -/
def zeroWords (x : Ctx) (r : Nat) : Nat :=
  (activeOf x.lift (x.vreg r).tags).foldl (fun n i => n + zeroLanes (atInst (x.vreg r) i)) 0

/-- Whether a bad word is repaired: the register has a duplicate at the instance, of good parity at the lane (R123). -/
def Ctx.repairs (x : Ctx) (b : BadWord) : Bool := x.dups.any fun d => d.reg == b.reg && d.inst == b.inst && !d.lanes.contains b.lane

/-- A read of vector registers at one instance: its words of bad parity are repaired from a duplicate, recovered by tink-back, or
RFPAR (R123). -/
def parityAt (i : Nat) (regs : List Nat) : List BadWord → State → Act State
  | [], s => .ok s
  | b :: bs, s =>
    let x := s.ctx
    if regs.contains b.reg && proj (x.vreg b.reg).tags i == b.inst then
      if x.repairs b then
        parityAt i regs bs ((s.modCore s.cur fun k => { k with rpr := k.rpr + 1 }).modCtx fun x =>
          { x with bad := x.bad.filter fun c => c != b })
      else
        let s := s.modCore s.cur fun k => { k with rnr := k.rnr + 1 }
        if x.region.wmask.getLsbD (vCode b.reg) then .error (.tink s) else fault s cRFPAR b.lane (wd b.reg)
    else parityAt i regs bs s

/-- The parity of vector registers at one instance. -/
def parity (i : Nat) (regs : List Nat) (s : State) : Act State := parityAt i regs s.ctx.bad s

/-- The parity of vector registers over a tag set, instance by instance (R371). -/
def parityOver (s : State) (S : Nat) (regs : List Nat) : Act State := do
  let (s, _) ← widen s S fun s i => do
    let s ← parity i regs s
    pure (s, ())
  pure s

/-- Count the zero lanes of the vector registers an instruction has read, once nothing can stop it but the pool (R124, L42). -/
def State.countReads (s : State) (regs : List Nat) : State :=
  s.modCore s.cur fun k => { k with zrd := k.zrd + regs.foldl (fun n r => n + zeroWords s.ctx r) 0 }

/-- Read vector registers over a tag set, with nothing to follow that could stop the instruction but the pool. -/
def readRegs (s : State) (S : Nat) (regs : List Nat) : Act State := do
  let s ← parityOver s S regs
  pure (s.countReads regs)

/-- The instances of a register that a write under open frames leaves as they were (R370). -/
def Ctx.unwritten (x : Ctx) (r : Nat) : List Nat :=
  if x.lift.frames.isEmpty then [] else
    let T := (x.vreg r).tags
    let act := activeOf x.lift T
    (instances x.lift T).filter fun i => !act.contains i

/-- A context after a write of a vector register that had a tag set before: the instances written have good parity and no duplicate; an
instance left as it was keeps its words as they are, copied where it had none of its own (R122, R123, L59). -/
def Ctx.rewritten (tags : Nat) (x : Ctx) (r : Nat) : Ctx :=
  let kept := x.unwritten r
  { x with
    bad := (x.bad.map fun b =>
      if b.reg = r then (kept.filter fun i => proj tags i == b.inst).map fun i => { b with inst := i } else [b]).flatten
    dups := x.dups.filter fun d => d.reg != r || kept.contains d.inst }

/-- Writing a vector register that had a tag set before ends its bad words and duplicates, and counts its zero lanes (R122, R124). -/
def wroteReg (s : State) (tags r : Nat) : State :=
  let s := s.modCore s.cur fun k => { k with zwr := k.zwr + zeroWords s.ctx r }
  if s.ctx.bad.isEmpty && s.ctx.dups.isEmpty then s else s.modCtx fun x => x.rewritten tags r

/-! ## The own scratchpad (R183, R356) -/

/-- Matrix commands of the executing context that are accepted and not finished. -/
def State.myCommands (s : State) : List MEntry :=
  let m := tget (s.octet (octetOf s.cur)).members {} (memberOf s.cur)
  (m.queue ++ m.backlog).filter fun e => e.own.act == s.ctx.id.act

/-- Repetitions of matrix commands of the executing context that have not issued (R355). -/
def State.myBacklog (s : State) : Bool :=
  (tget (s.octet (octetOf s.cur)).members {} (memberOf s.cur)).backlog.any fun e => e.own.act == s.ctx.id.act

/-- Whether a command still has to read its source, or still has to write scratchpad (R356). -/
def MCmd.reads : MCmd → Bool
  | .ldb .. => true
  | .wsldb .. => true
  | _ => false
/-- Whether a command still has to write scratchpad. -/
def MCmd.writes : MCmd → Bool
  | .mst .. => true
  | _ => false

/-- An instruction that reads or writes the own scratchpad waits for matrix commands of its context (R356). -/
def spadWait (s : State) (write : Bool) : Act Unit :=
  waitFor (!(s.myCommands.any fun e => e.cmd.writes || (write && e.cmd.reads)))

/-- Bytes of the own scratchpad. -/
def State.spadRead (s : State) (c a n : Nat) : List Byte := mread (s.core c).spad a n
/-- Write bytes of a core's scratchpad. -/
def State.spadWrite (s : State) (c a : Nat) (bs : List Byte) : State :=
  s.modCore c fun k => { k with spad := mwrite k.spad a bs }

/-! ## Handles (R34, R130, R178 to R180) -/

/-- Handle h of a context. -/
def Ctx.handle (x : Ctx) (h : Nat) : Handle := tget x.handles {} h
/-- Bytes of a slot. -/
def Handle.size (h : Handle) : Nat := 8 * 2 ^ h.z
/-- What the region record keeps of a handle; a handle not used in the region stands as it stood at entry. -/
def Ctx.mark (x : Ctx) (h : Nat) : HandleMark := tget x.region.handles { entry := x.handle h } h
/-- Free slots (R180): neither filled nor consumed in the open region. -/
def Ctx.freeSlots (x : Ctx) (h : Nat) : Nat := (x.handle h).slots - (x.handle h).filled - (x.mark h).consumed

/-- The checks of a handle operand (R130, R178). -/
def handleCheck (s : State) (code : Nat) : Act Unit :=
  let h := s.ctx.handle (code - 52)
  if h.slots = 0 then fault s cBOUNDS 3 (wd code)
  else if h.size < 128 then fault s cBOUNDS 3 (wd h.size)
  else .ok ()

/-- The take count of a handle operand named in a field: that of an `htake` on the field, else the handle's (R34, R51). -/
def takeOf (x : Ctx) (code field : Nat) : Nat :=
  match x.hints.take with
  | some (f, n) => if f = field then n else (x.handle (code - 52)).take
  | none => (x.handle (code - 52)).take

/-- The scratchpad address of the oldest filled slot. -/
def Handle.readAt (h : Handle) : Nat := h.base + h.ridx * h.size
/-- The scratchpad address of the oldest free slot. -/
def Handle.writeAt (h : Handle) : Nat := h.base + h.widx * h.size

/-- The checks of a handle source or destination, then its wait. -/
def handleWait (s : State) (code field : Nat) (write : Bool) : Act Unit := do
  spadWait s write
  let x := s.ctx
  waitFor (takeOf x code field ≤ (if write then x.freeSlots (code - 52) else (x.handle (code - 52)).filled))

/-! ## Sources and destinations -/

/-- Operand codes of links, and of handles (R43). -/
def isPort (c : Nat) : Bool := 48 ≤ c && c < 52
/-- Handles. -/
def isHandle (c : Nat) : Bool := 52 ≤ c && c < 60

/-- The lift index vector at an instance (R372). -/
def lidxVec (l : Lift) (i : Nat) : Vec :=
  ofLanes ((List.range l.levels.length).map fun ax => i / 2 ^ (10 * ax) % 1024)

/-- A source operand: its tag set and its value by instance. -/
abbrev Source := Nat × (Nat → Vec)

/-- What a source operand supplies once its waits are met (R43, R130, R372). -/
def sourceOf (s : State) (c : Nat) : Source :=
  let x := s.ctx
  if c < 48 then ((x.vreg c).tags, fun i => atInst (x.vreg c) i)
  else if isPort c then
    match tget (s.core s.cur).fifos [] c with
    | v :: _ => (0, fun _ => v)
    | [] => (0, fun _ => 0)
  else if isHandle c then
    let v := vecOf (s.spadRead s.cur (x.handle (c - 52)).readAt 128)
    (0, fun _ => v)
  else if c = 60 then (0, fun _ => x.id.msg.vec.getD 0)
  else if c = 62 then (allAxesOf x.lift, fun i => lidxVec x.lift i)
  else (0, fun _ => 0)
where
  /-- Every pushed axis. -/
  allAxesOf (l : Lift) : Nat := 2 ^ l.levels.length - 1

/-- The union of the tag sets of sources (R370). -/
def sourceTags (srcs : List Source) : Nat := srcs.foldl (fun t p => t ||| p.1) 0

/-- A link named by an operand: NOPORT at the edge of the die, else the neighbour (R13, R44). -/
def portCheck (s : State) (c : Nat) : Act Nat :=
  match neighbour s.cur c with
  | some n => .ok n
  | none => fault s cNOPORT 0

/-- Checks and waits of source operands: (field, code) each. All checks stand before all waits (R44). -/
def sourceChecks (s : State) : List (Nat × Nat) → Act Unit
  | [] => .ok ()
  | (_, c) :: rest => do
    if isPort c then let _ ← portCheck s c
    if isHandle c then handleCheck s c
    sourceChecks s rest
/-- The waits (R33, R34). -/
def sourceWaits (s : State) : List (Nat × Nat) → Act Unit
  | [] => .ok ()
  | (f, c) :: rest => do
    if isPort c then waitFor (!(tget (s.core s.cur).fifos [] c).isEmpty)
    if isHandle c then handleWait s c f false
    sourceWaits s rest

/-- Pop each named link once (R44, R128). -/
def popPorts (s : State) (codes : List Nat) : State :=
  s.modCore s.cur fun k =>
    { k with fifos := ((codes.filter isPort).eraseDups).foldl (fun f c => tput f c ((tget f [] c).drop 1)) k.fifos }

/-- Push an entry to the neighbour behind a port (R128). -/
def pushPort (s : State) (c : Nat) (v : Vec) : State :=
  match neighbour s.cur c with
  | some n => s.modCore n fun k => { k with fifos := tmod k.fifos [] (opposite c) fun q => q ++ [v] }
  | none => s

/-- The tag set of an operand as `sr.fault1` of LWRITE gives it: LIDX, code 62 of the vector file, has every pushed axis. -/
def Ctx.operandTags (x : Ctx) (code : Nat) : Nat := if code = vCode 62 then 2 ^ x.lift.levels.length - 1 else x.tagsOf code

/-- Destination checks of a vector operand (R43, R44, R130, R373): a tagged result with the operands in order. -/
def destCheck (s : State) (c S : Nat) (operands : List Nat) : Act Unit := do
  if isPort c then let _ ← portCheck s c
  if isHandle c then handleCheck s c
  if (isPort c || isHandle c) && S != 0 then
    match operands.find? fun r => s.ctx.operandTags r != 0 with
    | some r => fault s cLWRITE 3 (wd (r + s.ctx.operandTags r * 256))
    | none => fault s cLWRITE 3
/-- The waits of a destination. -/
def destWait (s : State) (c : Nat) : Act Unit := do
  match neighbour s.cur c with
  | some n => if isPort c then waitFor ((tget (s.core n).fifos [] (opposite c)).length < 4)
  | none => pure ()
  if isHandle c then handleWait s c 0 true

/-- Deliver a vector result to a destination operand: a register takes it by instance, the others once (R43, R370). -/
def deliver (s : State) (c S : Nat) (res : Nat → Vec) : State :=
  if c < 48 then wroteReg (s.modCtx fun x => x.putV c (writeTagged x.lift (x.vreg c) S res)) (s.ctx.vreg c).tags c
  else if isPort c then pushPort s c (res 0)
  else if isHandle c then s.spadWrite s.cur (s.ctx.handle (c - 52)).writeAt (vecBytes (res 0))
  else s

/-! ## The frame of vector instructions -/

/-- Where a vector instruction puts its result. -/
inductive VDest where
  | vec (c : Nat)
  | pair (c c2 : Nat)
  | pred (n : Nat)
  | scal (n : Nat)
  deriving DecidableEq, Repr

/-- What a vector instruction uses: source operands as (field, code), scalar and predicate registers read, its destination. -/
structure VUse where
  srcs : List (Nat × Nat)
  sreg : Option Nat := none
  pr : Nat := 0
  dst : VDest
  deriving DecidableEq, Repr

/-- What one instance of a vector instruction delivers: vectors, predicate or scalar, the flags raised, and whether a zero-point
byte was not allowed (R91). -/
structure VRes where
  v : Vec := 0
  v2 : Vec := 0
  p : Lane := 0
  x : Word := 0
  flags : Nat := 0
  layout : Bool := false
  deriving DecidableEq, Repr

/-- The operand code a destination names, for the checks of ports and handles. -/
def VDest.code : VDest → Nat
  | .vec c => c
  | .pair c _ => c
  | _ => 61
/-- The tracked registers a destination names. -/
def VDest.regs : VDest → List Nat
  | .vec c => if c < 48 then [vCode c] else []
  | .pair c c2 => [vCode c, vCode c2]
  | .pred n => [pCode n]
  | .scal n => [sCode n]

/-- Vector registers among operand codes. -/
def vregsOf (srcs : List (Nat × Nat)) : List Nat := (srcs.map fun p => p.2).filter fun c => decide (c < 48)

/-- The tracked registers a vector instruction reads. -/
def VUse.reads (u : VUse) : List Nat :=
  (vregsOf u.srcs).map vCode ++ (match u.sreg with
    | some n => [sCode n]
    | none => []) ++ [pCode u.pr]

/-- The operands of a vector instruction that may be tagged, in order: vector sources and LIDX, the scalar, the predicate (R391). -/
def VUse.operands (u : VUse) : List Nat :=
  ((u.srcs.map fun p => p.2).filter fun c => decide (c < 48) || c == 62).map vCode ++ (match u.sreg with
    | some n => [sCode n]
    | none => []) ++ [pCode u.pr]

/-- Whether a vector instruction pops or pushes a link and so ends the region (R129). -/
def VUse.ends (u : VUse) : Bool := isPort u.dst.code || u.srcs.any fun p => isPort p.2

/-- An operand-code field as a repetition reissues it (R131). -/
def stepField (x : Ctx) (w f c : Nat) : Int :=
  match x.rep with
  | some r => if operandField w f && c < 48 then c + r.step * r.j else c
  | none => c

/-- The first field that a repetition steps beyond v0 to v47. Where several do, the spec does not say which one the record names; the
model takes them in the order d, a, b (L60). -/
def badField (x : Ctx) (w : Nat) (fs : List (Nat × Nat)) : Option Int :=
  ((fs.filter fun p => decide (p.2 < 48)).map fun p => stepField x w p.1 p.2).find? fun v => v < 0 || v > 47

/-- Write a destination of a vector instruction from the results by instance of `S` (R370), the pool supplying what it needs. -/
def vwrite (s : State) (dst : VDest) (S : Nat) (res : Nat → VRes) : Act State :=
  match dst with
  | .vec c => poolCheck s (deliver s c S fun i => (res i).v)
  | .pair c c2 => poolCheck s (deliver (deliver s c S fun i => (res i).v) c2 S fun i => (res i).v2)
  | .pred n => poolCheck s (s.modCtx fun x => x.putP n (writeTagged x.lift (x.preg n) S fun i => (res i).p))
  | .scal n => writeS s n S fun i => (res i).x

/-- The body of a vector instruction: checks and waits; by active instance the parity of what it reads and one computation; writes,
pops (R44, R129, R370, R371). -/
def vbody (u : VUse) (f : Word → List Vec → Lane → Word → VRes) (s : State) : Act State := do
  let x := s.ctx
  let lidx := u.srcs.any fun p => p.2 == 62
  let S := x.tagUnion u.reads ||| (if lidx then 2 ^ x.lift.levels.length - 1 else 0)
  sourceChecks s u.srcs
  destCheck s u.dst.code S u.operands
  sourceWaits s u.srcs
  destWait s u.dst.code
  let srcs := u.srcs.map fun p => sourceOf s p.2
  let pr := x.preg u.pr
  let sc := match u.sreg with
    | some n => x.sreg n
    | none => plain 0
  let (s, rs) ← widen s S fun s i => do
    let s ← parity i (vregsOf u.srcs) s
    let r := f x.sp.fst (srcs.map fun v => v.2 i) (atInst pr i) (atInst sc i)
    if r.layout then fault s cLAYOUT 0
    pure (s, r)
  let s := s.countReads (vregsOf u.srcs)
  let s ← vwrite s u.dst S fun i => tget rs {} i
  let s := popPorts s (u.srcs.map fun p => p.2)
  let fl := rs.foldl (fun acc p => acc ||| p.2.flags) 0
  pure (s.modCtx fun x => { x with sp := { x.sp with fst := x.sp.fst ||| wd fl } })

/-- A vector instruction: `mk` gives what it uses from its fields d, a, b after stepping (R131), `ill` whether stepped fields d and a
make a combination that its class does not list (R59, R142). -/
def vexec (w d a b : Nat) (mk : Nat → Nat → Nat → VUse) (f : Word → List Vec → Lane → Word → VRes) (s : State)
    (ill : Nat → Nat → Bool := fun _ _ => false) : Host.Outcome State Fault Refusal :=
  let x := s.ctx
  let fs := [(0, d), (1, a), (2, b)]
  match badField x w fs with
  | some v => onward { word := w } (fun s =>
      trap s { code := cBOUNDS, detail := 2, f1 := BitVec.ofInt 64 v, rep := x.rep.map fun r => r.j }) s
  | none =>
    let st (f c : Nat) : Nat := (stepField x w f c).toNat
    let u := mk (st 0 d) (st 1 a) (st 2 b)
    onward { word := w, reads := u.reads, writes := u.dst.regs, ends := u.ends, ill := ill (st 0 d) (st 1 a) } (fun s => do
      waitFor !s.myBacklog
      vbody u f s) s

end Sys2Proof.Machine
end

