-- ==== Sys2Proof/Machine/Memory.lean ====
section
/-!
DEFINITION. Majors 0x16 to 0x1B: scalar and vector loads and stores, gathers and scatters, split-phase requests and remote puts
(R192 to R197, R201 to R203), with the shared steps of issuing reads and writes.
-/

namespace Sys2Proof.Machine

/-! ## Issuing writes -/

/-- A new entry of the ledger of writes (R219); the entries of one store share a number. -/
def State.addWrite (s : State) (own : Owner) (home : Nat) (lines : List Nat) (part : Nat := 0) : Nat × State :=
  let (w, s) := s.fresh
  (w, { s with writes := tput s.writes w { own := own, home := home, lines := lines, part := part } })

/-- Note that a context wrote a 64 KiB page (R223): more than 16 become all pages. -/
def Ctx.notePage (x : Ctx) (page : Nat) : Ctx :=
  { x with pages := match x.pages with
    | some ps => let qs := addOnce ps page; if qs.length ≤ 16 then some qs else none
    | none => none }

/-- The 64-byte granules of a physical range with the bytes for each: (physical address, bytes). -/
def granules {α : Type} : Nat → Nat → List α → List (Nat × List α)
  | 0, _, _ => []
  | fuel + 1, pa, bs =>
    if bs.isEmpty then [] else
      let k := 64 - pa % 64
      (pa, bs.take k) :: granules fuel (pa + k) (bs.drop k)

/-- A far-read cache without a line. -/
def Die.dropLine (d : Die) (line : Nat) : Die := { d with far := tdel d.far line }

/-- Post one granule write of the executing core (R195, R196): a ledger entry, the page noted, the line dropped from the own die's
far-read cache when it is homed elsewhere, and the request. -/
def postGranule (own : Owner) (part : Nat) (s : State) (pa : Nat) (bs : List (Option Byte)) : State :=
  if bs.all Option.isNone then s else
  let home := homeDie pa
  let (w, s) := s.addWrite own (memNode home) [granuleOf pa] part
  let s := s.modCtxAt own.core own.ctx fun x => x.notePage (pa / 65536)
  let s := if home = dieOf own.core then s else s.modDie (dieOf own.core) fun d => d.dropLine (granuleOf pa)
  s.post ⟨0, own.core, memNode home, .write pa bs w⟩

/-- The same owner with the address it names moved on by n bytes (R257). -/
def Owner.onward (o : Owner) (n : Nat) : Owner := { o with addr := ptrAt o.addr (ptrOff o.addr + n) }

/-- Post bytes to the translated pieces of a range, in order. -/
def postPieces (part : Nat) (own : Owner) : List (Nat × Nat × Bool) → List (Option Byte) → State → State
  | [], _, s => s
  | (pa, n, _) :: rest, bs, s =>
    postPieces part (own.onward n) rest (bs.drop n)
      ((granules (n / 64 + 2) pa (bs.take n)).foldl (fun s g => postGranule (own.onward (g.1 - pa)) part s g.1 g.2) s)

/-- Post the bytes of one store to the translated pieces of its range: one write, whatever its granules (R219). -/
def postStore (own : Owner) (ps : List (Nat × Nat × Bool)) (bs : List (Option Byte)) (s : State) : State :=
  postPieces s.serial own ps bs s

/-- Writes of an owner's context that are not yet acknowledged, with a home that satisfies a test (R219): those of earlier activations
in it, and those its activation made elsewhere. -/
def State.unacked (s : State) (o : Owner) (home : Nat → Bool) : Bool :=
  s.writes.any fun w => (w.2.own.act == o.act || (w.2.own.core == o.core && w.2.own.ctx == o.ctx)) && home w.2.home

/-- The acknowledgements of the context's earlier writes, for an instruction whose checks have passed and which no pre-emption cuts
short (R227, R265). -/
def ackHold (s : State) : Act Unit :=
  if s.unacked (s.owner 0) fun _ => true then .error (.hold (s.modCtx fun x => { x with rel := some ⟨false, 0⟩ })) else .ok ()

/-- What an instruction in progress holds (R195, R233, R369). -/
def State.holding (s : State) : Held := s.ctx.held.getD ⟨0, 0, [], true, 0, 0, false, [], none⟩

/-- Keep what the instruction in progress holds. -/
def State.keepHeld (s : State) (h : Held) : State := s.modCtx fun x => { x with held := some h }

/-- Begin the instances that have passed their checks, in order, each once there is room for it. Until the first can begin the
instruction waits at issue; after that it holds with those it has left, which no check concerns any more (R195, R207, R371, R373). -/
def inTurn (room : State → Planned → Bool) (act : State → Planned → State) (begun : Bool) : List Planned → State → Act State
  | [], s => .ok s
  | p :: ps, s =>
    if room s p then inTurn room act true ps (act s p)
    else if begun then .error (.hold (s.keepHeld { s.holding with atomic := true, plan := p :: ps }))
    else .error (.wait .other)

/-- An instruction that checks every instance before the first begins (R371): one that has begun goes on, else the checks give its
plan. -/
def planned (room : State → Planned → Bool) (act : State → Planned → State) (check : State → Act (State × List Planned)) (s : State) :
    Act State :=
  match s.holding.plan with
  | p :: ps => inTurn room act true (p :: ps) s
  | [] => do
    let (s, ps) ← check s
    inTurn room act false ps s

/-- A write of a granule as a memory node performs it (R198): into a poisoned granule only when it covers all of it. -/
def State.nodeWrite (s : State) (pa : Nat) (bs : List (Option Byte)) : State :=
  let whole := bs.length == 64 && bs.all Option.isSome
  if s.poison.contains (granuleOf pa) && !whole then
    s.modDie (homeDie pa) fun d => { d with tele := { d.tele with discardedStores := d.tele.discardedStores + 1 } }
  else
    { s with
      hbm := (bs.foldl (fun (p : Memory × Nat) b => (match b with
        | some v => mset p.1 p.2 v
        | none => p.1, p.2 + 1)) (s.hbm, cellOf pa)).1
      poison := s.poison.filter fun g => g != granuleOf pa }

/-! ## Issuing reads -/

/-- The pieces of a translated range by 64-byte granule: (physical address, length, NC). -/
def readPieces (ps : List (Nat × Nat × Bool)) : List (Nat × Nat × Bool) :=
  (ps.map fun p => (granules (p.2.1 / 64 + 2) p.1 (List.replicate p.2.1 ())).map fun g => (g.1, g.2.length, p.2.2)).flatten

/-- Reads of a core that are outstanding (R195). -/
def State.readsOf (s : State) (c : Nat) : Nat := s.reads.foldl (fun n r => if r.2.core = c then n + r.2.n else n) 0

/-- Whether the core's own earlier writes to lines homed on other dies are still unacknowledged (R196). -/
def State.ownLine (s : State) (c line : Nat) : Bool :=
  s.writes.any fun w => w.2.own.core == c && w.2.lines.contains line

/-- Whether no piece is held back by the core's own writes (R196). -/
def linesFree (s : State) (ps : List (Nat × Nat × Bool)) : Bool :=
  ps.all fun p => homeDie p.1 == s.myDie || !s.ownLine s.cur (granuleOf p.1)

/-- Issue the pieces of one read, numbered from a start: what the far-read cache holds answers at once, the rest are requests
(R195, R197); a read through a page with NC = 1 is not looked up there (L86). Answers the pieces at hand and how many are due. -/
def requestPieces (own : Owner) (id : Nat) (load : Bool) :
    List (Nat × Nat × Nat × Bool) → State → State × Table Piece × Nat
  | [], s => (s, [], 0)
  | (k, pa, n, nc) :: rest, s =>
    let home := homeDie pa
    let far := home != dieOf own.core && !nc
    match (if far then tlook (s.die (dieOf own.core)).far (granuleOf pa) else none) with
    | some line =>
      let (s, got, due) := requestPieces own id load rest s
      (s, (k, .data (((leBytes 64 line).drop (pa % 64)).take n)) :: got, due)
    | none =>
      let s := s.post ⟨0, own.core, memNode home, .read pa n own id k load far⟩
      let (s, got, due) := requestPieces own id load rest s
      (s, got, due + 1)

/-! ## Loads -/

/-- At service level 1 a scalar load or store through a bounded pointer faults SVC (R427). -/
def pointerLevel (s : State) (b : Nat) : Act Unit :=
  if s.level ≤ 1 && (activeOf s.ctx.lift (s.ctx.sreg b).tags).any fun i => !isSpad (atInst (s.ctx.sreg b) i) then
    fault s cSVC 0
  else .ok ()

/-- The base register's address with the scaled offset added, at an instance (R184, R192). -/
def eaOf (s : State) (b : Nat) (off : Int) (write : Bool) (i : Nat) : Act Word :=
  addOffset s (atInst (s.ctx.sreg b) i) off write

/-- Piece numbers set aside for each instance: more than a range of 65,536 bytes has. -/
def pieceGroup : Nat := 2048

/-- The bytes of piece group k of a held read, or the fault of its first bad piece (R198, R200). -/
def heldBytes (s : State) (got : Table Piece) (k : Nat) (ea : Word) : Act (List Byte) :=
  ((got.filter fun e => e.1 / pieceGroup == k).map fun e => e.2).foldlM
    (fun acc p => match p with
      | .data bs => pure (acc ++ bs)
      | .bad code => faultAt s code 0 ea) []

/-- The position of an instance among the active ones. -/
def posOf (s : State) (S i : Nat) : Nat :=
  match findIdx (fun j => j == i) (activeOf s.ctx.lift S) 0 with
  | some (k, _) => k
  | none => 0

/-- Complete a load of `n` bytes by instance: scratchpad bytes now, held pieces as they came. -/
def loadBytes (s : State) (S : Nat) (n : Nat → Nat) (ea : State → Nat → Act Word) (got : Table Piece) :
    Act (State × Table (List Byte)) :=
  widen s S fun s i => do
    let a ← ea s i
    if isSpad a then pure (s, s.spadRead s.cur a.toNat (n i))
    else pure (s, ← heldBytes s got (posOf s S i) a)

/-- The pieces of the k-th active instance of a load, numbered. -/
def pieceKeys (k : Nat) (p : Nat × Loc) : List (Nat × Nat × Nat × Bool) :=
  match p.2 with
  | .spad _ => []
  | .hbm ps => (readPieces ps).mapIdx fun j q => (k * pieceGroup + j, q)

/-- The reads of a load that are due: for each active instance the pieces of HBM it reads. -/
abbrev Reads := List (List (Nat × Nat × Nat × Bool))

/-- Issue the reads of a load, as many instances at once as the core may have outstanding (R195), and hold for their pieces; the
bytes once all have come. `k` reads have been issued, `got` has come. -/
def issueReads (s : State) (word k : Nat) (rs : Reads) (got : Table Piece) (fin : State → Table Piece → Act (State × Table (List Byte))) :
    Act (State × Table (List Byte)) := do
  let room := 64 - s.readsOf s.cur
  let now := (rs.drop k).take room
  let pieces := now.flatten
  if (rs.drop k).isEmpty then fin s got else
    if now.isEmpty || !linesFree s (pieces.map fun p => p.2) then
      if k = 0 then .error (.wait .other) else .error (.hold s)
    let (id, s) := s.fresh
    let (s, more, due) := requestPieces (s.owner word) id true pieces s
    let got := got ++ more
    let k := k + now.length
    if due = 0 && (rs.drop k).isEmpty then fin (s.keepHeld ⟨id, 0, got, false, 0, k, false, [], none⟩) got
    else
      let lines := pieces.map fun (p : Nat × Nat × Nat × Bool) => granuleOf p.2.1
      let s := if due = 0 then s else { s with reads := tput s.reads id ⟨s.cur, lines, now.length⟩ }
      .error (.hold (s.keepHeld ⟨id, due, got, false, 0, k, false, [], none⟩))

/-- A load of `n` bytes by active instance (R192, R195): checks; then scratchpad bytes at once, or requests that hold the context
until every piece has come. Once all have come nothing is checked again. -/
def loadBy (s : State) (word S : Nat) (n : Nat → Nat) (align : Nat) (ea : State → Nat → Act Word) : Act (State × Table (List Byte)) :=
  if s.holding.due ≠ 0 then .error (.hold s) else do
    let (_, far) ← widen s S fun s i => do
      let a ← ea s i
      pure (s, !isSpad a)
    if 0 < s.holding.begun ∧ far.countP (fun p => p.2) ≤ s.holding.begun then loadBytes s S n ea s.holding.got else
    let (s, locs) ← widen s S fun s i => do
      let a ← ea s i
      let (s, l) ← resolve s a (n i) align permR false
      pure (s, l)
    let spad := locs.any fun p => match p.2 with
      | .spad _ => true
      | .hbm _ => false
    if spad then spadWait s false
    let reads := (locs.mapIdx pieceKeys).filter fun ps => !ps.isEmpty
    issueReads s word s.holding.begun reads s.holding.got fun s got => loadBytes s S n ea got

/-- A load of the same number of bytes at every active instance. -/
def load (s : State) (word S n align : Nat) (ea : State → Nat → Act Word) : Act (State × Table (List Byte)) :=
  loadBy s word S (fun _ => n) align ea

/-- A scalar load (R192). -/
def loadScalar (w d b z o : Nat) (signed : Bool) (s : State) : Host.Outcome State Fault Refusal :=
  let n : Nat := 2 ^ z
  onward { word := w, reads := [b], writes := [d] }
    (fun s => do
      let S := s.ctx.tagUnion [b]
      let off := extS s.ctx.hints 11 o * n
      pointerLevel s b
      let (s, rs) ← load s w S n n fun s i => eaOf s b off false i
      writeS s d S fun i =>
        let v := leNat (tget rs [] i)
        if signed then sextW (8 * n) v else wd v) s

/-- `ld` (R192). -/
def execLd (d b z o : Nat) (s : State) := loadScalar (wordLd d b z o) d b z o false s
/-- `lds` (R192). -/
def execLds (d b z o : Nat) (s : State) := loadScalar (wordLds d b z o) d b z o true s

/-! ## Stores -/

/-- The placing rule (R374): tagged data or source with an untagged destination address faults before any instance acts. -/
def placing (s : State) (srcs dsts : List Nat) : Act Unit :=
  if s.ctx.tagUnion dsts = 0 && s.ctx.tagUnion srcs != 0 then lwrite s 1 srcs else .ok ()

/-- Store bytes (none where nothing is stored) from a checked place: the own scratchpad at once, HBM posted (R193, R195). -/
def storeAt (s : State) (word : Nat) (ea : Word) (l : Loc) (bs : List (Option Byte)) : Act State := do
  match l with
  | .spad a =>
    spadWait s true
    pure (s.modCore s.cur fun k => { k with spad := (bs.foldl
      (fun (p : Memory × Nat) b => (match b with
        | some v => mset p.1 p.2 v
        | none => p.1, p.2 + 1)) (k.spad, a)).1 })
  | .hbm ps => pure (postStore { s.owner word with addr := ea } ps bs s)

/-- `st` (R192). -/
def execSt (r b z o : Nat) (s : State) : Host.Outcome State Fault Refusal :=
  let w := wordSt r b z o
  let n : Nat := 2 ^ z
  onward { word := w, reads := [r, b] }
    (fun s => do
      let S := s.ctx.tagUnion [r, b]
      let off := extS s.ctx.hints 12 o * n
      pointerLevel s b
      placing s [r] [b]
      let v := s.ctx.sreg r
      let (s, _) ← widen s S fun s i => do
        let a ← eaOf s b off true i
        let (s, l) ← resolve s a n n permW true
        let s ← storeAt s w a l ((leBytes n (atInst v i).toNat).map some)
        pure (s, ())
      pure s) s

/-! ## Vector loads and stores (R193, R194) -/

/-- Lanes of a load, inactive ones zero. -/
def loadLanes (p : Lane) (f : Nat → Nat) : Vec :=
  ofLanes ((List.range 32).map fun l => if bitOf p.toNat l then f l else 0)

/-- Four bytes of a list from an offset, as a number. -/
def word4 (bs : List Byte) (off : Nat) : Nat := leNat ((bs.drop off).take 4)

/-- Write the vector register of a load. -/
def putLoaded (s : State) (v S : Nat) (res : Nat → Vec) : Act State := poolCheck s (deliver s v S res)

/-- `vld` and `vldb`: `n` bytes at the address, lane l from offset `at_ l`. -/
def loadVec (w v b p o n align : Nat) (at_ : Nat → Nat) (s : State) : Host.Outcome State Fault Refusal :=
  onward { word := w, reads := [b, pCode p], writes := [vCode v] }
    (fun s => do
      let S := s.ctx.tagUnion [b, pCode p]
      let off := extS s.ctx.hints 9 o * n
      let pr := s.ctx.preg p
      let (s, rs) ← load s w S n align fun s i => eaOf s b off false i
      putLoaded s v S fun i => loadLanes (atInst pr i) fun l => word4 (tget rs [] i) (at_ l)) s

/-- `vld` (R193). -/
def execVld (v b p o : Nat) (s : State) := loadVec (wordVld v b p o) v b p o 128 8 (fun l => 4 * l) s
/-- `vldb` (R193). -/
def execVldb (v b p o : Nat) (s : State) := loadVec (wordVldb v b p o) v b p o 4 4 (fun _ => 0) s

/-- The active lanes of a predicate. -/
def activeLanes (p : Lane) : List Nat := (List.range 32).filter fun l => bitOf p.toNat l

/-- The addresses of a strided or indexed access (R193, R194): scratchpad base, every active lane in bounds, all multiples of 4. -/
def laneAddrs (s : State) (base : Word) (write : Bool) (aligned : Bool) (p : Lane) (f : Nat → Int) : Act (Table Nat) := do
  if !isSpad base then faultAt s cBOUNDS 1 base write
  let as := (activeLanes p).map fun l => (l, (base.toNat : Int) + f l)
  match as.find? fun e => e.2 < 0 || (Config.spadBytes : Int) < e.2 + 4 with
  | some e => faultAt s cBOUNDS 1 (BitVec.ofInt 64 e.2) write
  | none => pure ()
  if base.toNat % 4 ≠ 0 ∨ !aligned then faultAt s cALIGN 0 base write
  match as.find? fun e => e.2 % 4 ≠ 0 with
  | some e => faultAt s cALIGN 0 (BitVec.ofInt 64 e.2) write
  | none => pure ()
  pure (as.map fun e => (e.1, e.2.toNat))

/-- A load of lanes at checked addresses. -/
def loadAt (s : State) (as : Table Nat) : Vec :=
  ofLanes ((List.range 32).map fun l => match tlook as l with
    | some a => mreadNat (s.core s.cur).spad a 4
    | none => 0)

/-- A store of lanes at checked addresses, in ascending lane order. -/
def storeLanes (s : State) (as : Table Nat) (v : Vec) : State :=
  as.foldl (fun s e => s.spadWrite s.cur e.2 (leBytes 4 (lane v e.1).toNat)) s

/-- `vlds` (R193). -/
def execVlds (v b p st : Nat) (s : State) : Host.Outcome State Fault Refusal :=
  onward { word := wordVlds v b p st, reads := [b, st, pCode p], writes := [vCode v] }
    (fun s => do
      let x := s.ctx
      let S := x.tagUnion [b, st, pCode p]
      let (s, rs) ← widen s S fun s i => do
        let str := (atInst (x.sreg st) i).toInt
        let as ← laneAddrs s (atInst (x.sreg b) i) false (str % 4 == 0) (atInst (x.preg p) i) fun l => l * str
        spadWait s false
        pure (s, loadAt s as)
      putLoaded s v S fun i => tget rs 0 i) s

/-- `vgat` (R194). -/
def execVgat (v b i p : Nat) (s : State) : Host.Outcome State Fault Refusal :=
  onward { word := wordVgat v b i p, reads := [b, vCode i, pCode p], writes := [vCode v] }
    (fun s => do
      let x := s.ctx
      let S := x.tagUnion [b, vCode i, pCode p]
      let (s, rs) ← widen s S fun s j => do
        let s ← parity j [i] s
        let idx := atInst (x.vreg i) j
        let as ← laneAddrs s (atInst (x.sreg b) j) false true (atInst (x.preg p) j) fun l => ((lane idx l).toNat : Int)
        spadWait s false
        pure (s, loadAt s as)
      putLoaded (s.countReads [i]) v S fun j => tget rs 0 j) s

/-- The tracked register a store's data field names: none for ZERO. -/
def dataReg (v : Nat) : List Nat := if v < 48 then [vCode v] else []

/-- The data of a vector store at an instance: a register or ZERO (R193). -/
def dataOf (x : Ctx) (v i : Nat) : Vec := if v < 48 then atInst (x.vreg v) i else 0

/-- `vst` (R193). -/
def execVst (v b p o : Nat) (s : State) : Host.Outcome State Fault Refusal :=
  let w := wordVst v b p o
  onward { word := w, reads := dataReg v ++ [b, pCode p] }
    (fun s => do
      let x := s.ctx
      let S := x.tagUnion (dataReg v ++ [b, pCode p])
      let off := extS x.hints 9 o * 128
      placing s (dataReg v) [b]
      let (s, _) ← widen s S fun s i => do
        let s ← parity i (vregsOf [(0, v)]) s
        let a ← eaOf s b off true i
        let (s, l) ← resolve s a 128 8 permW true
        let pr := atInst (x.preg p) i
        let bs := (vecBytes (dataOf x v i)).mapIdx fun k y => if bitOf pr.toNat (k / 4) then some y else none
        let s ← storeAt s w a l bs
        pure (s, ())
      pure (s.countReads (vregsOf [(0, v)]))) s

/-- `vsts` (R193). -/
def execVsts (v b p st : Nat) (s : State) : Host.Outcome State Fault Refusal :=
  onward { word := wordVsts v b p st, reads := dataReg v ++ [b, st, pCode p] }
    (fun s => do
      let x := s.ctx
      let S := x.tagUnion (dataReg v ++ [b, st, pCode p])
      placing s (dataReg v) [b, st]
      let (s, _) ← widen s S fun s i => do
        let s ← parity i (vregsOf [(0, v)]) s
        let str := (atInst (x.sreg st) i).toInt
        let as ← laneAddrs s (atInst (x.sreg b) i) true (str % 4 == 0) (atInst (x.preg p) i) fun l => l * str
        spadWait s true
        pure (storeLanes s as (dataOf x v i), ())
      pure (s.countReads (vregsOf [(0, v)]))) s

/-- `vsct` (R194). -/
def execVsct (v b i p : Nat) (s : State) : Host.Outcome State Fault Refusal :=
  onward { word := wordVsct v b i p, reads := dataReg v ++ [b, vCode i, pCode p] }
    (fun s => do
      let x := s.ctx
      let S := x.tagUnion (dataReg v ++ [b, vCode i, pCode p])
      placing s (dataReg v) [b, vCode i]
      let (s, _) ← widen s S fun s j => do
        let s ← parity j (i :: vregsOf [(0, v)]) s
        let idx := atInst (x.vreg i) j
        let as ← laneAddrs s (atInst (x.sreg b) j) true true (atInst (x.preg p) j) fun l => ((lane idx l).toNat : Int)
        spadWait s true
        pure (storeLanes s as (dataOf x v j), ())
      pure (s.countReads (i :: vregsOf [(0, v)]))) s

/-! ## Split-phase requests (R201, R202) -/

/-- Type and tag of an extended type field (R150). -/
def typeTag (h : Pending) (t : Nat) : Nat × Nat := ((extended h 8 t).1 % 256, (extended h 8 t).1 / 256)
/-- An extended type field with a bit above bit 31 is ILL (R150). -/
def typeIll (h : Pending) (t : Nat) : Bool := decide (2 ^ 32 ≤ (extended h 8 t).1)

/-- The byte count of a split-phase request (R202). -/
def requestCount (s : State) (z : Word) : Act Nat :=
  let n := z.toNat
  if n = 0 ∨ n > 65536 ∨ n % 8 ≠ 0 then fault s cBOUNDS 3 z else .ok n

/-- Issue a checked split-phase read. -/
def issueMget (s : State) (word : Nat) (vecForm : Bool) (x : Nat) (y : Word) (n type tag : Nat) (ps : List (Nat × Nat × Bool)) :
    State :=
  let pieces := (readPieces ps).mapIdx fun k p => (k, p)
  let (id, s) := s.fresh
  let own := s.owner word
  let (s, got, due) := requestPieces own id false pieces s
  let home := match ps with
    | p :: _ => homeDie p.1
    | [] => 0
  { s with
    mgets := tput s.mgets id
      { own := own, vecForm := vecForm, x := x, y := y, n := n, type := type, tag := tag, home := home, due := due, got := got
        lens := pieces.map fun p => p.2.2.1 }
    reads := tput s.reads id ⟨s.cur, pieces.map fun p => granuleOf p.2.1, 1⟩ }

/-- The checks of one split-phase request (R184, R202): the count, both addresses step by step, the type last, which the spec gives no
place among them (L80). Answers the destination, the pointer, the bytes and the pieces. -/
def mgetCheck (s : State) (x z : Option Nat) (y type i : Nat) : Act (State × Planned) := do
  let c := s.ctx
  let n ← match z with
    | some z => requestCount s (atInst (c.sreg z) i)
    | none => pure 128
  let dst : List Operand := match x with
    | some x => [⟨atInst (c.sreg x) i, n, 8, permW, true, some true⟩]
    | none => []
  let src : Operand := ⟨atInst (c.sreg y) i, n, 8, permR, false, some false⟩
  let as ← checkOperands s (dst ++ [src])
  let (s, es) ← src.find s (as.getLast?.getD 0)
  src.permit s es
  if type > 239 then fault s cHBIND 0
  pure (s, .mget ((dst.head?.map fun o => o.x.toNat).getD 0) src.x n es.pieces)

/-- Whether a core may have one more split-phase read outstanding, of lines that none of its own writes holds back (R195, R196). -/
def mgetRoom (s : State) : Planned → Bool
  | .mget _ _ _ ps => s.readsOf s.cur < 64 && linesFree s ps
  | _ => true

/-- A split-phase request over its active instances: every check, then the requests (L17). -/
def mgetBody (s : State) (word S : Nat) (x z : Option Nat) (y t : Nat) : Act State :=
  let (type, tag) := typeTag s.ctx.hints t
  planned mgetRoom
    (fun s p => match p with
      | .mget d q n ps => issueMget s word x.isNone d q n type tag ps
      | _ => s)
    (fun s => do
      let (s, rs) ← widen s S fun s i => mgetCheck s x z y type i
      if x.isSome then spadWait s true
      pure (s, rs.map fun r => r.2)) s

/-- `mget` (R202). -/
def execMget (x y z t : Nat) (s : State) : Host.Outcome State Fault Refusal :=
  let w := wordMget x y z t
  onward { word := w, reads := [x, y, z], ends := true, ill := typeIll s.ctx.hints t }
    (fun s => do
      placing s [y] [x]
      mgetBody s w (s.ctx.tagUnion [x, y, z]) (some x) (some z) y t) s

/-- `mgetv` (R202). -/
def execMgetv (y t : Nat) (s : State) : Host.Outcome State Fault Refusal :=
  let w := wordMgetv y t
  onward { word := w, reads := [y], ends := true, ill := typeIll s.ctx.hints t } (fun s => mgetBody s w (s.ctx.tagUnion [y]) none none y t) s

/-! ## Puts (R203) -/

/-- A checked destination of a put: the pieces of a pointer, or a core and an offset. -/
inductive PutTo where
  | hbm (ps : List (Nat × Nat × Bool))
  | core (c a : Nat)
  deriving DecidableEq, Repr

/-- The checks of a put's source, if it has one in scratchpad, and of its destination (R183, R184, R203). -/
def putDest (s : State) (src : List Operand) (y : Word) (n : Nat) (remote : Bool) : Act (State × PutTo) := do
  if remote then
    let _ ← src.mapM fun o => o.bound s
    let (a, c) ← resolveRef s y true
    if a + n > Config.spadBytes then faultAt s cBOUNDS 1 y true
    src.forM fun o => o.aligned s
    if a % 8 ≠ 0 then faultAt s cALIGN 0 y true
    pure (s, .core c a)
  else
    let dst : Operand := ⟨y, n, 8, permW, true, some false⟩
    let as ← checkOperands s (src ++ [dst])
    let (s, es) ← dst.find s (as.getLast?.getD 0)
    dst.permit s es
    pure (s, .hbm es.pieces)

/-- Whether a put writes the own scratchpad. -/
def PutTo.own (c : Nat) : PutTo → Bool
  | .core d _ => d == c
  | .hbm _ => false

/-- Post a remote operation that counts as a write of the executing context. -/
def postRemote (s : State) (own : Owner) (c : Nat) (op : Nat → RemoteOp) : State :=
  let (w, s) := s.addWrite own c []
  s.post ⟨0, own.core, c, .remote (op w)⟩

/-- Post the bytes of a put. -/
def postPut (s : State) (word : Nat) (y : Word) (tgt : PutTo) (bs : List Byte) : State :=
  let own := { s.owner word with addr := y }
  match tgt with
  | .hbm ps => postStore own ps (bs.map some) s
  | .core c a => postRemote s own c fun w => .put a bs own w

/-- `mput` with either destination: checks, the read of the source, the bytes posted. -/
def mputBody (s : State) (word x y z : Nat) (remote : Bool) : Act State := do
  let c := s.ctx
  let S := c.tagUnion [x, y, z]
  placing s [x] [y]
  let check (s : State) (i : Nat) : Act (State × (Nat × Nat × Word × PutTo)) := do
    let n ← requestCount s (atInst (c.sreg z) i)
    if remote && n > 128 then fault s cBOUNDS 3 (wd n)
    let src : Operand := ⟨atInst (c.sreg x) i, n, 8, permR, false, some true⟩
    let (s, tgt) ← putDest s [src] (atInst (c.sreg y) i) n remote
    pure (s, (src.x.toNat, n, atInst (c.sreg y) i, tgt))
  let act (s : State) (r : Nat × Nat × Word × PutTo) : State := postPut s word r.2.2.1 r.2.2.2 (s.spadRead s.cur r.1 r.2.1)
  if remote then
    let (s, rs) ← widen s S check
    spadWait s (rs.any fun r => r.2.2.2.2.own s.cur)
    pure (rs.foldl (fun s r => act s r.2) s)
  else
    let (s, _) ← widen s S fun s i => do
      let (s, r) ← check s i
      spadWait s false
      pure (act s r, ())
    pure s

/-- `mput` (R203). -/
def execMput (x y z : Nat) (s : State) : Host.Outcome State Fault Refusal :=
  let w := wordMput x y z
  onward { word := w, reads := [x, y, z] } (fun s => mputBody s w x y z false) s
/-- `mput.r` (R203, R216). -/
def execMputR (x y z : Nat) (s : State) : Host.Outcome State Fault Refusal :=
  let w := wordMputR x y z
  onward { word := w, reads := [x, y, z], ends := true } (fun s => mputBody s w x y z true) s

/-- `mputv`: the vector operand is read, and popped, once for all instances (R203, R373). -/
def mputvBody (s : State) (word y v : Nat) (remote : Bool) : Act State := do
  let c := s.ctx
  let srcs := [(2, v)]
  let T := if v = 62 then 2 ^ c.lift.levels.length - 1 else 0
  let S := c.tagUnion (dataReg v ++ [y]) ||| T
  placing s (dataReg v) [y]
  if T ≠ 0 && c.tagUnion [y] = 0 then fault s cLWRITE 1 (wd (vCode 62 + T * 256))
  sourceChecks s srcs
  let check (s : State) (i : Nat) : Act (State × PutTo) := putDest s [] (atInst (c.sreg y) i) 128 remote
  if remote || isPort v then
    let (s, rs) ← widen s S fun s i => do
      let s ← parity i (vregsOf srcs) s
      check s i
    if rs.any fun r => r.2.own s.cur then spadWait s true
    sourceWaits s srcs
    let src := sourceOf s v
    let s := s.countReads (vregsOf srcs)
    pure (popPorts (rs.foldl (fun s r => postPut s word (atInst (c.sreg y) r.1) r.2 (vecBytes (src.2 r.1))) s) [v])
  else
    sourceWaits s srcs
    let src := sourceOf s v
    let (s, _) ← widen s S fun s i => do
      let s ← parity i (vregsOf srcs) s
      let (s, tgt) ← check s i
      pure (postPut s word (atInst (c.sreg y) i) tgt (vecBytes (src.2 i)), ())
    pure (s.countReads (vregsOf srcs))

/-- `mputv` (R203): a popped link ends the region (R129). -/
def execMputv (y v : Nat) (s : State) : Host.Outcome State Fault Refusal :=
  let w := wordMputv y v
  onward { word := w, reads := dataReg v ++ [y], ends := isPort v } (fun s => mputvBody s w y v false) s
/-- `mputv.r` (R203, R216). -/
def execMputvR (y v : Nat) (s : State) : Host.Outcome State Fault Refusal :=
  let w := wordMputvR y v
  onward { word := w, reads := dataReg v ++ [y], ends := true } (fun s => mputvBody s w y v true) s

end Sys2Proof.Machine
end

