-- ==== Sys2Proof/Machine/Ordering.lean ====
section
/-!
DEFINITION. Majors 0x1F and 0x20: releases with markers and clock notes, fences, `fack` and atomics (R219 to R233).
-/

namespace Sys2Proof.Machine

/-! ## Releases (R220, R221, R223, R224) -/

/-- Whether a release at a scope of a core waits for a write with a home (R220). -/
def covers (scope c home : Nat) : Bool :=
  match scope with
  | 0 => home == c
  | 1 => home < 4096 && octetOf home == octetOf c
  | _ => true

/-- The clock of a die as a marker carries it: 16 entries (R223). -/
def clockOf (d : Die) : List Nat := (List.range 16).map fun j => tget d.clock 0 j

/-- The dies that get a marker: those of the mask granted to the virtual function, the issuing die apart (R220). -/
def markerDies (v : Vf) (die mask : Nat) : List Nat :=
  (List.range 8).filter fun d => d != die && bitOf mask d && bitOf (dieMask v) d

/-- Send a release's markers, and clock notes to the other dies (R224). Answers the acknowledgements due. -/
def sendMarkers (s : State) (own : Owner) (node : Option Nat) (die mask : Nat) (pages : Option (List Nat)) : State × Nat :=
  let d := s.die die
  let n := (d.outCount + 1) % 2 ^ 32
  let named := markerDies (s.vf own.vf) die mask
  let s := s.modDie die fun d => { d with outCount := n }
  let s := (List.range 8).foldl (fun s x =>
    if x = die then s
    else if named.contains x then
      s.post ⟨2, schedNode die, schedNode x, .marker ⟨die, n, clockOf d, pages, own, node⟩⟩
    else s.post ⟨2, schedNode die, schedNode x, .note die n⟩) s
  (s, named.length)

/-- A release of the executing context at a scope with a mask (R221): waits for the covered writes, then at `.die` for every
marker's acknowledgement. Until it is complete the instruction holds. -/
def release (s : State) (scope mask : Nat) : Act State :=
  match s.ctx.rel with
  | some r =>
    if r.sent then (if r.due = 0 then .ok s else .error (.hold s)) else go s
  | none => go s
where
  /-- Before the markers. -/
  go (s : State) : Act State :=
    let own := s.owner 0
    if s.unacked own (covers scope s.cur) then
      .error (.hold (s.modCtx fun x => { x with rel := some ⟨false, 0⟩ }))
    else if scope = 2 then
      let (s, due) := sendMarkers s own none s.myDie mask s.ctx.pages
      let s := s.modCtx fun x => { x with rel := some ⟨true, due⟩ }
      if due = 0 then .ok s else .error (.hold s)
    else .ok s

/-- The release that `arrive`, `swadd` and `wput` make toward a die (R206, R175, R176): every earlier write acknowledged, and
markers only when the die is another one. -/
def releaseTo (s : State) (dies : List Nat) : Act State :=
  let mask := dies.foldl (fun m d => if bitOf m d then m else m + 2 ^ d) 0
  if dies.all fun d => d == s.myDie then
    (if s.unacked (s.owner 0) fun _ => true then
      .error (.hold (s.modCtx fun x => { x with rel := some ⟨false, 0⟩ })) else .ok s)
  else release s 2 mask

/-- Take the pool registers of a scalar result in advance, for an instruction that releases before it writes (R369, R371); they are held
under the number 0. -/
def reserve (s : State) (d S : Nat) : Act State :=
  if s.ctx.held.isSome then .ok s else
    (takePool s d S).bind fun n => .ok (if n = 0 then s else (s.keepHeld ⟨0, 0, [], true, n, 0, false, [], none⟩).trim s.cur)

/-- The registers taken in advance go to the result that is written next. -/
def State.spend (s : State) : State :=
  match s.ctx.held with
  | some h => s.keepHeld { h with pool := 0 }
  | none => s

/-- DMASK (R229): a mask register with any of bits 63 to 8 set, at scope `.die`. -/
def dmaskCheck (s : State) (scope m : Nat) : Act Nat :=
  if scope = 2 then
    (if fld (s.sv m) 63 8 ≠ 0 then fault s cDMASK 0 else .ok (s.sv m).toNat)
  else .ok 0

/-! ## Fences (R227 to R229) -/

/-- The registers a fence reads. -/
def maskReads (scope m : Nat) : List Nat := if scope = 2 then [m] else []

/-- `fence.acq`: every earlier load and atomic has returned when it issues. -/
def execFenceAcq (m sc : Nat) (s : State) : Host.Outcome State Fault Refusal :=
  onward { word := wordFenceAcq m sc, reads := maskReads sc m, ends := true, once := true }
    (fun s => do let _ ← dmaskCheck s sc m; pure s) s

/-- `fence.rel`. -/
def execFenceRel (m sc : Nat) (s : State) : Host.Outcome State Fault Refusal :=
  onward { word := wordFenceRel m sc, reads := maskReads sc m, ends := true, once := true }
    (fun s => do let mask ← dmaskCheck s sc m; release s sc mask) s

/-- `fence.full`: the release, then the acquire. -/
def execFenceFull (m sc : Nat) (s : State) : Host.Outcome State Fault Refusal :=
  onward { word := wordFenceFull m sc, reads := maskReads sc m, ends := true, once := true }
    (fun s => do let mask ← dmaskCheck s sc m; release s sc mask) s

/-- `fack` (R228). -/
def execFack (s : State) : Host.Outcome State Fault Refusal :=
  onward { word := wordFack, ends := true } (fun s => do ackHold s; pure s) s

/-! ## Atomics (R230 to R233) -/

/-- The new value of an atomic: function, old value, s(b), s(b + 1); none where `amocas` fails its compare (R230). -/
def amoNew (fn : Nat) (old x y : Word) : Option Word :=
  match fn with
  | 0 => some (old + x)
  | 1 => some (old &&& x)
  | 2 => some (old ||| x)
  | 3 => some (old ^^^ x)
  | 4 => some (if old.slt x then old else x)
  | 5 => some (if old.slt x then x else old)
  | 6 => some (if old.ult x then old else x)
  | 7 => some (if old.ult x then x else old)
  | 8 => some x
  | _ => if old = x then some y else none

/-- The checks of an atomic's address (R183, R184, R231): a core's scratchpad with the offset, or HBM with the physical address. -/
def amoPlace (s : State) (x : Word) (remote : Bool) : Act (State × Option Nat × Nat) := do
  if remote then
    let (a, c) ← resolveRef s x true
    if a + 8 > Config.spadBytes then faultAt s cBOUNDS 1 x true
    if a % 8 ≠ 0 then faultAt s cALIGN 0 x true
    pure (s, some c, a)
  else
    let (s, l) ← resolve s x 8 8 permA true
    match l with
    | .spad a => pure (s, some s.cur, a)
    | .hbm ((pa, _) :: _) => pure (s, none, pa)
    | .hbm [] => pure (s, some s.cur, 0)

/-- Issue one instance of an atomic toward its home. -/
def issueAmo (s : State) (word fn : Nat) (core : Option Nat) (a : Nat) (x y : Word) (id piece : Nat) : State :=
  let own := s.owner word
  match core with
  | some c =>
    let (w, s) := s.addWrite own c []
    s.post ⟨0, own.core, c, .remote (.amo fn a x y own id piece w)⟩
  | none =>
    let home := homeDie a
    let (w, s) := s.addWrite own (memNode home) [granuleOf a]
    let s := s.modCtx fun c => c.notePage (a / 65536)
    let s := if home = s.myDie then s else s.modDie s.myDie fun d => d.dropLine (granuleOf a)
    s.post ⟨0, own.core, memNode home, .amo a fn x y own id piece w⟩

/-- The old values an atomic has received, or the fault of a bad one (R231, R233). -/
def amoOlds (s : State) (S : Nat) (got : Table Piece) (ea : Nat → Word) : Act (Table Word) :=
  ((activeOf s.ctx.lift S).mapIdx fun k i => (k, i)).foldlM
    (fun acc e => match tlook got e.1 with
      | some (.data bs) => pure (acc ++ [(e.2, wd (leNat bs))])
      | some (.bad code) => atInstance S e.2 (faultAt s (code % 256) (code / 256) (ea e.2) true)
      | none => pure acc) []

/-- The release part of one instance of an atomic, with that instance's mask (R231, R233): complete when it answers. -/
def amoRelease (s : State) (order scope : Nat) (mask : Word) : Act State :=
  if 2 ≤ order then (release s scope mask.toNat).bind fun s => .ok (s.modCtx fun x => { x with rel := none }) else .ok s

/-- What an atomic holds once every instance has passed its checks: the places of its instances, the pool registers of its result
(R231, R369, R371). -/
def amoStart (s : State) (S : Nat) (ea : Nat → Word) (d m scope : Nat) (remote : Bool) : Act (State × Held) := do
  let c := s.ctx
  let (s, ps) ← widen s S fun s i => do
    let (s, p) ← amoPlace s (ea i) remote
    if scope = 2 && fld (atInst (c.sreg m) i) 63 8 ≠ 0 then fault s cDMASK 0
    pure (s, p)
  let n ← takePool s d S
  if ps.any fun p => p.2.1 == some s.cur then spadWait s true
  let (id, s) := s.fresh
  let h : Held := { id := id, due := 0, got := [], atomic := true, pool := n, plan := ps.map fun p => .amo p.2.1 p.2.2 }
  pure ((s.keepHeld h).trim s.cur, h)

/-- The body of an atomic: its checks, then per instance in order the release part and the operation, held until its old value has come
(R231, R233, R371). -/
def amoBody (s : State) (word fn d a b m order scope : Nat) (remote : Bool) : Act (State × Nat × Table Word) := do
  let c := s.ctx
  let S := c.tagUnion ([a, b] ++ (if fn = 9 then [b + 1] else []) ++ maskReads scope m)
  let ea (i : Nat) : Word := atInst (c.sreg a) i
  let (s, h) ← match c.held with
    | some h => if h.due = 0 then pure (s, h) else .error (.hold s)
    | none => amoStart s S ea d m scope remote
  let olds ← amoOlds s S h.got ea
  match nth (activeOf c.lift S) h.got.length, h.plan with
  | some i, .amo core at_ :: rest =>
    let s ← amoRelease s order scope (atInst (c.sreg m) i)
    let s := issueAmo s word fn core at_ (atInst (c.sreg b) i) (atInst (c.sreg (b + 1)) i) h.id h.got.length
    .error (.hold (s.keepHeld { h with due := 1, plan := rest }))
  | _, _ => pure (s.keepHeld { h with pool := 0 }, S, olds)

/-- An atomic (R231): the release part before the operation, the acquire part by holding, d written last. -/
def atomic (w fn d a b m o sc r : Nat) (s : State) : Host.Outcome State Fault Refusal :=
  onward { word := w, reads := [a, b] ++ (if fn = 9 then [b + 1] else []) ++ maskReads sc m, writes := [d], ends := true }
    (fun s => do
      let (s, S, olds) ← amoBody s w fn d a b m o sc (r == 1)
      writeS s d S fun i => tget olds 0 i) s

/-- `amoadd`. -/
def execAmoadd (d a b m o sc r : Nat) (s : State) := atomic (wordAmoadd d a b m o sc r) 0 d a b m o sc r s
/-- `amoand`. -/
def execAmoand (d a b m o sc r : Nat) (s : State) := atomic (wordAmoand d a b m o sc r) 1 d a b m o sc r s
/-- `amoor`. -/
def execAmoor (d a b m o sc r : Nat) (s : State) := atomic (wordAmoor d a b m o sc r) 2 d a b m o sc r s
/-- `amoxor`. -/
def execAmoxor (d a b m o sc r : Nat) (s : State) := atomic (wordAmoxor d a b m o sc r) 3 d a b m o sc r s
/-- `amomin`. -/
def execAmomin (d a b m o sc r : Nat) (s : State) := atomic (wordAmomin d a b m o sc r) 4 d a b m o sc r s
/-- `amomax`. -/
def execAmomax (d a b m o sc r : Nat) (s : State) := atomic (wordAmomax d a b m o sc r) 5 d a b m o sc r s
/-- `amominn`. -/
def execAmominn (d a b m o sc r : Nat) (s : State) := atomic (wordAmominn d a b m o sc r) 6 d a b m o sc r s
/-- `amomaxn`. -/
def execAmomaxn (d a b m o sc r : Nat) (s : State) := atomic (wordAmomaxn d a b m o sc r) 7 d a b m o sc r s
/-- `amoswp`. -/
def execAmoswp (d a b m o sc r : Nat) (s : State) := atomic (wordAmoswp d a b m o sc r) 8 d a b m o sc r s
/-- `amocas`: the failure order fo only decides whether a failed compare acquires. -/
def execAmocas (d a b m o sc f r : Nat) (s : State) := atomic (wordAmocas d a b m o sc f r) 9 d a b m o sc r s

end Sys2Proof.Machine
end

