-- ==== Sys2Proof/Machine/Barriers.lean ====
section
/-!
DEFINITION. Major 0x21: named barriers (R234 to R237), at the own core's records and over the octet's barrier path.
-/

namespace Sys2Proof.Machine

/-- A barrier record (R234). -/
structure BarRec where
  c : Bool
  sc : Nat
  launch : Nat
  gen : Nat
  arrived : Nat
  target : Nat
  deriving DecidableEq, Repr

/-- Read a record word. -/
def barRec (w : Word) : BarRec := ⟨fld w 63 63 == 1, fld w 62 62, fld w 55 48, fld w 47 32, fld w 15 8, fld w 7 0⟩
/-- The record word. -/
def BarRec.word (r : BarRec) : Word :=
  wd ((if r.c then 2 ^ 63 else 0) + r.sc * 2 ^ 62 + r.launch * 2 ^ 48 + r.gen * 2 ^ 32 + r.arrived * 2 ^ 8 + r.target)

/-- The launch number a record keeps: that of the activation, 0 for one without a launch (L18). -/
def launchOf (o : Owner) : Nat := o.launch.getD 0 % 256

/-- Whether an arrival, wait or read may use a record (R236). -/
def BarRec.usable (r : BarRec) (launch sc : Nat) : Bool := r.c && r.launch == launch && r.sc == sc

/-- What a barrier operation makes of a record: the new record and the answer, none for BAR (R235, R236). Functions: 0 `barcfg`,
1 `barrv`, 2 `barwt` check, 3 `barq`. -/
def barApply (fn sc launch : Nat) (val : Word) (r : BarRec) : Option (BarRec × Word) :=
  match fn with
  | 0 =>
    if 255 < val.toNat ∨ (r.c ∧ r.launch ≠ launch) then none
    else if r.c ∧ r.sc = sc ∧ r.target = val.toNat ∧ val ≠ 0 then some (r, 0)
    else if r.c ∧ r.arrived ≠ 0 then none
    else if val = 0 then some ({ r with c := false }, 0)
    else some ({ r with c := true, sc := sc, launch := launch, target := val.toNat, arrived := 0 }, 0)
  | 1 =>
    if r.usable launch sc then
      let g := wd r.gen
      if r.arrived + 1 = r.target then some ({ r with arrived := 0, gen := (r.gen + 1) % 65536 }, g)
      else some ({ r with arrived := r.arrived + 1 }, g)
    else none
  | 2 => if r.usable launch sc then some (r, 0) else none
  | _ => if r.usable launch sc then some (r, r.word) else none

/-- Record n of a core. -/
def Core.barrier (k : Core) (n : Nat) : BarRec := barRec (tget k.barriers 0 n)

/-- Apply a barrier operation to a record of a core. -/
def State.barAt (s : State) (c fn n sc launch : Nat) (val : Word) : Option (State × Word) :=
  match barApply fn sc launch val ((s.core c).barrier n) with
  | some (r, v) => some (s.modCore c fun k => { k with barriers := tput k.barriers n r.word }, v)
  | none => none

/-- The core that holds the record of a barrier instruction: the own one, or the octet's core 0 (R14, R234). -/
def barHome (c sc : Nat) : Nat := if sc = 0 then c else coreOf (octetOf c) 0

/-- The barrier number s(x) + imm9, BAR beyond the records the object may use (R78, R235, R236). -/
def barNumber (s : State) (x imm : Nat) : Act Nat :=
  let n := (s.sv x).toNat + imm
  let low : Bool := match s.objOf s.ctx.id.vf s.ctx.pc with
    | some o => o.floor
    | none => false
  if 512 ≤ n ∨ (low ∧ 64 ≤ n) then fault s cBAR 0 else .ok n

/-- A barrier operation: at the own core at once; over the octet's barrier path it holds until the record has answered (R234). -/
def barOp (s : State) (word fn n sc : Nat) (val : Word) : Act (State × Word) :=
  let own := s.owner word
  if sc = 0 then
    match s.barAt s.cur fn n sc (launchOf own) val with
    | some r => .ok r
    | none => fault s cBAR 0
  else
    let h := s.ctx.held.getD ⟨0, 0, [], true, 0, 0, false, [], none⟩
    if h.id = 0 then
      let (id, s) := s.fresh
      let s := s.post ⟨3, s.cur, barHome s.cur sc, .barrier ⟨fn, n, val, own, id⟩⟩
      .error (.hold (s.keepHeld ⟨id, 1, [], fn < 2, h.pool, 0, false, [], none⟩))
    else
      match h.due, h.got with
      | 0, (_, .data bs) :: _ => .ok (s, wd (leNat bs))
      | 0, _ => fault s cBAR 0
      | _, _ => .error (.hold s)

/-- `barcfg` (R235, R237). -/
def execBarcfg (r0 a x im : Nat) (s : State) : Host.Outcome State Fault Refusal :=
  let w := wordBarcfg r0 a x im
  onward { word := w, reads := [a, x], ends := true, once := true }
    (fun s => do
      let n ← barNumber s x im
      if 255 < (s.sv a).toNat then fault s cBAR 0
      let (s, _) ← barOp s w 0 n r0 (s.sv a)
      pure s) s

/-- Whether the barrier operation of the executing instruction is on its way to the record or has been answered. -/
def State.asked (s : State) : Bool :=
  match s.ctx.held with
  | some h => h.id != 0
  | none => false

/-- The release and the arrival of `barrv` to register d, and of `barsy` (R235). -/
def barArrive (s : State) (word d n sc : Nat) : Act (State × Word) := do
  if sc = 0 && (s.barAt s.cur 2 n sc (launchOf (s.owner word)) 0).isNone then fault s cBAR 0
  let s ← reserve s d 0
  let s ← if s.asked then pure s else release s sc 0
  barOp s word 1 n sc 0

/-- `barrv` (R235, R237). -/
def execBarrv (r0 d x im : Nat) (s : State) : Host.Outcome State Fault Refusal :=
  let w := wordBarrv r0 d x im
  onward { word := w, reads := [x], writes := [d], ends := true, once := true }
    (fun s => do
      let n ← barNumber s x im
      let (s, g) ← barArrive s w d n r0
      writeS s.spend d 0 fun _ => g) s

/-- Whether the round named by a generation is over. -/
def roundOver (s : State) (n sc gen : Nat) : Bool := ((s.core (barHome s.cur sc)).barrier n).gen != gen

/-- `barwt` (R235, R237). -/
def execBarwt (r0 a x im : Nat) (s : State) : Host.Outcome State Fault Refusal :=
  let w := wordBarwt r0 a x im
  onward { word := w, reads := [a, x], once := true }
    (fun s => do
      let n ← barNumber s x im
      let (s, _) ← barOp s w 2 n r0 0
      if roundOver s n r0 ((s.sv a).toNat % 65536) then pure s else .error (.hold s)) s

/-- The barrier that a `barsy` record names (R237): its scope and number, whichever core the context is migrated to. -/
def barKey (n sc : Nat) : Nat := sc * 512 + n

/-- `barsy` (R235, R237): once it has arrived, the region starts at the instruction itself and only the wait is repeated. -/
def execBarsy (r0 x im : Nat) (s : State) : Host.Outcome State Fault Refusal :=
  let w := wordBarsy r0 x im
  onward { word := w, reads := [x], ends := true, once := true }
    (fun s => do
      let n ← barNumber s x im
      let key := barKey n r0
      match s.ctx.barsy with
      | some (k, g) =>
        if k = key then
          if roundOver s n r0 g then pure (s.modCtx fun x => { x with barsy := none }) else .error (.hold s)
        else arriveThen s w n r0 key
      | none => arriveThen s w n r0 key) s
where
  /-- Arrive, record the generation, and go on waiting. -/
  arriveThen (s : State) (w n sc key : Nat) : Act State := do
    let (s, g) ← barArrive s w 0 n sc
    .error (.hold (s.modCtx fun x =>
      ({ x with barsy := some (key, g.toNat), held := none, rel := none }).endRegion []))

/-- `barq` (R234, R235). -/
def execBarq (r0 d x im : Nat) (s : State) : Host.Outcome State Fault Refusal :=
  let w := wordBarq r0 d x im
  onward { word := w, reads := [x], writes := [d], once := true }
    (fun s => do
      let n ← barNumber s x im
      let (s, v) ← barOp s w 3 n r0 0
      writeS s d 0 fun _ => v) s

/-- A barrier operation reaches the record over the octet's barrier path: it is applied and its issuer answered (R234), if it still
waits for that answer: a pre-emption ends a wait (R237, R265). -/
def barrierAnswer (s : State) (home : Nat) (b : BarOp) (sc : Nat) : State :=
  let (s, p) : State × Piece := match s.barAt home b.fn b.n sc (launchOf b.own) b.val with
    | some (s, v) => (s, .data (leBytes 8 v.toNat))
    | none => (s, .bad cBAR)
  s.modAct b.own.act fun x =>
    match x.held with
    | some h => if h.id = b.id then { x with held := some { h with due := 0, got := [(0, p)] }, wait := .ready } else x
    | none => x

end Sys2Proof.Machine
end

