-- ==== Sys2Proof/Machine/SyncWords.lean ====
section
/-!
DEFINITION. Major 0x1D: sync words and their raises (R204 to R206), with the counting and firing that sync words and joins share.
-/

namespace Sys2Proof.Machine

/-! ## Counting rounds (R175, R205) -/

/-- A count over a target: the rounds that complete and the count left; a target of 0 completes none. -/
def rounds (total target : Nat) : Nat × Nat := if target = 0 then (0, min total (2 ^ 32 - 1)) else (total / target, total % target)

/-- The messages of the next n rounds of a firing. -/
def Firing.msgs (f : Firing) (n : Nat) : List Msg :=
  (List.range n).map fun i => { f.msg with words := f.msg.words.mapIdx fun j w => if j = 1 then wd ((f.gen + i + 1) % 2 ^ f.bits) else w }

/-- Firings enter a queue that has some room, in order: the messages, and the firings left. -/
def feed (room : Nat) : List Firing → List Msg × List Firing
  | [] => ([], [])
  | f :: fs =>
    if room < f.left then (f.msgs room, { f with gen := f.gen + room, left := f.left - room } :: fs)
    else
      let (ms, rest) := feed (room - f.left) fs
      (f.msgs f.left ++ ms, rest)

/-- The join-fire queue takes what it has room for (R175). -/
def Queues.feed (q : Queues) : Queues :=
  let (ms, rest) := Machine.feed (8 - q.joinq.length) q.fires
  { q with joinq := q.joinq ++ ms, fires := rest }

/-- Fire the messages of completed rounds through a core's join-fire queue (R175); at a core that is not running they are lost and
counted (R153). -/
def State.fire (s : State) (c : Nat) (f : Firing) : State :=
  if f.left = 0 then s
  else if s.isRunning c then s.modCore c fun k => { k with q := ({ k.q with fires := k.q.fires ++ [f] }).feed }
  else s.modDie (dieOf c) fun d =>
    { d with tele := { d.tele with discardedLandings := d.tele.discardedLandings + f.left } }

/-- Whether a core's join-fire queue is full. -/
def Core.fireFull (k : Core) : Bool := 8 ≤ k.q.joinq.length

/-- Whether the remote-op thread, or the landing port, still has rounds to fire and so waits (R175, R205). -/
def Core.firing (k : Core) (thread : Bool) : Bool := k.q.fires.any fun f => f.thread == thread

/-! ## The word (R204) -/

/-- A sync word. -/
structure SyncWord where
  target : Nat
  count : Nat
  gen : Nat
  pz : Bool
  er : Bool
  be : Bool
  btype : Nat
  deriving DecidableEq, Repr

/-- Read the word at a scratchpad offset. -/
def syncWord (m : Memory) (a : Nat) : SyncWord :=
  let w := mreadNat m a 16
  ⟨bits w 0 32, bits w 32 32, bits w 64 32, bitOf w 96, bitOf w 97, bitOf w 103, bits w 104 8⟩

/-- The word as 128 bits. -/
def SyncWord.nat (w : SyncWord) : Nat :=
  let b (x : Bool) (i : Nat) : Nat := if x then 2 ^ i else 0
  w.target + w.count * 2 ^ 32 + w.gen * 2 ^ 64 + b w.pz 96 + b w.er 97 + b w.be 103 + w.btype * 2 ^ 104

/-- Write the word. -/
def State.putSync (s : State) (c a : Nat) (w : SyncWord) : State := s.spadWrite c a (leBytes 16 w.nat)

/-- Apply a raise to a word, whole (R205): none while a round would complete and the join-fire queue is full. The messages of its rounds
follow through that queue; `thread` says that the remote-op thread applies it. -/
def applyRaise (s : State) (c : Nat) (r : Raise) (thread : Bool) : Option State :=
  let w := syncWord (s.core c).spad r.addr
  let (k, rest) := rounds (w.count + r.n) w.target
  if w.be && k != 0 && (s.core c).fireFull then none
  else
    let m : Msg := { type := w.btype, words := [wd r.addr, 0], src := wd (0x2000 + c), dst := c, vf := r.vf, launch := r.launch }
    some ((s.putSync c r.addr { w with pz := w.pz || r.poison, gen := (w.gen + k) % 2 ^ 32, count := rest }).fire c
      ⟨m, w.gen, 32, if w.be then k else 0, thread⟩)

/-- Queue a raise at a core's landing port. -/
def State.queueRaise (s : State) (c : Nat) (r : Raise) : State :=
  s.modCore c fun k => { k with q := { k.q with raises := k.q.raises ++ [r] } }

/-! ## Instructions (R206) -/

/-- The operand of a local word's address (R206), for an instruction that writes the word or reads it. -/
def swOperand (x : Word) (write : Bool) : Operand := ⟨x, 16, 16, 0, write, some true⟩

/-- The check of a local word's address (R206). -/
def swLocal (s : State) (x : Word) (write : Bool) : Act Nat := do
  let a ← (swOperand x write).bound s
  (swOperand x write).aligned s
  pure a

/-- `swinit` (R206). -/
def execSwinit (x y z : Nat) (s : State) : Host.Outcome State Fault Refusal :=
  onward { word := wordSwinit x y z, reads := [x, y, z] }
    (fun s => do
      let c := s.ctx
      let S := c.tagUnion [x, y, z]
      let (s, _) ← widen s S fun s i => do
        let a ← swLocal s (atInst (c.sreg x) i) true
        let t := atInst (c.sreg y) i
        if t = 0 ∨ t.toNat ≥ 2 ^ 32 then fault s cBOUNDS 3 t
        let b := atInst (c.sreg z) i
        if z ≠ 0 ∧ b.toNat ≥ 256 then fault s cBOUNDS 3 b
        if z ≠ 0 ∧ b.toNat > 239 then fault s cHBIND 0
        spadWait s true
        let w := syncWord (s.core s.cur).spad a
        let w := { w with target := t.toNat, count := 0, pz := false, er := false }
        let w := if z = 0 then { w with be := false } else { w with be := true, btype := b.toNat }
        pure (s.putSync s.cur a w, ())
      pure s) s

/-- `swwait` (R206): every instance's condition holds. -/
def execSwwait (x y : Nat) (s : State) : Host.Outcome State Fault Refusal :=
  onward { word := wordSwwait x y, reads := [x, y] }
    (fun s => do
      let c := s.ctx
      let (s, rs) ← widen s (c.tagUnion [x, y]) fun s i => do
        let a ← swLocal s (atInst (c.sreg x) i) false
        spadWait s false
        let w := syncWord (s.core s.cur).spad a
        pure (s, w.gen != (atInst (c.sreg y) i).toNat % 2 ^ 32 || w.er)
      waitFor (rs.all fun r => r.2)
      pure s) s

/-- `swget` (R206). -/
def execSwget (x y : Nat) (s : State) : Host.Outcome State Fault Refusal :=
  onward { word := wordSwget x y, reads := [y], writes := [x] }
    (fun s => do
      let c := s.ctx
      let S := c.tagUnion [y]
      let (s, rs) ← widen s S fun s i => do
        let a ← swLocal s (atInst (c.sreg y) i) false
        spadWait s false
        pure (s, wd (syncWord (s.core s.cur).spad a).gen)
      writeS s x S fun i => tget rs 0 i) s

/-- `swadd` (R206): a remote operation after the context's writes are acknowledged and released toward the home. -/
def execSwadd (x y : Nat) (s : State) : Host.Outcome State Fault Refusal :=
  let w := wordSwadd x y
  onward { word := w, reads := [x, y], ends := true }
    (fun s => do
      let c := s.ctx
      let (s, rs) ← widen s (c.tagUnion [x, y]) fun s i => do
        let r := atInst (c.sreg x) i
        let (a, home) ← resolveRef s r true
        if a + 16 > Config.spadBytes then faultAt s cBOUNDS 1 r true
        if a % 16 ≠ 0 then faultAt s cALIGN 0 r true
        let n := atInst (c.sreg y) i
        if n = 0 ∨ n.toNat ≥ 2 ^ 32 then fault s cBOUNDS 3 n
        pure (s, (home, a, n.toNat))
      if rs.any fun r => r.2.1 == s.cur then spadWait s true
      let s ← releaseTo s (rs.map fun r => dieOf r.2.1)
      let own := s.owner w
      pure (rs.foldl (fun s r => postRemote s own r.2.1 fun wid => .swadd r.2.2.1 r.2.2.2 own wid) s)) s

end Sys2Proof.Machine
end

