-- ==== Sys2Proof/Machine/Copy.lean ====
section
/-!
DEFINITION. Major 0x1C: the copy engine: jobs, their footprints and hazards, the landing of their parts (R207 to R212).
-/

namespace Sys2Proof.Machine

/-! ## Jobs -/

/-- Bytes a job moves. -/
def Job.total (j : Job) : Nat := j.rowlen * j.rows
/-- The source offset of byte q of a job (R209). -/
def Job.srcOff (j : Job) (q : Nat) : Nat := q / j.rowlen * j.spitch + q % j.rowlen
/-- The destination offset of byte q of a job (R208, R209). -/
def Job.dstOff (j : Job) (q : Nat) : Nat := q / j.rowlen * j.dpitch + q % j.rowlen
/-- Bytes from the first to the last byte a job reads (R210). -/
def Job.srcSpan (j : Job) : Nat := (j.rows - 1) * j.spitch + j.rowlen
/-- Bytes from the first to the last byte a job writes. -/
def Job.dstSpan (j : Job) : Nat := (j.rows - 1) * j.dpitch + j.rowlen

/-- Target number i of a deal: core `first` is the corner of a rectangle `width` wide (R211). -/
def dealCore (first width i : Nat) : Nat := first + i / width * 16 + i % width
/-- The core and the offset beyond x of byte q of a deal with blocks of B bytes over n targets (R211). -/
def dealAt (B first width n q : Nat) : Nat × Nat :=
  let k := q / B
  (dealCore first width (k % n), k / n * B + q % B)

/-- The physical address of an offset of an HBM place. -/
def pageAddr (pages : Table Nat) (va : Nat) : Nat := tget pages 0 (va / 65536) * 65536 + va % 65536

/-- The 64-byte blocks of a range of a place, as (space, first, last): space 0 HBM by physical block, 1 + c the scratchpad of core
c, 4096 + the die the weight store, 8192 + the octet its B buffer (R210). -/
def placeBlocks (s : State) (die : Nat) (p : Place) (n : Nat) : List (Nat × Nat × Nat) :=
  match p with
  | .hbm _ va pages =>
    (cutAt 65536 (n / 65536 + 2) va n).map fun e =>
      let pa := pageAddr pages e.1
      (0, pa / 64, (pa + e.2 - 1) / 64)
  | .spad c a => [(1 + c, a / 64, (a + n - 1) / 64)]
  | .handle _ act h =>
    match s.actAt act with
    | some (c, x) =>
      let r := x.handle h
      [(1 + c, r.base / 64, (r.base + r.slots * r.size - 1) / 64)]
    | none => []
  | .store off => [(4096 + die, off / 64, (off + n - 1) / 64)]
  | .bbuf o off => [(8192 + o, off / 64, (off + n - 1) / 64)]

/-- A place from an offset on; a handle's ring counts as a whole. -/
def Place.shift (p : Place) (n : Nat) : Place :=
  match p with
  | .hbm w va pages => .hbm w (va + n) pages
  | .spad c a => .spad c (a + n)
  | .handle c act h => .handle c act h
  | .store off => .store (off + n)
  | .bbuf o off => .bbuf o (off + n)

/-- The first offset that rows from byte q on can still touch. -/
def rowsFrom (rowlen pitch q : Nat) : Nat := q / rowlen * pitch + (if rowlen ≤ pitch then q % rowlen else 0)

/-- The read footprint of a job that it has not read yet, from byte q on (R210). -/
def Job.readsFrom (s : State) (die : Nat) (j : Job) (q : Nat) : List (Nat × Nat × Nat) :=
  let f := rowsFrom j.rowlen j.spitch q
  placeBlocks s die (j.src.shift f) (j.srcSpan - f)

/-- What a deal of blocks of B bytes over n targets still writes at target i from byte q on: offset and bytes. -/
def dealFrom (B n total q i : Nat) : Nat × Nat :=
  let k := q / B + (i + n - q / B % n) % n
  let off := k / n * B + (if k = q / B then q % B else 0)
  (off, total / B / n * B + (if i < total / B % n then B else 0) - off)

/-- The write footprint of a job that it has not written yet, from byte q on (R210). -/
def Job.writesFrom (s : State) (die : Nat) (j : Job) (q : Nat) : List (Nat × Nat × Nat) :=
  match j.deal, j.dst with
  | some (B, first, width, n), .spad _ x =>
    (List.range n).filterMap fun i =>
      let (off, len) := dealFrom B n j.total q i
      if len = 0 then none else some (1 + dealCore first width i, (x + off) / 64, (x + off + len - 1) / 64)
  | _, p =>
    let f := rowsFrom j.rowlen j.dpitch q
    placeBlocks s die (p.shift f) (j.dstSpan - f)

/-- The 64-byte blocks of a weight-store job that have not moved, by number (R214, R215). -/
def Job.unmoved (j : Job) : List Nat := (List.range (j.total / 64)).filter fun k => !j.moved.contains k

/-- The blocks a weight-store job reads with its block number k. -/
def Job.blockRead (s : State) (die : Nat) (j : Job) (k : Nat) : List (Nat × Nat × Nat) := placeBlocks s die (j.src.shift (64 * k)) 64
/-- The blocks a weight-store job writes with its block number k. -/
def Job.blockWrite (s : State) (die : Nat) (j : Job) (k : Nat) : List (Nat × Nat × Nat) := placeBlocks s die (j.dst.shift (64 * k)) 64

/-- The read footprint of a job that it has not read yet. -/
def Job.toRead (s : State) (die : Nat) (j : Job) : List (Nat × Nat × Nat) :=
  if j.ws then (j.unmoved.map fun k => j.blockRead s die k).flatten else j.readsFrom s die j.done
/-- The write footprint of a job that it has not written yet. -/
def Job.toWrite (s : State) (die : Nat) (j : Job) : List (Nat × Nat × Nat) :=
  if j.ws then (j.unmoved.map fun k => j.blockWrite s die k).flatten else j.writesFrom s die j.done

/-- Whether two footprints share a block. -/
def overlaps (xs ys : List (Nat × Nat × Nat)) : Bool :=
  xs.any fun x => ys.any fun y => x.1 == y.1 && x.2.1 ≤ y.2.2 && y.2.1 ≤ x.2.2

/-- The earlier jobs of a die's table. -/
def earlier (jobs : List Job) (id : Nat) : List Job := jobs.takeWhile fun j => j.id != id

/-- Whether reads and writes of blocks by a job must still wait for an earlier one of its table (R210): for a write of a read or written
block that is not performed, or at its remote home not acknowledged; for a read of a written block that is not performed. -/
def awaitsEarlier (s : State) (die : Nat) (j : Job) (reads writes : List (Nat × Nat × Nat)) : Bool :=
  ((earlier (s.die die).jobs j.id).any fun e =>
      overlaps reads (e.toWrite s die) || overlaps writes (e.toRead s die) || overlaps writes (e.toWrite s die))
    || s.writes.any fun w => w.2.job != 0 && decide (w.2.job < j.wid) && dieOf w.2.own.core == die
        && !w.2.lines.isEmpty && overlaps (reads ++ writes) [(0, w.2.block, w.2.block)]

/-- A job of a die. -/
def Die.job (d : Die) (id : Nat) : Option Job := d.jobs.find? fun j => j.id == id
/-- Replace a job. -/
def Die.putJob (d : Die) (j : Job) : Die := { d with jobs := d.jobs.map fun k => if k.id = j.id then j else k }

/-- How many ledger entries a job has: one, or one for each target of a deal. -/
def Job.entries (j : Job) : Nat :=
  match j.deal with
  | some (_, _, _, n) => n
  | none => 1

/-- A job is complete when its last byte is written and every granule of it at a remote home is acknowledged. -/
def Job.complete (s : State) (j : Job) : Bool :=
  j.done == j.total && !(s.writes.any fun w => w.2.job == j.wid && !w.2.lines.isEmpty)

/-- Remove a job and acknowledge its writes (R219). -/
def State.endJob (s : State) (die : Nat) (j : Job) : State :=
  let s := s.modDie die fun d => { d with jobs := d.jobs.filter fun k => k.id != j.id }
  { s with writes := s.writes.filter fun w => !(j.wid ≤ w.1 && w.1 < j.wid + j.entries) }

/-- A job that is complete leaves the table. -/
def State.settleJob (s : State) (die : Nat) (j : Job) : State := if j.complete s then s.endJob die j else s

/-! ## Moving bytes -/

/-- Read `n` bytes of a place from an offset, with whether any burst was poisoned and delivered as zero (R198); none when a
memory node is down. -/
def placeRead (s : State) (die : Nat) (p : Place) (off n : Nat) : Option (List Byte × Bool) :=
  match p with
  | .hbm _ va pages =>
    (cutAt 64 (n / 64 + 2) (va + off) n).foldl (fun acc e =>
      match acc with
      | none => none
      | some (bs, pz) =>
        let pa := pageAddr pages e.1
        if !s.memUp (homeDie pa) then none
        else if s.poison.contains (granuleOf pa) then some (bs ++ List.replicate e.2 0, true)
        else some (bs ++ s.hbmRead pa e.2, pz)) (some ([], false))
  | .spad c a => some (s.spadRead c (a + off) n, false)
  | .handle _ _ _ => some ([], false)
  | .store o => some (mread (s.die die).store (o + off) n, false)
  | .bbuf o b => some (mread (s.octet o).bbuf (b + off) n, false)

/-- Whether the memory nodes of a range answer. -/
def placeUp (s : State) (p : Place) (off n : Nat) : Bool :=
  match p with
  | .hbm _ va pages => (cutAt 64 (n / 64 + 2) (va + off) n).all fun e => s.memUp (homeDie (pageAddr pages e.1))
  | _ => true

/-- Write bytes that land in a core's scratchpad: lost and counted when the core is not running (R153, L20). -/
def State.landSpad (s : State) (c a : Nat) (bs : List Byte) : State :=
  if s.isRunning c then s.spadWrite c a bs
  else s.modDie (dieOf c) fun d => { d with tele := { d.tele with discardedLandings := d.tele.discardedLandings + 1 } }

/-- A granule that a job writes: applied at its home. One homed elsewhere leaves the die's far-read cache now and again when its
acknowledgement, a ledger entry of the job's, passes there (R226); the acknowledgement brings the raise of the sync word (R208). -/
def State.jobWrite (s : State) (die : Nat) (j : Job) (pa : Nat) (bs : List Byte) (raise : Option (Nat × Raise)) : State :=
  let s := s.nodeWrite pa (bs.map some)
  if homeDie pa = die then (match raise with
    | some (c, r) => if s.isRunning c then s.queueRaise c r else s
    | none => s)
  else
    let (w, s) := s.fresh
    let rec_ : WriteRec :=
      { own := j.own, home := memNode (homeDie pa), lines := [granuleOf pa], job := j.wid, block := pa / 64, raise := raise }
    let s := { s with writes := tput s.writes w rec_ }
    (s.modDie die fun d => d.dropLine (granuleOf pa)).post
      ⟨2, memNode (homeDie pa), j.own.core, .ack w [granuleOf pa]⟩

/-- Write bytes of a job to a place from an offset, and raise its sync word as they are written. -/
def placeWrite (s : State) (die : Nat) (j : Job) (p : Place) (off : Nat) (bs : List Byte) (raise : Nat → Option (Nat × Raise)) : State :=
  let raised (s : State) : State := match raise bs.length with
    | some (c, r) => if s.isRunning c then s.queueRaise c r else s
    | none => s
  match p with
  | .hbm _ va pages =>
    ((cutAt 64 (bs.length / 64 + 2) (va + off) bs.length).foldl (fun (q : State × List Byte) e =>
      (q.1.jobWrite die j (pageAddr pages e.1) (q.2.take e.2) (raise e.2), q.2.drop e.2)) (s, bs)).1
  | .spad c a => raised (s.landSpad c (a + off) bs)
  | .handle _ act h =>
    match s.actAt act with
    | some (c, x) => raised (s.landSpad c ((x.handle h).writeAt + off) bs)
    | none => raised s
  | .store o => raised (s.modDie die fun d => { d with store := mwrite d.store (o + off) bs })
  | .bbuf o b => raised (s.modOctet o fun t => { t with bbuf := mwrite t.bbuf (b + off) bs })

/-- The sync word that byte q of a job raises: core and address (R208, R211). -/
def Job.wordAt (j : Job) (q : Nat) : Option (Nat × Nat) :=
  match j.sw, j.deal with
  | some (c, a), none => some (c, a)
  | some (_, a), some (B, first, width, n) => some ((dealAt B first width n q).1, a)
  | none, _ => none

/-- Bytes of a slot of a handle, 4096 when its activation has ended. -/
def State.slotBytes (s : State) (act h : Nat) : Nat :=
  match s.actAt act with
  | some (_, x) => (x.handle h).size
  | none => 4096

/-- Where byte q of a job lands: place and offset. -/
def Job.target (s : State) (j : Job) (q : Nat) : Place × Nat :=
  match j.deal, j.dst with
  | some (B, first, width, n), .spad _ x =>
    let t := dealAt B first width n q
    (.spad t.1 x, t.2)
  | _, .handle c act h => (.handle c act h, q % s.slotBytes act h)
  | _, p => (p, j.dstOff q)

/-- The bytes from q on that stay within one row, deal block or handle slot. -/
def Job.room (s : State) (j : Job) (q : Nat) : Nat :=
  let row := j.rowlen - q % j.rowlen
  match j.deal, j.dst with
  | some (B, _, _, _), _ => min row (B - q % B)
  | _, .handle _ act h => let z := s.slotBytes act h; min row (z - q % z)
  | _, _ => row

/-- Whether the handle a job fills has a free slot for byte q (R208). -/
def Job.slotFree (s : State) (j : Job) : Bool :=
  match j.dst with
  | .handle _ act h =>
    match s.actAt act with
    | some (_, x) => 0 < x.freeSlots h
    | none => true
  | _ => true

/-- A slot of a handle filled by a copy engine (R180, R208). -/
def Ctx.engineFill (x : Ctx) (h : Nat) : Ctx :=
  let m := x.mark h
  let r := x.handle h
  { x with handles := tput x.handles h { r with filled := r.filled + 1, widx := if r.slots = 0 then 0 else (r.widx + 1) % r.slots }
           region := { x.region with handles := tput x.region.handles h { m with engine := m.engine + 1 } } }

/-- Advance the produce side when a slot's last byte has landed. -/
def fillSlot (s : State) (j : Job) (q : Nat) : State :=
  match j.dst with
  | .handle _ act h => if q % s.slotBytes act h = 0 then s.modAct act fun y => y.engineFill h else s
  | _ => s

/-- A part of `n` bytes of a started job lands (R208): it is read, written, and raises its sync word; the last part ends the job.
None when the part cannot land now. -/
def landPart (s : State) (die : Nat) (j : Job) (n : Nat) : Option State :=
  let q := j.done
  let (dst, off) := j.target s q
  if !j.started || n = 0 || j.room s q < n || j.total < q + n || !j.slotFree s
      || awaitsEarlier s die j (placeBlocks s die (j.src.shift (j.srcOff q)) n) (placeBlocks s die (dst.shift off) n) then none else
    match placeRead s die j.src (j.srcOff q) n with
    | none => none
    | some (bs, pz) =>
      if !placeUp s dst off n then none else
        let word := j.wordAt q
        let s := placeWrite s die j dst off bs fun n => word.map fun e => (e.1, ⟨e.2, n, pz, j.own.launch, j.own.vf⟩)
        let s := fillSlot s j (q + n)
        some ((s.modDie die fun d => d.putJob { j with done := q + n }).settleJob die { j with done := q + n })

/-- The pointer a failing job names: source or destination, the offset applied (R257). -/
def Job.failAt (s : State) (j : Job) (die : Nat) : Option (Word × Bool) :=
  let q := j.done
  let ptr (p : Place) (off : Nat) : Word := match p with
    | .hbm w _ _ => ptrAt w (ptrOff w + off)
    | _ => 0
  let n := min (j.room s q) 8
  let t := j.target s q
  if (placeRead s die j.src (j.srcOff q) n).isNone then some (ptr j.src (j.srcOff q), false)
  else if !placeUp s t.1 t.2 n then some (ptr t.1 t.2, true)
  else none

/-- The sync words of a job. -/
def Job.words (j : Job) : List (Nat × Nat) :=
  match j.sw, j.deal with
  | some (c, a), none => [(c, a)]
  | some (_, a), some (_, first, width, n) => (List.range n).map fun i => (dealCore first width i, a)
  | none, _ => []

/-- A job that meets MNODE stops (R212): ER in its sync words, the code kept for `cpyst`, a report. -/
def stopJob (s : State) (die : Nat) (j : Job) (at_ : Word) (write : Bool) : State :=
  let s := j.words.foldl (fun s e => s.putSync e.1 e.2 { syncWord (s.core e.1).spad e.2 with er := true }) s
  let s := s.modAct j.own.act fun x => if x.copyFail = 0 then { x with copyFail := cMNODE } else x
  (s.report j.own cMNODE 0 at_ true write).endJob die j

/-! ## Instructions -/

/-- Copy jobs of an octet that are not finished: the card slots in use (R207). -/
def State.cards (s : State) (c : Nat) : Nat :=
  ((s.die (dieOf c)).jobs.filter fun j => !j.ws && octetOf j.own.core == octetOf c).length

/-- The waits of a copy instruction at issue (R207): a free card slot, and the acknowledgements of its context's earlier writes. -/
def copyWait (s : State) : Act Unit :=
  waitFor (s.cards s.cur < 32 && !(s.unacked (s.owner 0) fun _ => true))

/-- The pages of a translated range: (virtual page, physical page). -/
def pagesOf (va : Nat) (ps : List (Nat × Nat × Bool)) : Table Nat :=
  (ps.foldl (fun (acc : Nat × Table Nat) (p : Nat × Nat × Bool) => (acc.1 + p.2.1, tput acc.2 (acc.1 / 65536) (p.1 / 65536))) (va, [])).2

/-- The place of a checked operand (R183, R208). -/
def placeOf (s : State) (o : Operand) (a : Nat) (es : Found) : Place :=
  if isSpad o.x then .spad s.cur a else .hbm o.x a (pagesOf a es.pieces)

/-- The home a place's writes are acknowledged by. -/
def Place.home (p : Place) : Nat :=
  match p with
  | .spad c _ => c
  | .handle c _ _ => c
  | .hbm _ va pages => memNode (homeDie (pageAddr pages va))
  | .store _ => 4095
  | .bbuf _ _ => 4095

/-- Enter a job into the footprint table of the issuing die, its writes into the ledger, its pages into the summary. -/
def acceptJob (s : State) (j : Job) : State :=
  let die := s.myDie
  let homes := match j.deal with
    | some (_, first, width, n) => (List.range n).map (dealCore first width)
    | none => [j.dst.home]
  let wid := s.serial
  let s := homes.foldl (fun s h =>
    let (w, s) := s.fresh
    { s with writes := tput s.writes w { own := j.own, home := h, lines := [], job := wid } }) s
  let s := match j.dst with
    | .hbm _ _ pages => s.modCtx fun x => pages.foldl (fun (x : Ctx) (p : Nat × Nat) => x.notePage p.2) x
    | _ => s
  s.modDie die fun d => { d with nextJob := d.nextJob + 1, jobs := d.jobs ++ [{ j with id := d.nextJob, wid := wid }] }

/-- The sync word of a copy as an operand: none for register field 0, else the local word (R208). -/
def jobWord (s : State) (w i : Nat) : List Operand := if w = 0 then [] else [swOperand (atInst (s.ctx.sreg w) i) true]

/-- The shape of a copy in bytes: row length, rows, source pitch, destination pitch (R208, R209). -/
structure CopyShape where
  rowlen : Nat
  rows : Nat
  spitch : Nat
  dpitch : Nat
  deriving DecidableEq, Repr

/-- The shape of `cpy` (R208). -/
def cpyShape (s : State) (z : Word) : Act CopyShape :=
  let n := z.toNat
  if n % 8 ≠ 0 ∨ n < 8 ∨ 2 ^ 24 < n then fault s cBOUNDS 3 z else .ok ⟨n, 1, n, n⟩

/-- The shape of `cpy2` (R209). -/
def cpy2Shape (s : State) (z : Word) : Act CopyShape :=
  let len := fld z 15 0
  let rows := fld z 31 16
  if rows = 0 ∨ len = 0 ∨ fld z 63 48 < len then fault s cBOUNDS 3 z
  else .ok ⟨8 * len, rows, 8 * fld z 47 32, 8 * fld z 63 48⟩

/-- A job whose counts, addresses and alignment are checked (R184, steps 1 and 2): its destination, if an address names it, and its
source with the addresses of step 1. -/
structure JobPlan where
  job : Job
  dst : Option (Operand × Nat)
  src : Operand × Nat
  deriving DecidableEq, Repr

/-- Steps 3 and 4 of R184 for a planned job, which has its places then (R207). -/
def JobPlan.translated (p : JobPlan) (s : State) : Act (State × Job) := do
  let (s, ds) ← match p.dst with
    | some d => d.1.find s d.2
    | none => pure (s, [])
  let (s, es) ← p.src.1.find s p.src.2
  match p.dst with
  | some d => d.1.permit s ds
  | none => pure ()
  p.src.1.permit s es
  let dst := match p.dst with
    | some d => placeOf s d.1 d.2 ds
    | none => p.job.dst
  pure (s, { p.job with dst := dst, src := placeOf s p.src.1 p.src.2 es })

/-- One planned copy job (R207 to R209); into a handle the rows follow each other. -/
def copyJob (s : State) (word x y z w m : Nat) (shape : State → Word → Act CopyShape) (i : Nat) : Act JobPlan := do
  let c := s.ctx
  let sh ← shape s (atInst (c.sreg z) i)
  let src : Operand := ⟨atInst (c.sreg y) i, (sh.rows - 1) * sh.spitch + sh.rowlen, 8, permR, false, none⟩
  let sw := jobWord s w i
  let word_ := (sw.head?.map fun o => o.x.toNat).map fun a => (s.cur, a)
  let job (dst : Place) (dpitch : Nat) : Job :=
    ⟨0, s.owner word, 0, dst, .store 0, sh.rowlen, sh.rows, sh.spitch, dpitch, none, word_, false, 0, false, []⟩
  if 8 ≤ m then
    let h := m - 8
    let r := c.handle h
    if r.slots = 0 then fault s cBOUNDS 3 (wd (52 + h))
    if sh.rowlen * sh.rows % r.size ≠ 0 then fault s cBOUNDS 3 (wd (sh.rowlen * sh.rows))
    let as ← checkOperands s (src :: sw)
    pure ⟨job (.handle s.cur c.id.act h) sh.rowlen, none, (src, as.headD 0)⟩
  else
    let dst : Operand := ⟨atInst (c.sreg x) i, (sh.rows - 1) * sh.dpitch + sh.rowlen, 8, permW, true, none⟩
    let as ← checkOperands s (dst :: src :: sw)
    pure ⟨job (.store 0) sh.dpitch, some (dst, as.headD 0), (src, (as.drop 1).headD 0)⟩

/-- Whether a job touches the scratchpad of a core (R356): none, reading it, writing it. -/
def Job.touches (j : Job) (c : Nat) : Option Bool :=
  let writes := (match j.dst with
      | .spad d _ => d == c || (match j.deal with
        | some (_, first, width, n) => (List.range n).any fun i => dealCore first width i == c
        | none => false)
      | .handle _ _ _ => true
      | _ => false) || j.words.any fun e => e.1 == c
  let reads := match j.src with
    | .spad d _ => d == c
    | _ => false
  if writes then some true else if reads then some false else none

/-- The waits of jobs for matrix commands of the context (R356). -/
def jobsWait (s : State) (js : List Job) : Act Unit := do
  if js.any fun j => j.touches s.cur == some true then spadWait s true
  if js.any fun j => j.touches s.cur == some false then spadWait s false

/-- Issue copy jobs over the active instances (R207): each instance's checks, with the waits before its translation, then the jobs, each
once a card slot is free. -/
def issueJobs (s : State) (S : Nat) (plan : State → Nat → Act JobPlan) : Act State :=
  planned (fun s _ => s.cards s.cur < 32)
    (fun s p => match p with
      | .job j => acceptJob s j
      | _ => s)
    (fun s => do
      let (s, js) ← widen s S fun s i => do
        let p ← plan s i
        copyWait s
        p.translated s
      jobsWait s (js.map fun j => j.2)
      pure (s, js.map fun j => .job j.2)) s

/-- `cpy` and `cpy2`. -/
def copy (word x y z w m : Nat) (shape : State → Word → Act CopyShape) (s : State) : Host.Outcome State Fault Refusal :=
  let regs := (if 8 ≤ m then [] else [x]) ++ [y, z] ++ (if w = 0 then [] else [w])
  onward { word := word, reads := regs, ends := true }
    (fun s => do
      if m < 8 then placing s [y] [x]
      issueJobs s (s.ctx.tagUnion regs) fun s i => copyJob s word x y z w m shape i) s

/-- `cpy` (R208). -/
def execCpy (x y z w m : Nat) (s : State) := copy (wordCpy x y z w m) x y z w m cpyShape s
/-- `cpy2` (R209). -/
def execCpy2 (x y z w m : Nat) (s : State) := copy (wordCpy2 x y z w m) x y z w m cpy2Shape s

/-- One planned deal (R211). -/
def dealJob (s : State) (word x y z w : Nat) (i : Nat) : Act JobPlan := do
  let c := s.ctx
  let p := atInst (c.sreg w) i
  let n := (atInst (c.sreg z) i).toNat
  let lb := fld p 4 0
  let first := fld p 42 32
  let width := fld p 19 16 + 1
  let height := fld p 23 20 + 1
  if n % 8 ≠ 0 ∨ n < 8 ∨ 2 ^ 24 < n then fault s cBOUNDS 3 (wd n)
  if fld p 31 24 ≠ 0 ∨ fld p 15 5 ≠ 0 ∨ lb < 6 ∨ 16 < lb ∨ 16 < rowOf first + height ∨ 16 < colOf first + width then
    fault s cBOUNDS 3 p
  if n % 2 ^ lb ≠ 0 then fault s cBOUNDS 3 (wd n)
  let num := width * height
  let xv := atInst (c.sreg x) i
  let blocks := n / 2 ^ lb
  let dst : Operand := ⟨xv, roundUp blocks num / num * 2 ^ lb, 8, permW, true, some true⟩
  let a ← dst.bound s
  let targets := (List.range num).map (dealCore first width)
  match targets.find? fun t => !inQuads s.myVf t with
  | some _ => faultAt s cPERM 0 p true
  | none => pure ()
  let sw := fld p 63 44
  let words : List Operand := if fld p 43 43 = 1 then [swOperand (wd sw) true] else []
  let src : Operand := ⟨atInst (c.sreg y) i, n, 8, permR, false, some false⟩
  let as ← checkOperands s (src :: words)
  dst.aligned s
  pure ⟨⟨0, s.owner word, 0, .spad first a, .store 0, n, 1, n, n, some (2 ^ lb, first, width, num),
    if words.isEmpty then none else some (first, sw), false, 0, false, []⟩, none, (src, as.headD 0)⟩

/-- `cpydl` (R211). -/
def execCpydl (x y z w : Nat) (s : State) : Host.Outcome State Fault Refusal :=
  let word := wordCpydl x y z w
  onward { word := word, reads := [x, y, z, w], ends := true }
    (fun s => do
      placing s [y] [x]
      issueJobs s (s.ctx.tagUnion [x, y, z, w]) fun s i => dealJob s word x y z w i) s

/-- `cpyst` (R212): jobs of the context, the code of its first failed job, free card slots; reading clears the code. -/
def execCpyst (x : Nat) (s : State) : Host.Outcome State Fault Refusal :=
  onward { word := wordCpyst x, writes := [x], ends := true, once := true }
    (fun s => do
      let c := s.ctx
      let o := s.owner 0
      let n := ((s.die s.myDie).jobs.filter fun j =>
        !j.ws && j.own.act == o.act).length
      let v := wd (n % 65536 + c.copyFail * 65536 + (32 - s.cards s.cur) * 2 ^ 24)
      writeS (s.modCtx fun y => { y with copyFail := 0 }) x 0 fun _ => v) s

/-- The engine takes up a job; its parts wait for the hazards of their own blocks (R210). -/
def execCopyJobStart (die job : Nat) (s : State) : Host.Outcome State Fault Refusal :=
  match (s.die die).job job with
  | some j =>
    if j.ws || j.started then .next s
    else .next (s.modDie die fun d => d.putJob { j with started := true })
  | none => .next s

/-- A part of a job lands (R208). -/
def execCopyPartLanded (die job n : Nat) (s : State) : Host.Outcome State Fault Refusal :=
  match (s.die die).job job with
  | some j => if j.ws then .next s else .next ((landPart s die j n).getD s)
  | none => .next s

/-- A job meets MNODE (R212). -/
def execCopyJobMnodeStop (die job : Nat) (s : State) : Host.Outcome State Fault Refusal :=
  match (s.die die).job job with
  | some j =>
    match (if j.started && !j.ws then j.failAt s die else none) with
    | some (p, w) => .next (stopJob s die j p w)
    | none => .next s
  | none => .next s

end Sys2Proof.Machine
end

