-- ==== Sys2Proof/Machine/WeightStore.lean ====
section
/-!
DEFINITION. Major 0x1E: the weight store, its windows and its refresh calendar (R213 to R215). The B-buffer form of `wsld` is a
matrix command and stands with those.
-/

namespace Sys2Proof.Machine

/-- The window of the executing context's virtual function on its die: byte base and bytes, none granted when both are 0. -/
def State.wsWindow (s : State) : Nat × Nat :=
  match s.myVf.ws.find? fun w => w.die == s.myDie with
  | some w => (w.base, w.blocks * 4096)
  | none => (0, 0)

/-- The byte count of a weight-store instruction (R215). -/
def wsCount (s : State) (z : Word) : Act Nat :=
  let n := z.toNat
  if n % 64 ≠ 0 then faultAt s cALIGN 0 z
  else if n < 64 ∨ Config.spadBytes < n then fault s cBOUNDS 3 z
  else .ok n

/-- The bound of a window offset (R213). -/
def wsBound (s : State) (x : Word) (n : Nat) (write : Bool) : Act Unit :=
  if s.wsWindow.2 < x.toNat + n then faultAt s cBOUNDS 1 x write else .ok ()

/-- A window offset as an offset of the store (R213, R215). -/
def wsOffset (s : State) (x : Word) (n : Nat) (write : Bool) : Act Nat := do
  wsBound s x n write
  if x.toNat % 64 ≠ 0 then faultAt s cALIGN 0 x write
  pure (s.wsWindow.1 + x.toNat)

/-- A checked job between the own scratchpad and the window (R184, R215): every bound, then every alignment. -/
def wsJob (s : State) (word n : Nat) (spad : Operand) (off : Word) (write : Bool) (w i : Nat) (ends : Nat → Place × Place) :
    Act (State × Job) := do
  let sw := jobWord s w i
  let _ ← spad.bound s
  wsBound s off n write
  let _ ← sw.mapM fun o => o.bound s
  spad.aligned s
  let o ← wsOffset s off n write
  sw.forM fun o => o.aligned s
  let e := ends o
  pure (s, ⟨0, s.owner word, 0, e.1, e.2, n, 1, n, n, none, (sw.head?.map fun o => o.x.toNat).map fun a => (s.cur, a), true, 0, false, []⟩)

/-- A checked job of `wsld` to scratchpad. -/
def wsldJob (s : State) (word x y z w i : Nat) : Act (State × Job) := do
  let c := s.ctx
  let n ← wsCount s (atInst (c.sreg z) i)
  let dst : Operand := ⟨atInst (c.sreg x) i, n, 64, permW, true, some true⟩
  wsJob s word n dst (atInst (c.sreg y) i) false w i fun o => (.spad s.cur dst.x.toNat, .store o)

/-- A checked job of `wswr`. -/
def wswrJob (s : State) (word x y z w i : Nat) : Act (State × Job) := do
  let c := s.ctx
  let n ← wsCount s (atInst (c.sreg z) i)
  let src : Operand := ⟨atInst (c.sreg y) i, n, 64, permR, false, some true⟩
  wsJob s word n src (atInst (c.sreg x) i) true w i fun o => (.store o, .spad s.cur src.x.toNat)

/-- The registers of a weight-store instruction. -/
def wsRegs (x y z w : Nat) : List Nat := [x, y, z] ++ (if w = 0 then [] else [w])

/-- `wsld` to scratchpad (R215). -/
def execWsld (x y z w : Nat) (s : State) : Host.Outcome State Fault Refusal :=
  let word := wordWsld x y z w
  onward { word := word, reads := wsRegs x y z w, ends := true }
    (fun s => do
      placing s [y] [x]
      let (s, js) ← widen s (s.ctx.tagUnion (wsRegs x y z w)) fun s i => wsldJob s word x y z w i
      jobsWait s (js.map fun j => j.2)
      pure (js.foldl (fun s j => acceptJob s j.2) s)) s

/-- `wswr` (R215): WSWR while another launch of the virtual function is accepted and not complete. -/
def execWswr (x y z w : Nat) (s : State) : Host.Outcome State Fault Refusal :=
  let word := wordWswr x y z w
  onward { word := word, reads := wsRegs x y z w, ends := true }
    (fun s => do
      let c := s.ctx
      if s.launches.any fun l => l.2.vf == c.id.vf && l.2.status == 0 && some l.1 != c.id.launch then fault s cWSWR 0
      placing s [y] [x]
      let (s, js) ← widen s (c.tagUnion (wsRegs x y z w)) fun s i => wswrJob s word x y z w i
      jobsWait s (js.map fun j => j.2)
      pure (js.foldl (fun s j => acceptJob s j.2) s)) s

/-- `wsinfo` (R215): 64 banks do not fit into bits [37:32], so that field is a free value (L62). -/
def execWsinfo (x : Nat) (s : State) : Host.Outcome State Fault Refusal :=
  onward { word := wordWsinfo x, writes := [x], once := true }
    (fun s => writeS s x 0 fun _ => wd (s.wsWindow.2 / 4096 + Config.wsBanks.toNat * 2 ^ 32 + 12 * 2 ^ 40)) s

/-! ## The store's own turn -/

/-- Whether an offset of the store lies in the bank of the open refresh window (R214). -/
def wsBlocked (d : Die) (off : Nat) : Bool := d.wsOpen && off / 4096 % 64 == d.wsSlot % 64

/-- The blocks of a weight-store job that can move now: their own hazards have cleared, and a block read from the store lies in no bank
being refreshed (R210, R214). -/
def Job.ready (s : State) (die : Nat) (j : Job) : List Nat :=
  j.unmoved.filter fun k =>
    !awaitsEarlier s die j (j.blockRead s die k) (j.blockWrite s die k) && (match j.src with
      | .store o => !wsBlocked (s.die die) (o + 64 * k)
      | _ => true)

/-- Blocks of a weight-store job move and raise its sync word by their bytes; the last ones end the job (R215). -/
def moveBlocks (s : State) (die : Nat) (j : Job) (ks : List Nat) : State :=
  let s := ks.foldl (fun (s : State) k => match placeRead s die j.src (64 * k) 64 with
    | some (bs, _) => placeWrite s die j j.dst (64 * k) bs fun _ => none
    | none => s) s
  let s := match j.sw with
    | some (c, a) => if s.isRunning c && !ks.isEmpty then s.queueRaise c ⟨a, 64 * ks.length, false, j.own.launch, j.own.vf⟩ else s
    | none => s
  let j := { j with moved := j.moved ++ ks }
  if j.unmoved.isEmpty then s.endJob die j else s.modDie die fun d => d.putJob j

/-- Whether a place is a B buffer. -/
def Place.isB : Place → Bool
  | .bbuf _ _ => true
  | _ => false

/-- What a weight-store job can move lands (R214, R215). A job toward a B buffer is carried out by the service engine. -/
def execWeightStoreLanding (die job : Nat) (s : State) : Host.Outcome State Fault Refusal :=
  match (s.die die).job job with
  | some j => if !j.ws || j.dst.isB then .next s else .next (moveBlocks s die j (j.ready s die))
  | none => .next s

/-- The refresh window of the next slot opens (R214). -/
def execWsRefreshWindowOpen (die : Nat) (s : State) : Host.Outcome State Fault Refusal :=
  let d := s.die die
  if d.wsOpen || d.wsTime < 15000 then .next s
  else .next (s.modDie die fun d => { d with wsOpen := true, wsSlot := (d.wsSlot + 1) % 64, wsTime := d.wsTime - 15000 })

/-- The open window closes 400 ns after its slot began (R214). -/
def execWsRefreshWindowClose (die : Nat) (s : State) : Host.Outcome State Fault Refusal :=
  let d := s.die die
  if !d.wsOpen || d.wsTime < 6000 then .next s else .next (s.modDie die fun d => { d with wsOpen := false })

end Sys2Proof.Machine
end

