-- ==== Sys2Proof/Machine/Launches.lean ====
section
/-!
DEFINITION. Nodes in node SRAM and the life of a launch: its status messages, its completion and its abort (R167 to R173, R263).
-/

namespace Sys2Proof.Machine

/-- The node an index names on a die. -/
def State.node (s : State) (d i : Nat) : Option Node := tlook (s.die d).nodes i
/-- Change a node. -/
def State.modNode (s : State) (d i : Nat) (f : Node → Node) : State :=
  match s.node d i with
  | some n => s.modDie d fun x => { x with nodes := tput x.nodes i (f n) }
  | none => s

/-- The node a reference names (R172). -/
def State.nodeAt (s : State) (ref : Nat) : Option Node := s.node (ref / 65536) (ref % 65536)

/-- Begin a node's completion for a completing context (R170). -/
def completeNode (s : State) (ref : Nat) (o : Owner) (pages : Option (List Nat)) : State :=
  s.modNode (ref / 65536) (ref % 65536) fun n => { n with completing := some o, pages := pages }

/-- A launch-status message of the management core of die 0, toward the event ring (R146, R171, R433). -/
def State.launchStatus (s : State) (vf w1 w2 w3 : Nat) (w4 w5 : Word) (number : Nat) : State :=
  s.postHost (schedNode 0) true
    { type := 253, words := [wd w1, wd w2, wd w3, w4, w5, wd number], vf := vf, launch := some number }

/-- Every node of a launch, by reference. -/
def State.nodesOf (s : State) (l : Nat) : List (Nat × Node) :=
  (s.dies.map fun d => d.2.nodes.filterMap fun n =>
    if n.2.launch == some l then some (d.1 * 65536 + n.1, n.2) else none).flatten

/-- Whether an activation of a launch is live on a core, in a context or in the save area. -/
def Core.carries (k : Core) (l : Nat) : Bool :=
  (k.ctxs.any fun p => p.2.status != .free && p.2.id.launch == some l)
    || (k.savedParks.any fun x => x.id.launch == some l)
    || (k.savedCtxs.any fun p => p.2.status != .free && p.2.id.launch == some l)

/-- A launch ends with a status: its nodes leave node SRAM, and the barrier records it configured, cleared ones too, return to their
reset value (R234). -/
def State.endLaunch (s : State) (l status : Nat) : State :=
  match tlook s.launches l with
  | some x =>
    let s := { s with
      launches := tput s.launches l { x with status := status }
      dies := s.dies.map fun (d : Nat × Die) => (d.1, { d.2 with nodes := d.2.nodes.filter fun n => n.2.launch != some l })
      cores := s.cores.map fun (c : Nat × Core) => (c.1, { c.2 with barriers := c.2.barriers.filter fun b =>
        (barRec b.2).launch != l }) }
    s.launchStatus x.vf status 0 0 0 0 l
  | none => s

/-- A launch is complete when every node of it is done (R171). -/
def State.checkComplete (s : State) (l : Nat) : State :=
  match tlook s.launches l with
  | some x => if x.status = 0 ∧ !x.aborting ∧ !x.broken ∧ (s.nodesOf l).all fun n => n.2.state == .done then s.endLaunch l 2 else s
  | none => s

/-- An aborted launch reports once its last activation has ended (R263). -/
def State.checkAborted (s : State) (l : Option Nat) : State :=
  match l with
  | none => s
  | some l =>
    match tlook s.launches l with
    | some x =>
      if x.status = 0 ∧ x.aborting ∧ !(s.cores.any fun c => c.2.carries l) then s.endLaunch l 3 else s
    | none => s

/-- Abort a launch: nothing of it is dispatched any more; a bound node loses its reservation (R263). -/
def State.abortLaunch (s : State) (l : Nat) : State :=
  match tlook s.launches l with
  | some x =>
    if x.status ≠ 0 then s else
    ({ s with
      launches := tput s.launches l { x with aborting := true }
      dies := s.dies.map fun (d : Nat × Die) => (d.1, { d.2 with nodes := d.2.nodes.map fun (n : Nat × Node) =>
        (n.1, if n.2.launch == some l && n.2.state == NodeState.bound then { n.2 with state := .done } else n.2) }) }).checkAborted (some l)
  | none => s

end Sys2Proof.Machine
end

