-- ==== Sys2Proof/Machine/Messages.lean ====
section
/-!
DEFINITION. Traffic as it arrives, the mailbox and the pending-binding queue, refusals, the start and end of activations, and
majors 0x22 and 0x23: sends, replies and handler instructions (R146 to R165).
-/

namespace Sys2Proof.Machine

/-! ## Traffic (R10, R148) -/

/-- Item k of the traffic when nothing of its channel, sender and receiver stands before it. -/
def State.flight (s : State) (k : Nat) : Option Flight :=
  match nth s.net k with
  | some f => if (s.net.take k).any fun g => g.chan == f.chan && g.src == f.src && g.dst == f.dst then none else some f
  | none => none

/-- Take item k off the traffic. -/
def State.dropFlight (s : State) (k : Nat) : State := { s with net := dropAt s.net k }

/-- Count one landing that a core which is not running loses (R153). -/
def State.lost (s : State) (c : Nat) : State :=
  s.modDie (dieOf c) fun d => { d with tele := { d.tele with discardedLandings := d.tele.discardedLandings + 1 } }

/-! ## Messages and who sent them (R156 to R159) -/

/-- Whether a message is the system's (R149). -/
def Msg.isSystem (m : Msg) : Bool := 240 ≤ m.type
/-- Whether the host sent it (R158). -/
def Msg.fromHost (m : Msg) : Bool := m.src == 0x10000
/-- Whether a core sent it by an instruction of major 0x22 (R158). -/
def Msg.fromCore (m : Msg) : Bool := m.src.toNat < 2048
/-- The value of s7 (R27). -/
def Msg.s7 (m : Msg) : Word := wd (m.type + m.tag * 256)
/-- Scalar word i of a message, zero beyond those sent. -/
def Msg.word (m : Msg) (i : Nat) : Word := (nth m.words i).getD 0

/-- The refusal of a message by a core (R157). -/
def refusalOf (c : Nat) (m : Msg) (reason : Nat) : Msg :=
  { type := 255, tag := m.tag, words := m.words, vec := m.vec, src := wd c,
    sys := wd ((if m.vec.isSome then 2 ^ 31 else 0) + m.words.length % 8 * 2 ^ 28 + m.dst % 2048 * 2 ^ 16 + m.type * 256 + reason),
    dst := m.src.toNat % 2048, vf := m.vf, launch := m.launch }

/-- Refuse a message: to the sending core, or for a host message toward the event ring (R157, R433). -/
def State.refuse (s : State) (c : Nat) (m : Msg) (reason : Nat) : State :=
  let r := refusalOf c m reason
  if m.fromHost then s.postHost c true r else s.postReply c r

/-! ## Starting activations (R155, R156, R168) -/

/-- The node that reserves a context of a core, with its reference. -/
def State.reserver (s : State) (c x : Nat) : Option (Nat × Node) := (s.nodesOn c).find? fun n => n.2.lanes.contains x

/-- Vector registers a node keeps that no live activation of it holds (R168). -/
def State.nodeSpare (s : State) (c : Nat) (n : Nat × Node) : Nat :=
  n.2.vregs - (s.core c).live.foldl (fun t p => if p.2.id.lane == some n.1 then t + p.2.id.nv else t) 0

/-- Whether a context is eligible for a launch and has the registers an activation needs. -/
def State.fits (s : State) (c x : Nat) (launch : Option Nat) (vregs : Nat) : Bool :=
  (s.ctxAt c x).status == .free &&
    (match s.reserver c x with
     | some n => launch.isSome && launch == n.2.launch && vregs ≤ s.poolFree c + s.nodeSpare c n
     | none => vregs ≤ s.poolFree c)

/-- Live activations of a type on a core, parked and pre-empted ones too (R155, R260, R265). -/
def Core.liveOf (k : Core) (t : Nat) : Nat :=
  (((k.ctxs ++ k.savedCtxs).map fun p => p.2) ++ k.savedParks).countP
    fun x => x.status != .free && x.id.node.isNone && x.id.type == t

/-- The context a message would start in, with the binding it would start under (R155): the lowest eligible one. -/
def State.slotFor (s : State) (c : Nat) (m : Msg) : Option (Nat × Binding) :=
  let k := s.core c
  match tlook k.q.bindings m.type with
  | none => none
  | some b =>
    if b.conc ≤ k.liveOf m.type || k.preempted then none
    else ((List.range 8).find? fun x => s.fits c x m.launch b.vregs).map fun x => (x, b)

/-- The registers an activation starts with (R27, R156). -/
def startRegs (m : Msg) (s7 s8 : Word) : Regs :=
  { s := ((List.range 6).map fun i => (i + 1, plain (m.word i))) ++ [(7, plain s7), (8, plain s8)] }

/-- Start an activation in a context (R156); spare registers it takes hold no duplicates any more (R122). -/
def State.startAct (s : State) (c x : Nat) (entry : Word) (nv : Nat) (m : Msg) (slice : Nat) (node lane : Option Nat) :
    State :=
  let (a, s) := s.fresh
  let id : Ident := { act := a, nv := nv, msg := m, launch := m.launch, vf := m.vf, slice := slice, type := m.type, node := node, lane := lane,
                      system := m.isSystem && node.isNone,
                      serves := if m.type = 254 ∧ fld (m.word 0) 19 19 = 1 then some (fld (m.word 4) 31 16) else none }
  (s.setCtxAt c x { status := .running, id := id, pc := entry, regs := startRegs m m.s7 m.src, region := { entry := entry } }).trim c

/-- Start the activation of a message in a slot. -/
def State.startIn (s : State) (c : Nat) (m : Msg) (slot : Nat × Binding) : State :=
  let slice := match s.reserver c slot.1 with
    | some n => n.2.slice
    | none => 0
  s.startAct c slot.1 slot.2.entry slot.2.vregs m slice none ((s.reserver c slot.1).map fun n => n.1)

/-- The oldest entry of the mailbox that can start, of the given kind, with its place and slot; ordinary entries of one type leave
in order (R154, R155). -/
def State.startable (s : State) (c : Nat) (system : Bool) : List Msg → List Nat → Nat → Option (Nat × Msg × Nat × Binding)
  | [], _, _ => none
  | m :: ms, seen, i =>
    if m.isSystem != system || seen.contains m.type then s.startable c system ms seen (i + 1)
    else match s.slotFor c m with
      | some slot => some (i, m, slot)
      | none => s.startable c system ms (if system then seen else m.type :: seen) (i + 1)

/-- A resumed activation of the save area takes the next free context, ahead of the mailbox (R263). -/
def State.resumeOne (s : State) (c : Nat) : Option State :=
  if (s.core c).preempted then none else
  match findIdx (fun (x : Ctx) => x.park.resume) (s.core c).savedParks 0 with
  | some (i, x) =>
    match (List.range 8).find? fun j => s.fits c j x.id.launch (x.id.nv + x.instRegs) with
    | some j =>
      let y := { x.tinkBack with status := .running, park := { x.park with resume := false, saved := false } }
      some (((s.modCore c fun k => { k with savedParks := dropAt k.savedParks i }).setCtxAt c j y).trim c)
    | none => none
  | none => none

/-- Start one activation: a resumed one, else from the mailbox, system entries first; none when nothing can start. -/
def State.startOne (s : State) (c : Nat) : Option State :=
  match s.resumeOne c with
  | some s => some s
  | none =>
    let box := (s.core c).q.mailbox
    match (match s.startable c true box [] 0 with
      | some e => some e
      | none => s.startable c false box [] 0) with
    | some (i, m, slot) => some ((s.modCore c fun k => { k with q := { k.q with mailbox := dropAt k.q.mailbox i } }).startIn c m slot)
    | none => none

/-! ## Arrival (R152 to R155) -/

/-- Ordinary entries of a mailbox. -/
def ordinary (box : List Msg) : Nat := (box.filter fun m => !m.isSystem).length

/-- A message that cannot be taken: refused when a core or the host sent it, otherwise it waits where it is (R202). -/
def State.refuseOrWait (s : State) (c : Nat) (m : Msg) (reason : Nat) : Option State :=
  if m.fromCore || m.fromHost then some (s.refuse c m reason) else none

/-- A message at a core that is not running (R152, R153): a send of any type is refused, data and firings are lost and counted, a
message of the system waits while the die holds the core's state. -/
def State.arriveDown (s : State) (c : Nat) (m : Msg) : Option State :=
  if m.sent then some (s.refuse c m 4)
  else if m.isSystem then (if (s.die (dieOf c)).pw.state == .hold then none else some (s.lost c))
  else if m.fromCore || m.fromHost then some (s.refuse c m 4)
  else some (s.lost c)

/-- A message arrives at a core (R154, R155); none when it waits where it is. With all 64 entries held and fewer than 56 of them
ordinary, which entries 0 to 55 that hold system messages can bring about, an ordinary message is refused with reason 1 (L63). -/
def State.arrive (s : State) (c : Nat) (m : Msg) : Option State :=
  if !s.isRunning c then s.arriveDown c m
  else if (s.core c).preempted then (if m.isSystem then none else s.refuseOrWait c m 4)
  else
    let s := (s.startOne c).getD s
    let q := (s.core c).q
    let keep (f : Queues → Queues) : Option State := some (s.modCore c fun k => { k with q := f k.q })
    if (tlook q.bindings m.type).isNone && !m.isSystem then
      if q.pendq.length < 16 then keep fun q => { q with pendq := q.pendq ++ [m] } else s.refuseOrWait c m 2
    else
      match (if q.mailbox.any fun e => e.type == m.type then none else s.slotFor c m) with
      | some slot => some (s.startIn c m slot)
      | none =>
        if m.isSystem then (if q.mailbox.length < 64 then keep fun q => { q with mailbox := q.mailbox ++ [m] } else none)
        else if ordinary q.mailbox < 56 && q.mailbox.length < 64 then keep fun q => { q with mailbox := q.mailbox ++ [m] }
        else s.refuseOrWait c m 1

/-- A message arrives (R155): item k of the traffic, at the core or at the host's rings (R433), or the head of the core's join-fire
queue. -/
def execMessageArrival (c : Nat) (k : Option Nat) (s : State) : Host.Outcome State Fault Refusal :=
  match k with
  | some k =>
    match s.flight k with
    | some ⟨ch, _, d, .msg m⟩ =>
      if d = hostNode then .next ((s.dropFlight k).hostEntry m.vf (ch == 2) m)
      else if d = c then .next (((s.dropFlight k).arrive c m).getD s)
      else .next s
    | _ => .next s
  | none =>
    match (s.core c).q.joinq with
    | m :: rest => .next (((s.modCore c fun k => { k with q := ({ k.q with joinq := rest }).feed }).arrive c m).getD s)
    | [] => .next s

/-- Pending messages of a bound type, which a full mailbox kept waiting (R161). -/
def State.retryPending (s : State) (c : Nat) : State :=
  let q := (s.core c).q
  match findIdx (fun m => (tlook q.bindings m.type).isSome) q.pendq 0 with
  | some (i, m) => ((s.modCore c fun k => { k with q := { k.q with pendq := dropAt k.q.pendq i } }).arrive c m).getD s
  | none => s

/-! ## Major 0x22 (R149 to R151, R375) -/

/-- The payload words of a send at an instance. -/
def payload (x : Ctx) (p n i : Nat) : List Word := (List.range n).map fun j => atInst (x.sreg (p + j)) i

/-- Where a message goes: a core, or the host's reply ring. -/
inductive SendTo where
  | core (c : Nat)
  | host
  deriving DecidableEq, Repr

/-- The destination of a send at an instance (R151). -/
def sendDest (s : State) (c : Word) : Act SendTo :=
  if c.toNat ≥ 2048 then faultAt s cBOUNDS 4 c
  else if !inQuads s.myVf c.toNat then faultAt s cPERM 0 c
  else .ok (.core c.toNat)

/-- The destination of a reply form (R158): a system message answers its sender only where a send or reply of a core sent it. -/
def replyDest (s : State) : Act SendTo :=
  let m := s.ctx.id.msg
  if s.ctx.id.node.isSome || (s.ctx.id.system && !m.sent) then fault s cHBIND 0
  else if m.fromHost then .ok .host
  else if m.fromCore then sendDest s m.src
  else fault s cHBIND 0

/-- Inject one message of the executing context. -/
def inject (s : State) (tgt : SendTo) (type tag : Nat) (words : List Word) (vec : Option Vec) : State :=
  let m : Msg := { type := type, tag := tag, words := words, vec := vec, src := wd s.cur, vf := s.ctx.id.vf,
                   launch := s.ctx.id.launch, sent := true }
  match tgt with
  | .core c => s.post ⟨0, s.cur, c, .msg { m with dst := c }⟩
  | .host => s.postHost s.cur false m

/-- The type and tag of a send or reply (R150, R151). -/
def sendType (x : Ctx) (t : Nat) (isReply : Bool) : Nat × Nat :=
  let v := typeTag x.hints t
  let m := x.id.msg
  if isReply then (if v.1 = 0 then m.tag % 256 else v.1, m.tag) else v

/-- The send family: `c` the destination register, none for a reply; `v` the vector operand, none for a scalar form. -/
def sendBody (s : State) (c : Option Nat) (p n t : Nat) (v : Option Nat) : Act State := do
  let x := s.ctx
  let regs := (List.range n).map (p + ·)
  let srcs := match v with
    | some v => [(1, v)]
    | none => []
  let vr := vregsOf srcs
  let T := if v = some 62 then 2 ^ x.lift.levels.length - 1 else 0
  let S := x.tagUnion (regs ++ c.toList ++ vr.map vCode) ||| T
  let (type, tag) := sendType x t c.isNone
  let (s, ds) ← widen s S fun s i => do
    let d ← match c with
      | some c => sendDest s (atInst (x.sreg c) i)
      | none => replyDest s
    let s ← parity i vr s
    pure (s, d)
  sourceChecks s srcs
  waitFor !(s.core s.cur).noCredit
  sourceWaits s srcs
  let vec : Nat → Option Vec := match v with
    | some v => let src := sourceOf s v; fun i => some (src.2 i)
    | none => fun _ => none
  let s := ds.foldl (fun s d => inject s d.2 type tag (payload x p n d.1) (vec d.1)) (s.countReads vr)
  pure (popPorts s v.toList)

/-- The registers a send reads. -/
def sendReads (c : Option Nat) (p n : Nat) (v : Option Nat) : List Nat :=
  c.toList ++ (List.range n).map (p + ·) ++ (match v with
    | some v => dataReg v
    | none => [])

/-- An instruction of the send family: it ends the region (R151). -/
def sending (word : Nat) (c : Option Nat) (p n t : Nat) (v : Option Nat) (s : State) : Host.Outcome State Fault Refusal :=
  onward { word := word, reads := sendReads c p n v, ends := true, ill := typeIll s.ctx.hints t } (fun s => sendBody s c p n t v) s

/-- `send` (R149, R151). -/
def execSend (c p n t : Nat) (s : State) := sending (wordSend c p n t) (some c) p n t none s
/-- `sendv`: the scalar words are s9 upward. -/
def execSendv (c v n t : Nat) (s : State) := sending (wordSendv c v n t) (some c) 9 n t (some v) s
/-- `reply`. -/
def execReply (p n t : Nat) (s : State) := sending (wordReply p n t) none p n t none s
/-- `replyv`. -/
def execReplyv (v n t : Nat) (s : State) := sending (wordReplyv v n t) none 9 n t (some v) s

/-! ## Major 0x23 (R160 to R165) -/

/-- The type register of `bind` and `unbind` (R161, R162). -/
def bindType (s : State) (t : Nat) : Act Nat :=
  let v := s.sv t
  if v.toNat < 240 ∨ (253 ≤ v.toNat ∧ v.toNat ≤ 255) then .ok v.toNat else fault s cHBIND 0

/-- The entry pointer of `bind` and of a node descriptor (R161). -/
def entryCheck (s : State) (e : Word) : Act Unit :=
  match ptrCheck s.myVf e permX 4 with
  | .ok _ => .ok ()
  | .perm => faultAt s cPERM 0 e
  | .bounds => faultAt s cBOUNDS 1 e

/-- Pending messages of a newly bound type, each handled as if it arrived now (R161); one that must wait stays pending. -/
def releasePending (s : State) (c t : Nat) : State :=
  let q := (s.core c).q.pendq
  let s := s.modCore c fun k => { k with q := { k.q with pendq := k.q.pendq.filter fun m => m.type != t } }
  (q.filter fun m => m.type == t).foldl (fun s m =>
    (s.arrive c m).getD (s.modCore c fun k => { k with q := { k.q with pendq := k.q.pendq ++ [m] } })) s

/-- `bind` (R161). -/
def execBind (t e c : Nat) (s : State) : Host.Outcome State Fault Refusal :=
  onward { word := wordBind t e c, reads := [t, e, c], once := true }
    (fun s => do
      let ty ← bindType s t
      entryCheck s (s.sv e)
      let w := s.sv c
      let conc := fld w 3 0
      let vregs := fld w 13 8
      if fld w 63 14 ≠ 0 ∨ fld w 7 4 ≠ 0 ∨ conc = 0 ∨ 8 < conc ∨ 48 < vregs then fault s cHBIND 0
      let b : Binding := ⟨s.sv e, conc, vregs⟩
      let s := s.modCore s.cur fun k => { k with q := { k.q with bindings := tput k.q.bindings ty b } }
      pure (releasePending s s.cur ty)) s

/-- Messages of an unbound type leave the mailbox for the pending-binding queue in order; those without room there are refused
(R162), or stay when nothing can be refused. -/
def shelve (s : State) (c : Nat) : List Msg → State
  | [] => s
  | m :: ms =>
    let s := if (s.core c).q.pendq.length < 16 then s.modCore c fun k => { k with q := { k.q with pendq := k.q.pendq ++ [m] } }
      else (s.refuseOrWait c m 2).getD (s.modCore c fun k => { k with q := { k.q with mailbox := k.q.mailbox ++ [m] } })
    shelve s c ms

/-- `unbind` (R162). -/
def execUnbind (t : Nat) (s : State) : Host.Outcome State Fault Refusal :=
  onward { word := wordUnbind t, reads := [t], once := true }
    (fun s => do
      let ty ← bindType s t
      let c := s.cur
      let box := (s.core c).q.mailbox
      let s := s.modCore c fun k => { k with q := { k.q with bindings := tdel k.q.bindings ty } }
      if 240 ≤ ty then pure s
      else
        let s := s.modCore c fun k => { k with q := { k.q with mailbox := k.q.mailbox.filter fun m => m.type != ty } }
        pure (shelve s c (box.filter fun m => m.type == ty))) s

/-- The owner of what an activation has written. -/
def Ctx.ownerOf (x : Ctx) (c i : Nat) : Owner :=
  { core := c, ctx := i, act := x.id.act, vf := x.id.vf, launch := x.id.launch, pc := x.pc }

/-- Whether a cochain register waits for seam arrivals (R280). -/
def KReg.pushed (k : KReg) : Bool := fld k.w0 43 42 == 1

/-- Further arrivals for a pushed register of a slice are to be discarded (R314). -/
def Core.forget (k : Core) (slice n : Nat) (r : KReg) : Core :=
  if r.pushed && r.count != 0 then
    { k with seam := { k.seam with gone := k.seam.gone ++ [⟨slice, fld r.w0 36 36, n, r.kind, r.count⟩] } }
  else k

/-- The same for every pushed register of an activation that ends. -/
def Core.forgetAll (k : Core) (x : Ctx) : Core :=
  x.regs.k.foldl (fun (k : Core) (e : Nat × KReg) => k.forget x.id.slice e.1 e.2) k

/-- What else the end of an activation brings (R163, R314): the start activation of a node that is not held begins the node's completion,
unless it is aborted; an aborted launch may be over. -/
def State.afterEnd (s : State) (c i : Nat) (x : Ctx) (complete : Bool) : State :=
  let s := s.modCore c fun k => k.forgetAll x
  let s := match x.id.node with
    | some ref =>
      match s.nodeAt ref with
      | some n =>
        if !complete || n.held || n.completing.isSome || n.state != NodeState.running then s
        else completeNode s ref (x.ownerOf c i) x.pages
      | none => s
    | none => s
  s.checkAborted x.id.launch

/-- The end of the activation in a context: its context and registers are free. -/
def State.endAt (s : State) (c i : Nat) (complete : Bool) : State :=
  let x := s.ctxAt c i
  (s.setCtxAt c i {}).afterEnd c i x complete

/-- The end of the executing activation (R163). -/
def endActivation (s : State) : State := s.endAt s.cur s.curCtx true

/-- What `done` and `refuse` check and wait for: no open frame (R381), every matrix command completed, no pending accumulator
trap (R352). -/
def endCheck (s : State) : Act Unit := do
  if !s.ctx.lift.frames.isEmpty then fault s cLJOIN 2
  waitFor s.myCommands.isEmpty
  accfTrap s

/-- `done` (R163). -/
def execDone (s : State) : Host.Outcome State Fault Refusal :=
  onward { word := wordDone, ends := true } (fun s => do endCheck s; pure (endActivation s)) s

/-- `refuse` (R164). -/
def execRefuse (s : State) : Host.Outcome State Fault Refusal :=
  onward { word := wordRefuse, ends := true }
    (fun s => do
      let x := s.ctx
      if x.id.node.isSome || x.id.system then fault s cHBIND 0
      endCheck s
      pure (endActivation (if x.id.msg.fromCore || x.id.msg.fromHost then s.refuse s.cur x.id.msg 3 else s))) s

/-- What `msgrd` reads (R165), none for an index that is ILL. -/
def msgField (m : Msg) (node : Bool) (i : Nat) : Option Word :=
  if i < 6 then some (m.word i)
  else if i = 6 then some (if node then 0 else m.s7)
  else if i = 7 then some m.src
  else if i = 8 then some m.sys
  else if 16 ≤ i ∧ i < 32 then some (match m.vec with
    | some v => wd (bits v.toNat (64 * (i - 16)) 64)
    | none => 0)
  else none

/-- `msgrd` (R165). -/
def execMsgrd (d i : Nat) (s : State) : Host.Outcome State Fault Refusal :=
  let v := msgField s.ctx.id.msg s.ctx.id.node.isSome i
  onward { word := wordMsgrd d i, writes := [d], once := true, ill := v.isNone } (fun s => writeS s d 0 fun _ => v.getD 0) s

end Sys2Proof.Machine
end

