-- ==== Sys2Proof/Machine/Ports.lean ====
section
/-!
DEFINITION. The package's ports and the Lace link layer: flits, credits, replay (R12, R415 to R418).
-/

namespace Sys2Proof.Machine

/-- Port p of the package: two on each die. -/
def State.portAt (s : State) (p : Nat) : Port := if p % 2 = 0 then (s.die (p / 2)).port0 else (s.die (p / 2)).port1
/-- Change a port. -/
def State.modPort (s : State) (p : Nat) (f : Port → Port) : State :=
  s.modDie (p / 2) fun d => if p % 2 = 0 then { d with port0 := f d.port0 } else { d with port1 := f d.port1 }

/-- Free slots of a channel. -/
def Port.credit (q : Port) (ch : Nat) : Nat := (nth q.credits ch).getD 0

/-- Fill up with zeros, and cut. -/
def padTo (n : Nat) (bs : List Byte) : List Byte := (bs ++ List.replicate (n - bs.length) 0).take n

/-- A flit of 256 bytes (R415): number, channel, credit increments, payload, then CRC and FEC bytes. -/
def flitBytes (seq ch : Nat) (inc : List Nat) (payload : List Byte) : List Byte :=
  let i (k : Nat) : Nat := (nth inc k).getD 0 % 64
  let body := leBytes 4 (seq % 4096 + ch % 4 * 2 ^ 12 + i 0 * 2 ^ 14 + i 1 * 2 ^ 20 + i 2 * 2 ^ 26) ++ padTo 240 payload
  body ++ leBytes 12 (Config.flitCheck body).toNat

/-- The credit increments a flit returns now (R417); those of the request channel are withheld while the reorder buffer is full (R409). -/
def Port.returns (q : Port) : List Nat := q.owed.mapIdx fun i n => if i = 0 ∧ q.withheld then 0 else min 63 n

/-- Send one flit: it is numbered, returns the increments owed, and is kept among the last 256 (R416, R417). -/
def Port.emit (q : Port) (ch : Nat) (payload : List Byte) : Port :=
  { q with txSeq := (q.txSeq + 1) % 4096
           credits := lset q.credits ch (q.credit ch - 1)
           owed := List.zipWith (fun n k => n - k) q.owed q.returns
           replay := (q.replay ++ [(q.txSeq, flitBytes q.txSeq ch q.returns payload)]).drop
             (q.replay.length + 1 - 256) }

/-- The headers of operations without data that stand next on a channel, as many as a control flit holds, and what stays. -/
def packHeads (ch : Nat) : Nat → List LinkOp → List Byte × List LinkOp
  | _, [] => ([], [])
  | n, e :: es =>
    if e.chan ≠ ch then let r := packHeads ch n es; (r.1, e :: r.2)
    else if e.data || n = 0 then ([], e :: es)
    else let r := packHeads ch (n - 1) es; (e.bytes ++ r.1, r.2)

/-- Send what has credit: a data flit for an operation with data, a control flit of up to 15 headers for others (R415, R417). -/
def Port.flush : Nat → Port → Port
  | 0, q => q
  | fuel + 1, q =>
    match findIdx (fun (f : LinkOp) => decide (0 < q.credit f.chan)) q.out 0 with
    | some (i, f) =>
      Port.flush fuel (if f.data then { q with out := dropAt q.out i }.emit f.chan f.bytes
        else let r := packHeads f.chan 15 q.out; { q with out := r.2 }.emit f.chan r.1)
    | none => q

/-- Hand an operation to a Lace port; it is sent when its channel has credit. -/
def Port.send (q : Port) (ops : List LinkOp) : Port :=
  let q := { q with out := q.out ++ ops }
  q.flush q.out.length

/-- An operation on the link: its header, whose layout the spec does not give, and its data (R415). -/
def linkOp (ch : Nat) (fields : List Nat) (data : List Byte) : LinkOp :=
  let h := Config.laceHeader fields
  if data.isEmpty then ⟨ch, false, padTo 16 h⟩ else ⟨ch, true, padTo (max 16 (min 48 h.length)) h ++ data.take 192⟩

/-- The congestion level of a Lace path (R404). -/
def laceLevel (q : Port) (p : Nat) : Nat := 255 * (Config.advertised p 0 - q.credit 0) / Config.advertised p 0

/-- Flits held are delivered in sequence order, and their slots are free again (R416, R417). -/
def Port.deliver : Nat → Port → Port
  | 0, q => q
  | fuel + 1, q =>
    match q.held.find? fun h => h.1 == q.rxSeq with
    | some (n, ch, bs) =>
      Port.deliver fuel { q with
        rxSeq := (q.rxSeq + 1) % 4096, held := q.held.filter fun h => h.1 != n,
        owed := q.owed.mapIdx fun i c => if i = ch then c + 1 else c,
        delivered := if ch = 3 then q.delivered else q.delivered ++ [(ch, bs)] }
    | none => q

/-- One correction on each lane named (R418). -/
def countLanes (lanes named : List Nat) : List Nat := lanes.mapIdx fun i c => if named.contains i then c + 1 else c

/-- Increments to return that no other flit takes go in an idle flit (R417, L54). -/
def Port.idle (q : Port) : Port := if q.returns.all fun n => n == 0 then q else q.emit 3 []

/-- Withhold the increments of the request channel, or return them again (R409). -/
def Port.withhold (q : Port) (full : Bool) : Port :=
  let q := { q with withheld := full }
  if full || q.ue || !q.trained then q else q.idle

/-- A port takes a flit (R415 to R417): credits return; a good flit waits for its turn, a bad one is asked for again. -/
def Port.receive (q : Port) (f : LaceFlit) : Port :=
  let q := { q with fec := if f.corrected.isEmpty then q.fec else q.fec + 1, lanes := countLanes q.lanes f.corrected }
  if !f.crcOk then { q with wanted := addOnce q.wanted f.seq }
  else
    let inc := [f.crReq, f.crFwd, f.crRep]
    let q := { q with credits := q.credits.mapIdx fun i c => c + (nth inc i).getD 0, wanted := q.wanted.filter fun n => n != f.seq }
    let early := (f.seq + 4096 - q.rxSeq) % 4096 < 2048
    let q := if early && !q.held.any (fun h => h.1 == f.seq) then { q with held := q.held ++ [(f.seq, f.chan, f.payload)] } else q
    let q := q.deliver (q.held.length + 1)
    (q.flush q.out.length).idle

end Sys2Proof.Machine
end

