-- ==== Sys2Proof/Machine/Tasks.lean ====
section
/-!
DEFINITION. The remote-op thread and the landing port, majors 0x24 to 0x27: joins, graphs, work queues and buffer handles, and the
scheduler's own turns: registration, placement, dispatch and completion (R166 to R180).
-/

namespace Sys2Proof.Machine

/-! ## Remote operations at their home (R153, R166, R175) -/

/-- Acknowledge a write to its issuing core (R219). -/
def State.ackTo (s : State) (src : Nat) (own : Owner) (wid : Nat) : State := s.post ⟨2, src, own.core, .ack wid []⟩

/-- The fabric operation a remote operation belongs to: target flow, sequence number. -/
def fabTok (key seq : Nat) : Nat := seq % 2 ^ 32 + 2 ^ 32 * key

/-- Every number from the base on that is acknowledged moves the base. -/
def TargetFlow.settle : Nat → TargetFlow → TargetFlow
  | 0, t => t
  | fuel + 1, t =>
    if t.done.contains t.base then TargetFlow.settle fuel { t with base := t.base + 1, done := t.done.filter fun q => q != t.base }
    else t

/-- A packet is acknowledged (R408); one that failed is not (R413). -/
def TargetFlow.finish (t : TargetFlow) (seq detail : Nat) : TargetFlow :=
  let t := { t with busy := t.busy.filter fun b => b.1 != seq }
  if detail = 0 then TargetFlow.settle (t.done.length + 1) { t with done := addOnce t.done seq } else t

/-- The flits' worth of an answer on a Lace link: the data in parts of at most 192 bytes, or a header alone (R415). -/
def answerOps (flow seq detail : Nat) : Nat → List Byte → List LinkOp
  | 0, _ => []
  | fuel + 1, bs =>
    linkOp 2 [flow, seq, detail, bs.length] (bs.take 192) :: (if bs.length ≤ 192 then [] else answerOps flow seq detail fuel (bs.drop 192))

/-- Answer a packet (R408, R413) on the reply channel of the port it came by. -/
def State.answer (s : State) (port : Nat) (a : FabAnswer) : State :=
  let s := s.modDie (port / 2) fun d => { d with answers := d.answers ++ [a] }
  if (s.portAt port).ue then s
  else s.modPort port fun q => q.send (answerOps a.flow a.seq a.detail (a.data.length / 192 + 1) a.data)

/-- A packet that has been passed on has been applied or has failed (R408, R413). -/
def State.fabDone (s : State) (tok detail : Nat) (data : List Byte) : State :=
  let seq := tok % 2 ^ 32
  let key := tok / 2 ^ 32
  match (tget s.targets {} key).busy.find? fun b => b.1 == seq with
  | some b =>
    { s with targets := tmod s.targets {} key fun t => t.finish seq detail }.answer b.2
      ⟨key / 2 ^ 52, key / 2 ^ 32 % 2 ^ 20, seq, detail, data⟩
  | none => s

/-- The join record of a scratchpad address as a number (R174). -/
def joinRec (m : Memory) (a : Nat) : Nat := mreadNat m a 16

/-- An arrival of weight w at a record, whole (R175): none while it would fire and the join-fire queue is full. The refusal at a record
that is not armed carries type 0, tag 0 and the words reference and weight: the spec does not say what it carries (L65). -/
def joinArrive (s : State) (c a w : Nat) (own : Owner) : Option State :=
  let r := joinRec (s.core c).spad a
  let target := bits r 0 32
  let gen := bits r 64 16
  let m : Msg := { words := [wd (a + c * 2 ^ 32), wd w], src := wd own.core, dst := c, vf := own.vf, launch := own.launch }
  let (k, count) := rounds (bits r 32 32 + w) target
  if !bitOf r 88 then some (s.postReply c (refusalOf c m 5))
  else if k ≠ 0 ∧ (s.core c).fireFull then none
  else
    let r' := target + count * 2 ^ 32 + (gen + k) % 65536 * 2 ^ 64 + bits r 80 48 * 2 ^ 80
    some ((s.spadWrite c a (leBytes 16 r')).fire c
      ⟨{ m with type := bits r 80 8, words := [wd a, 0, wd target], src := wd (0x4000 + own.core) }, gen, 16, k, true⟩)

/-- The old value and the memory after an atomic on scratchpad (R231). -/
def amoSpad (s : State) (c fn a : Nat) (x y : Word) : Word × State :=
  let old := wd (mreadNat (s.core c).spad a 8)
  (old, match amoNew fn old x y with
    | some v => s.spadWrite c a (leBytes 8 v.toNat)
    | none => s)

/-- Execute one remote operation (R166); none while it waits for the join-fire queue. -/
def runOp (s : State) (c : Nat) (op : RemoteOp) : Option State :=
  match op with
  | .put a bs own wid => some ((s.spadWrite c a bs).ackTo c own wid)
  | .amo fn a x y own id piece wid =>
    let (old, s) := amoSpad s c fn a x y
    some (s.post ⟨2, c, own.core, .reply id piece (.data (leBytes 8 old.toNat)) true none [] wid⟩)
  | .swadd a n own wid => (applyRaise s c ⟨a, n, false, own.launch, own.vf⟩ true).map fun s => s.ackTo c own wid
  | .jset a target type _ => some (s.spadWrite c a (leBytes 16 (target + type * 2 ^ 80 + 2 ^ 88)))
  | .arrive a w own wid => (joinArrive s c a w own).map fun s => s.ackTo c own wid
  | .fabPut a bs tok => some ((s.spadWrite c a bs).fabDone tok 0 [])
  | .fabRaise a n vf tok => (applyRaise s c ⟨a, n, false, none, vf⟩ true).map fun s => s.fabDone tok 0 []
  | .fabAmo fn a x y tok =>
    let (old, s) := amoSpad s c fn a x y
    some (s.fabDone tok 0 (leBytes 8 old.toNat))
  | .fabGet a n tok => some (s.fabDone tok 0 (s.spadRead c a n))

/-- A remote operation at a core that is not running, answered by the always-on port (R153). -/
def downOp (s : State) (c : Nat) (op : RemoteOp) : State :=
  let gone (a : Nat) (own : Owner) (wid : Nat) : State :=
    (s.ackTo c own wid).report own cMNODE 1 (wd (a + c * 2 ^ 32)) true true
  match op with
  | .put a _ own wid => gone a own wid
  | .swadd a _ own wid => gone a own wid
  | .arrive a _ own wid => gone a own wid
  | .amo _ _ _ _ own id piece wid => s.post ⟨2, c, own.core, .reply id piece (.bad (cMNODE + 256)) true none [] wid⟩
  | .jset _ _ _ _ => s
  | .fabPut _ _ tok => s.fabDone tok 6 []
  | .fabRaise _ _ _ tok => s.fabDone tok 6 []
  | .fabAmo _ _ _ _ tok => s.fabDone tok 6 []
  | .fabGet _ _ tok => s.fabDone tok 6 []

/-- Whether an operation is an arrival. -/
def RemoteOp.isArrive : RemoteOp → Bool
  | .arrive _ _ _ _ => true
  | _ => false

/-- Take item k of the traffic into the queue of 32 entries, or answer it at once when the core is not running. -/
def admitOp (s : State) (c : Nat) (k : Option Nat) : State :=
  match k with
  | none => s
  | some k =>
    match s.flight k with
    | some ⟨_, _, d, .remote op⟩ =>
      if d ≠ c then s
      else if !s.isRunning c then downOp (s.dropFlight k) c op
      else if (s.core c).preempted || 32 ≤ (s.core c).q.ropq.length then s
      else (s.dropFlight k).modCore c fun x => { x with q := { x.q with ropq := x.q.ropq ++ [op] } }
    | _ => s

/-- Execute the head of the queue when it is an arrival, or when it is not. -/
def headOp (s : State) (c : Nat) (arrival : Bool) : State :=
  if !s.isRunning c || (s.core c).preempted || (s.core c).firing true then s else
  match (s.core c).q.ropq with
  | op :: rest =>
    if op.isArrive != arrival then s else
    match runOp s c op with
    | some s => s.modCore c fun x => { x with q := { x.q with ropq := rest } }
    | none => s
  | [] => s

/-- The remote-op thread has an operation it can execute now and takes the issue slot (R166, L61). -/
def threadReady (s : State) (c : Nat) : Bool :=
  s.isRunning c && !(s.core c).preempted && !(s.core c).firing true && (match (s.core c).q.ropq with
    | op :: _ => (runOp s c op).isSome
    | [] => false)

/-- The remote-op thread executes the head of its queue. -/
def threadTurn (s : State) (c : Nat) : State := headOp s c (((s.core c).q.ropq.head?.map RemoteOp.isArrive).getD false)

/-- The landing port applies its oldest raise (R205). -/
def execSyncWordRaise (c : Nat) (s : State) : Host.Outcome State Fault Refusal :=
  match (s.core c).q.raises with
  | r :: rest =>
    if !s.isRunning c || (s.core c).firing false then .next s else
    match applyRaise s c r false with
    | some s => .next (s.modCore c fun x => { x with q := { x.q with raises := rest } })
    | none => .next s
  | [] => .next s

/-! ## Major 0x24 (R174, R175) -/

/-- A local join record's address (R174, R175). -/
def joinLocal (s : State) (x : Word) (write : Bool) : Act Nat :=
  if x.toNat ≥ 2 ^ 20 ∨ Config.spadBytes < x.toNat + 16 then faultAt s cBOUNDS 1 x write
  else if x.toNat % 16 ≠ 0 then faultAt s cALIGN 0 x write
  else .ok x.toNat

/-- `jset` (R175): through the core's own remote-op queue. -/
def execJset (a b t : Nat) (s : State) : Host.Outcome State Fault Refusal :=
  let w := wordJset a b t
  onward { word := w, reads := [a, b], ends := true }
    (fun s => do
      let c := s.ctx
      placing s [b] [a]
      let (s, rs) ← widen s (c.tagUnion [a, b]) fun s i => do
        let p ← joinLocal s (atInst (c.sreg a) i) true
        let n := atInst (c.sreg b) i
        if n = 0 ∨ n.toNat ≥ 2 ^ 32 then fault s cBOUNDS 3 n
        if 239 < t then fault s cHBIND 0
        pure (s, (p, n.toNat))
      spadWait s true
      let own := s.owner w
      pure (rs.foldl (fun s r => s.post ⟨0, s.cur, s.cur, .remote (.jset r.2.1 r.2.2 t own)⟩) s)) s

/-- `arrive` (R175): a release toward the home's die, then the arrival. -/
def execArrive (a b : Nat) (s : State) : Host.Outcome State Fault Refusal :=
  let w := wordArrive a b
  let regs := if b = 0 then [a] else [a, b]
  onward { word := w, reads := regs, ends := true }
    (fun s => do
      let c := s.ctx
      let (s, rs) ← widen s (c.tagUnion regs) fun s i => do
        let r := atInst (c.sreg a) i
        let (p, home) ← resolveRef s r true
        if p + 16 > Config.spadBytes then faultAt s cBOUNDS 1 r true
        if p % 16 ≠ 0 then faultAt s cALIGN 0 r true
        let n := if b = 0 then 1 else atInst (c.sreg b) i
        if n = 0 ∨ n.toNat ≥ 2 ^ 32 then fault s cBOUNDS 3 n
        pure (s, (home, p, n.toNat))
      if rs.any fun r => r.2.1 == s.cur then spadWait s true
      let s ← releaseTo s (rs.map fun r => dieOf r.2.1)
      let own := s.owner w
      pure (rs.foldl (fun s r => postRemote s own r.2.1 fun wid => .arrive r.2.2.1 r.2.2.2 own wid) s)) s

/-- Whether an operation the core sent itself still waits for its remote-op thread. -/
def State.ownOps (s : State) (c : Nat) : Bool :=
  (s.net.any fun f => f.src == c && f.dst == c && (match f.body with
    | .remote _ => true
    | _ => false))
    || (s.core c).q.ropq.any fun op => match op with
      | .put _ _ o _ => o.core == c
      | .amo _ _ _ _ o _ _ _ => o.core == c
      | .swadd _ _ o _ => o.core == c
      | .jset _ _ _ o => o.core == c
      | .arrive _ _ o _ => o.core == c
      | _ => false

/-- `jget` (R175): through the remote-op queue (R181), behind what the core has sent itself. -/
def execJget (d a : Nat) (s : State) : Host.Outcome State Fault Refusal :=
  onward { word := wordJget d a, reads := [a], writes := [d] }
    (fun s => do
      let c := s.ctx
      let S := c.tagUnion [a]
      let (s, rs) ← widen s S fun s i => do
        let p ← joinLocal s (atInst (c.sreg a) i) false
        pure (s, wd (bits (joinRec (s.core s.cur).spad p) 32 57))
      spadWait s false
      waitFor (!s.ownOps s.cur)
      writeS s d S fun i => tget rs 0 i) s

/-! ## Node records (R171 to R173) -/

/-- A descriptor of 80 bytes (R172). -/
structure Desc where
  entry : Word
  slice : Nat
  ctxs : Nat
  vregs : Nat
  spad : Nat
  bars : Nat
  cx : Nat
  flags : Nat
  count : Nat
  words : List Word
  deriving DecidableEq, Repr

/-- Read a descriptor; bytes 24 to 31 and the flag bits above bit 1, which the spec has zero, are ignored (L64). -/
def descOf (bs : List Byte) : Desc :=
  let n (i k : Nat) : Nat := leNat ((bs.drop i).take k)
  ⟨wd (n 0 8), n 8 2, n 10 1, n 11 1, n 12 4, n 16 2, n 18 1, n 19 1, n 20 4, (List.range 6).map fun i => wd (n (32 + 8 * i) 8)⟩

/-- The checks of a node's request (R171, step 5): resource code, amount asked, maximum. -/
def requestFault (floor_ : Bool) (d : Desc) : Option (Nat × Nat × Nat) :=
  let vmax := min (48 * d.ctxs) (if floor_ then 32 else 256)
  if d.ctxs = 0 ∨ 8 < d.ctxs then some (1, d.ctxs, 8)
  else if vmax < d.vregs then some (2, d.vregs, vmax)
  else if (if floor_ then 262144 else 786432) < d.spad then some (3, d.spad, if floor_ then 262144 else 786432)
  else if (if floor_ then 64 else 512) < d.bars then some (4, d.bars, if floor_ then 64 else 512)
  else if (if floor_ then 1 else 2) < d.cx then some (5, d.cx, if floor_ then 1 else 2)
  else none

/-- Node-SRAM entries of a node with n successors (R173). -/
def nodeEntries (n : Nat) : Nat := 1 + (n - 4 + 5) / 6
/-- Entries of node SRAM in use on a die. -/
def Die.nodeUsed (d : Die) : Nat := d.nodes.foldl (fun a n => a + nodeEntries n.2.succs.length) 0
/-- Entries of a die's node SRAM (R17). -/
def nodeSram : Nat := 65536

/-- The lowest free index from a start. -/
def freeIndex (nodes : Table Node) : Nat → Nat → Nat
  | 0, i => i
  | fuel + 1, i => if (tlook nodes i).isSome then freeIndex nodes fuel (i + 1) else i

/-- A node record from a descriptor. -/
def nodeOf (d : Desc) (vf : Nat) (launch : Option Nat) : Node :=
  { entry := d.entry, slice := d.slice, ctxs := d.ctxs, vregs := d.vregs, spad := d.spad, bars := d.bars, cx := d.cx,
    held := bitOf d.flags 0, count := d.count, words := d.words, succs := [], vf := vf, launch := launch,
    state := if d.count = 0 then .ready else .pending }

/-- The number of a node's state as `gqry` gives it. -/
def NodeState.code : NodeState → Nat
  | .pending => 1
  | .ready => 2
  | .bound => 3
  | .running => 4
  | .done => 5

/-! ## Major 0x25 (R172, R173) -/

/-- Whether a die's scheduler block answers: in HOLD its clock stands (R435). -/
def schedWait (s : State) (d : Nat) : Act Unit := waitFor ((s.die d).pw.state != .hold)

/-- A checked node reference (R172): the reference and its node. -/
def nodeRef (s : State) (x : Word) : Act (Nat × Option Node) :=
  if x.toNat ≥ 2 ^ 19 then faultAt s cBOUNDS 4 x
  else
    let n := s.nodeAt x.toNat
    match n with
    | some m => if m.vf = s.ctx.id.vf then .ok (x.toNat, n) else faultAt s cPERM 0 x
    | none => .ok (x.toNat, n)

/-- Whether the executing object is a floor object (R77, R78). -/
def State.isFloor (s : State) : Bool :=
  match s.objOf s.ctx.id.vf s.ctx.pc with
  | some o => o.floor
  | none => false

/-- Define one node (R172): the request of step 5 of R171 first, then the room in node SRAM, code 6 (L64). -/
def defineNode (s : State) (d : Desc) : State × Word :=
  let die := s.myDie
  match requestFault s.isFloor d with
  | some (code, _, _) => (s, wd (2 ^ 63 + code))
  | none =>
    if nodeSram ≤ (s.die die).nodeUsed then (s, wd (2 ^ 63 + 6))
    else
      let i := freeIndex (s.die die).nodes 65536 0
      let x := s.ctx.id
      (s.modDie die fun k => { k with nodes := tput k.nodes i (nodeOf d x.vf x.launch) }, wd (die * 65536 + i))

/-- Run an action per checked instance, in order, collecting results. -/
def actAll {α β : Type} (f : State → α → State × β) : Table α → State → State × Table β
  | [], s => (s, [])
  | (i, a) :: rest, s =>
    let (s, b) := f s a
    let (s, bs) := actAll f rest s
    (s, (i, b) :: bs)

/-- `gdef` (R172). -/
def execGdef (d a : Nat) (s : State) : Host.Outcome State Fault Refusal :=
  onward { word := wordGdef d a, reads := [a], writes := [d], ends := true }
    (fun s => do
      let c := s.ctx
      let S := c.tagUnion [a]
      let (s, rs) ← widen s S fun s i => do
        let p ← resolveSpad s (atInst (c.sreg a) i) 80 8 false
        spadWait s false
        let e := descOf (s.spadRead s.cur p 80)
        entryCheck s e.entry
        pure (s, e)
      let _ ← takePool s d S
      let (s, vs) := actAll defineNode rs s
      writeS s d S fun i => tget vs 0 i) s

/-- Add an edge (R172, R173). -/
def addEdge (s : State) (p : Nat × Nat) : State × Word :=
  let (a, b) := p
  match s.nodeAt b with
  | some nb =>
    if nb.state ≠ .pending then (s, 1) else
    match s.nodeAt a with
    | some na =>
      if na.state = .done then (s, 2)
      else
        let d := s.die (a / 65536)
        let more := nodeEntries (na.succs.length + 1) - nodeEntries na.succs.length
        if nodeSram < d.nodeUsed + more then (s, 3)
        else
          let s := s.modNode (a / 65536) (a % 65536) fun n => { n with succs := n.succs ++ [b] }
          (s.modNode (b / 65536) (b % 65536) fun n => { n with count := n.count + 1 }, 0)
    | none => (s, 2)
  | none => (s, 1)

/-- `gsucc` (R172). -/
def execGsucc (d a b : Nat) (s : State) : Host.Outcome State Fault Refusal :=
  onward { word := wordGsucc d a b, reads := [a, b], writes := [d], ends := true }
    (fun s => do
      let c := s.ctx
      let S := c.tagUnion [a, b]
      let (s, rs) ← widen s S fun s i => do
        let (p, _) ← nodeRef s (atInst (c.sreg a) i)
        let (q, _) ← nodeRef s (atInst (c.sreg b) i)
        schedWait s (p / 65536)
        schedWait s (q / 65536)
        pure (s, (p, q))
      let _ ← takePool s d S
      let (s, vs) := actAll addEdge rs s
      writeS s d S fun i => tget vs 0 i) s

/-- An operation on running nodes: `gdone` and `gdone.hold`. -/
def onRunning (w d a : Nat) (f : State → Nat → State) (s : State) : Host.Outcome State Fault Refusal :=
  onward { word := w, reads := [a], writes := [d], ends := true }
    (fun s => do
      let c := s.ctx
      let S := c.tagUnion [a]
      let (s, rs) ← widen s S fun s i => do
        let (p, _) ← nodeRef s (atInst (c.sreg a) i)
        schedWait s (p / 65536)
        pure (s, p)
      let _ ← takePool s d S
      let (s, vs) := actAll (fun s p => match s.nodeAt p with
        | some n => if n.state = .running ∧ n.completing.isNone then (f s p, (0 : Word)) else (s, 1)
        | none => (s, 1)) rs s
      writeS s d S fun i => tget vs 0 i) s

/-- `gdone` (R170, R172). -/
def execGdone (d a : Nat) (s : State) : Host.Outcome State Fault Refusal :=
  onRunning (wordGdone d a) d a (fun s p => completeNode s p (s.owner 0) s.ctx.pages) s
/-- `gdone.hold` (R172). -/
def execGdoneHold (d a : Nat) (s : State) : Host.Outcome State Fault Refusal :=
  onRunning (wordGdoneHold d a) d a (fun s p => s.modNode (p / 65536) (p % 65536) fun n => { n with held := true }) s

/-- Record `num` of a die's slot table (R169): (row × 16 + column) × 8 + context. A bind record is what a node's reservation writes
there; the launch number of a node without a launch is 0 (L18). -/
def State.slotRecord (s : State) (die num : Nat) : Word :=
  match s.reserver (die * 256 + num / 8) (num % 8) with
  | some (ref, n) =>
    wd (2 ^ 63 + n.vf % 512 * 2 ^ 47 + n.launch.getD 0 % 256 * 2 ^ 32 + ref % 65536 * 2 ^ 16 + n.slice % 65536)
  | none => 0

/-- The first context of a core whose bind record is a node's. -/
def State.firstBound (s : State) (ref : Nat) (n : Node) : Nat :=
  ((List.range 8).find? fun x =>
    fld (s.slotRecord (dieOf n.core) (n.core % 256 * 8 + x)) 63 63 == 1 && (s.reserver n.core x).map Prod.fst == some ref).getD 0

/-- What `gqry` reads of a reference's node (R169, R172). -/
def nodeWord (s : State) (ref : Nat) (n : Option Node) : Word :=
  match n with
  | none => 0
  | some n =>
    let at_ := if n.state = .bound ∨ n.state = .running then n.core * 2 ^ 32 + s.firstBound ref n * 2 ^ 48 else 0
    wd (n.state.code + (if n.held then 8 else 0) + n.count % 65536 * 65536 + at_)

/-- `gqry` (R172). -/
def execGqry (d a : Nat) (s : State) : Host.Outcome State Fault Refusal :=
  onward { word := wordGqry d a, reads := [a], writes := [d] }
    (fun s => do
      let c := s.ctx
      let S := c.tagUnion [a]
      let (s, rs) ← widen s S fun s i => do
        let (p, n) ← nodeRef s (atInst (c.sreg a) i)
        schedWait s (p / 65536)
        pure (s, nodeWord s p n)
      writeS s d S fun i => tget rs 0 i) s

/-! ## Major 0x26 (R176) -/

/-- A checked queue reference: die and queue. -/
def queueRef (s : State) (x : Word) : Act (Nat × Nat) :=
  if fld x 63 11 ≠ 0 ∨ fld x 7 4 ≠ 0 then faultAt s cBOUNDS 4 x else .ok (fld x 10 8, fld x 3 0)

/-- A work queue. -/
def State.workQ (s : State) (p : Nat × Nat) : WorkQ := tget (s.die p.1).wqs {} p.2
/-- Replace a work queue. -/
def State.setWorkQ (s : State) (p : Nat × Nat) (q : WorkQ) : State := s.modDie p.1 fun d => { d with wqs := tput d.wqs p.2 q }

/-- The owner check (R176). -/
def queueOwned (s : State) (p : Nat × Nat) (x : Word) : Act Unit :=
  if (s.workQ p).owner = some s.ctx.id.vf then .ok () else faultAt s cPERM 0 x

/-- `wput` (R176): of a full queue and an empty range the first is reported, the order in which the spec names them (L27). -/
def execWput (d a b : Nat) (s : State) : Host.Outcome State Fault Refusal :=
  onward { word := wordWput d a b, reads := [a, b], writes := [d], ends := true }
    (fun s => do
      let c := s.ctx
      let S := c.tagUnion [a, b]
      let (s, rs) ← widen s S fun s i => do
        let x := atInst (c.sreg a) i
        let p ← queueRef s x
        queueOwned s p x
        schedWait s p.1
        pure (s, (p, atInst (c.sreg b) i))
      let s ← reserve s d S
      let s ← releaseTo s (rs.map fun r => r.2.1.1)
      let (s, vs) := actAll (fun s (r : (Nat × Nat) × Word) =>
        let q := s.workQ r.1
        let lo := fld r.2 31 0
        let hi := fld r.2 63 32
        if 1024 ≤ q.ranges.length then (s, (1 : Word))
        else if hi ≤ lo then (s, 2)
        else (s.setWorkQ r.1 { q with ranges := q.ranges ++ [(lo, hi)] }, 0)) rs s
      writeS s.spend d S fun i => tget vs 0 i) s

/-- Take at most n iterations, all of the oldest range for 0 (R176). -/
def takeRange (s : State) (p : Nat × Nat) (n : Nat) : State × Word :=
  let q := s.workQ p
  match q.ranges with
  | [] => (s, 0xFFFFFFFFFFFFFFFF)
  | (lo, hi) :: rest =>
    let m := if n = 0 then hi else min hi (lo + n)
    let rs := if m = hi then rest else (m, hi) :: rest
    (s.setWorkQ p { q with ranges := rs }, wd (lo + m * 2 ^ 32))

/-- `wtake` (R176). -/
def execWtake (d a b : Nat) (s : State) : Host.Outcome State Fault Refusal :=
  onward { word := wordWtake d a b, reads := [a, b], writes := [d], ends := true }
    (fun s => do
      let c := s.ctx
      let S := c.tagUnion [a, b]
      let (s, rs) ← widen s S fun s i => do
        let x := atInst (c.sreg a) i
        let p ← queueRef s x
        queueOwned s p x
        schedWait s p.1
        pure (s, (p, (atInst (c.sreg b) i).toNat))
      let _ ← takePool s d S
      let (s, vs) := actAll (fun s (r : (Nat × Nat) × Nat) => takeRange s r.1 r.2) rs s
      writeS s d S fun i => tget vs 0 i) s

/-- `wqcfg` (R176): a queue nobody owns can only be taken (L27). With both bits set, which the spec does not order, the model empties
and releases the queue (L64). -/
def execWqcfg (d a b : Nat) (s : State) : Host.Outcome State Fault Refusal :=
  onward { word := wordWqcfg d a b, reads := [a, b], writes := [d] }
    (fun s => do
      let c := s.ctx
      let S := c.tagUnion [a, b]
      let (s, rs) ← widen s S fun s i => do
        let x := atInst (c.sreg a) i
        let f := atInst (c.sreg b) i
        let p ← queueRef s x
        if 4 ≤ f.toNat then fault s cBOUNDS 3 f
        if !((s.workQ p).owner.isNone && fld f 0 0 == 1) then queueOwned s p x
        schedWait s p.1
        pure (s, (p, f.toNat))
      let _ ← takePool s d S
      let vf := c.id.vf
      let (s, vs) := actAll (fun s (r : (Nat × Nat) × Nat) =>
        let q := s.workQ r.1
        if r.2 = 0 then (s, (0 : Word))
        else (s.setWorkQ r.1 { owner := if 2 ≤ r.2 then none else some vf, ranges := [] }, wd q.ranges.length)) rs s
      writeS s d S fun i => tget vs 0 i) s

/-! ## Major 0x27: buffer handles (R178 to R180) -/

/-- Keep what the region record needs of a handle before it changes. -/
def Ctx.noteHandle (x : Ctx) (h : Nat) : Ctx := { x with region := { x.region with handles := tput x.region.handles h (x.mark h) } }
/-- Replace a handle. -/
def Ctx.putHandle (x : Ctx) (h : Nat) (v : Handle) : Ctx := { x with handles := tput x.handles h v }

/-- Whether an unfinished copy job fills a handle of the executing context. -/
def fillsHandle (s : State) (h : Nat) : Bool :=
  (s.die s.myDie).jobs.any fun j => j.dst == .handle s.cur s.ctx.id.act h

/-- `hcfg` (R178). -/
def execHcfg (h a z0 z t : Nat) (s : State) : Host.Outcome State Fault Refusal :=
  onward { word := wordHcfg h a z0 z t, reads := [a], once := true }
    (fun s => do
      let n := h - 52
      let x := s.sv a
      let size : Nat := 8 * 2 ^ z
      let slots : Nat := 2 ^ z0
      if fillsHandle s n then fault s cBOUNDS 3 (wd h)
      if slots < t + 1 then fault s cBOUNDS 3 (wd (t + 1))
      let _ ← resolveSpad s x (slots * size) 8 false
      pure (s.modCtx fun c =>
        let c := (c.noteHandle n).putHandle n { base := x.toNat, slots := slots, z := z, take := t + 1 }
        let m := c.mark n
        { c with region := { c.region with handles := tput c.region.handles n { m with consumed := 0, produced := 0 } } })) s

/-- A handle that is in use: a ring of 0 slots faults BOUNDS (R178). -/
def liveHandle (s : State) (h : Nat) : Act Handle :=
  let v := s.ctx.handle (h - 52)
  if v.slots = 0 then fault s cBOUNDS 3 (wd h) else .ok v

/-- `hadv`, consuming (R179, R180). -/
def execHadv (h n : Nat) (s : State) : Host.Outcome State Fault Refusal :=
  onward { word := wordHadv h n, once := true }
    (fun s => do
      let v ← liveHandle s h
      let k := h - 52
      if v.filled < n then fault s cBOUNDS 3 (wd n)
      pure (s.modCtx fun c =>
        let c := (c.noteHandle k).putHandle k { v with ridx := (v.ridx + n) % v.slots, filled := v.filled - n }
        let m := c.mark k
        { c with region := { c.region with handles := tput c.region.handles k { m with consumed := m.consumed + n } } })) s

/-- `hadv.p`, producing (R179, R180). -/
def execHadvP (h n : Nat) (s : State) : Host.Outcome State Fault Refusal :=
  onward { word := wordHadvP h n, once := true }
    (fun s => do
      let v ← liveHandle s h
      let k := h - 52
      if s.ctx.freeSlots k < n then fault s cBOUNDS 3 (wd n)
      pure (s.modCtx fun c =>
        let c := (c.noteHandle k).putHandle k { v with widx := (v.widx + n) % v.slots, filled := v.filled + n }
        let m := c.mark k
        { c with region := { c.region with handles := tput c.region.handles k { m with produced := m.produced + n } } })) s

/-- What `hget` reads (R179). -/
def Handle.word (v : Handle) : Word :=
  wd (v.filled + v.slots * 2 ^ 8 + v.ridx * 2 ^ 16 + v.widx * 2 ^ 24 + (v.take - 1) * 2 ^ 32 + v.z * 2 ^ 40 + v.base * 2 ^ 44)

/-- `hget` (R179). -/
def execHget (d h : Nat) (s : State) : Host.Outcome State Fault Refusal :=
  onward { word := wordHget d h, writes := [d], once := true }
    (fun s => do
      let v ← liveHandle s h
      writeS s d 0 fun _ => v.word) s

/-! ## Launch, placement, dispatch, completion (R167 to R171) -/

/-- The lowest service level among the dies of a virtual function (R428): a die in KEEP or OFF counts as 0. -/
def lowestLevel (s : State) (v : Vf) : Nat :=
  ((List.range 8).filter fun d => bitOf (dieMask v) d).foldl (fun m d =>
    let p := (s.die d).pw
    min m (if p.state = .keep ∨ p.state = .off then 0 else p.level)) 3

/-- The lowest die of a virtual function. -/
def lowestDie (v : Vf) : Nat := ((List.range 8).find? fun d => bitOf (dieMask v) d).getD 0

/-- The cores of a virtual function. -/
def coresOf (v : Vf) : List Nat := (List.range 2048).filter fun c => inQuads v c

/-- The number a launch gets: the lowest that no launch in progress has and no live activation carries. -/
def freeLaunch (s : State) : Option Nat :=
  (List.range 256).find? fun l =>
    (match tlook s.launches l with
     | some x => x.status != 0
     | none => true) && !(s.cores.any fun c => c.2.carries l)

/-- The class name of a launch image that this part does not know: not `k8` and NULs (R67, R77, R171). -/
def classUnknown (o : Obj) : Bool := !o.floor && o.cls != [0x6B, 0x38] ++ List.replicate 14 0

/-- The first check of R171 that fails: (node, resource code, amount, maximum). -/
def launchFault (s : State) (v : Vf) (o : Obj) : Option (Nat × Nat × Word × Word) :=
  let need := if o.level3 then 3 else 2
  let outs (i : Nat) : Nat := (o.edges.filter fun e => e.1 == i).length
  let entries := (List.range o.nodes.length).foldl (fun a i => a + nodeEntries (outs i)) 0
  let free := nodeSram - (s.die (lowestDie v)).nodeUsed
  if !o.wellFormed then some (0, 9, 0, 0)
  else if classUnknown o then some (0, 8, wd (leNat (o.cls.take 8)), wd (leNat ((o.cls.drop 8).take 8)))
  else if lowestLevel s v < need then some (0, 7, wd need, wd (lowestLevel s v))
  else if free < entries then some (0, 6, wd entries, wd free)
  else
    ((o.nodes.mapIdx fun i bs => (i, requestFault o.floor (descOf bs))).findSome? fun e =>
      e.2.map fun f => (e.1, f.1, wd f.2.1, wd f.2.2))

/-- The first n free indices of a node SRAM. -/
def freeIndices (nodes : Table Node) : Nat → Nat → List Nat
  | 0, _ => []
  | n + 1, i => let j := freeIndex nodes 65536 i; j :: freeIndices nodes n (j + 1)

/-- Bind every handler of an object on a core (R28, R159): system types it does not bind go to the firmware. -/
def bindHandlers (o : Obj) (s : State) (c : Nat) : State :=
  let s := s.modCore c fun k =>
    let bs := k.q.bindings.filter fun b => b.1 < 240
    { k with q := { k.q with bindings := o.handlers.foldl (fun (t : Table Binding) h => tput t h.1 ⟨h.2.1, h.2.2.1, h.2.2.2⟩) bs } }
  o.handlers.foldl (fun s h => releasePending s c h.1) s

/-- Load the scratchpad data of an object for every slice, or for one, into a core (R65). -/
def loadSpads (o : Obj) (slice : Option Nat) (s : State) (c : Nat) : State :=
  o.spads.foldl (fun s d => if d.2.1 = slice then s.spadWrite c d.1 d.2.2 else s) s

/-- The firmware chooses the core that runs a slice of a launch (L12): the slice's scratchpad data are loaded there (R65). -/
def State.chooseCore (s : State) (l slice c : Nat) : State :=
  match tlook s.launches l with
  | some x =>
    let s := { s with launches := tput s.launches l { x with cores := tput x.cores slice c } }
    match tlook (s.vf x.vf).objs x.obj with
    | some o => loadSpads o (some slice) s c
    | none => s
  | none => s

/-- The core that runs a slice of a launch, when it has been chosen. -/
def State.sliceCore (s : State) (l : Option Nat) (slice : Nat) : Option Nat :=
  (l.bind fun l => tlook s.launches l).bind fun x => tlook x.cores slice

/-- Register an accepted launch (R65, R171): a node given its own words (flag bit 1) keeps them, another root node receives the
launch message's, any other zeros. -/
def registerLaunch (s : State) (vf obj l : Nat) (v : Vf) (o : Obj) (words : List Word) (slices : List Nat) : State :=
  let s := (coresOf v).foldl (fun s c => loadSpads o none (bindHandlers o s c) c) s
  let die := lowestDie v
  let idx := freeIndices (s.die die).nodes o.nodes.length 0
  let ref (i : Nat) : Nat := die * 65536 + (nth idx i).getD 0
  let nodes := o.nodes.mapIdx fun i bs =>
    let d := descOf bs
    let count := (o.edges.filter fun e => e.2 == i).length
    let own := if count = 0 then words else List.replicate 6 0
    let d := { d with count := count, words := if bitOf d.flags 1 then d.words else own }
    ((nth idx i).getD 0, { nodeOf d vf (some l) with succs := (o.edges.filter fun e => e.1 == i).map fun e => ref e.2 })
  let s := s.modDie die fun d => { d with nodes := nodes.foldl (fun (t : Table Node) n => tput t n.1 n.2) d.nodes }
  let nslice := 1 + nodes.foldl (fun m n => max m n.2.slice) 0
  let s := { s with launches := tput s.launches l ⟨vf, obj, 0, die, idx, nslice, [], false, false⟩ }
  let s := (slices.mapIdx fun n c => (n, c)).foldl (fun s e => if inQuads v e.2 then s.chooseCore l e.1 e.2 else s) s
  (s.launchStatus vf 0 0 0 0 0 l).checkComplete l

/-- The management core of die 0 checks and registers a launch (R171); `words` replace the image's default payload words, `slices`
are cores the firmware chooses for the first slices (L12). With all 256 launch numbers in use it drops the message (L64). -/
def execLaunchRegistration (vf obj : Nat) (words : Option (List Word)) (slices : List Nat) (s : State) :
    Host.Outcome State Fault Refusal :=
  if (s.die 0).pw.state ≠ .run then .next s else
  match s.takeCommand (.launch vf obj words) with
  | none => .next s
  | some s =>
  match s.enumerated vf, freeLaunch s with
  | some v, some l =>
    match tlook v.objs obj with
    | none => .next (s.launchStatus vf 1 0 9 0 0 l)
    | some o =>
      match launchFault s v o with
      | some (n, code, w4, w5) => .next (s.launchStatus vf 1 n code w4 w5 l)
      | none => .next (registerLaunch s vf obj l v o ((words.getD o.words).take 6) slices)
  | _, _ => .next s

/-- Whether a launch dispatches nothing any more. -/
def State.stopsDispatch (s : State) (l : Option Nat) : Bool :=
  match l.bind fun l => tlook s.launches l with
  | some x => x.aborting
  | none => false

/-- Contexts of a core that no bind record reserves. -/
def unreserved (s : State) (c : Nat) : List Nat := (List.range 8).filter fun x => (s.reserver c x).isNone

/-- A ready node is placed on a core the firmware chose (R167, L12), the one that runs its slice once that is chosen (R65): the core's
lowest contexts without a record are reserved (L88). -/
def execNodePlacement (die node c : Nat) (s : State) : Host.Outcome State Fault Refusal :=
  match s.node die node with
  | some n =>
    let xs := unreserved s c
    let held := (s.nodesOn c).map fun m => m.2
    let sum (f : Node → Nat) : Nat := held.foldl (fun a m => a + f m) 0
    if n.state != NodeState.ready || s.stopsDispatch n.launch || (s.die die).pw.state != .run || !inQuads (s.vf n.vf) c
        || xs.length < n.ctxs || 256 < sum Node.vregs + n.vregs || Config.spadBytes < sum Node.spad + n.spad
        || 512 < sum Node.bars + n.bars || (s.sliceCore n.launch n.slice).any fun d => d != c then .next s
    else
      let s := match n.launch with
        | some l => if (s.sliceCore n.launch n.slice).isSome then s else s.chooseCore l n.slice c
        | none => s
      .next (s.modNode die node fun n =>
        { n with state := .bound, core := c, first := (xs.head?).getD 0, lanes := xs.take n.ctxs })
  | none => .next s

/-- Dispatch starts a bound node's entry in its lowest reserved context once that is free (R167, R168), and once the pool has its
registers (L88). -/
def execNodeDispatch (die node : Nat) (s : State) : Host.Outcome State Fault Refusal :=
  match s.node die node with
  | some n =>
    if n.state != NodeState.bound || s.stopsDispatch n.launch || (s.die die).pw.state != .run || !s.isRunning n.core
        || (s.core n.core).preempted || (s.ctxAt n.core n.first).status != .free || 256 < s.poolUsed n.core then .next s
    else
      let m : Msg := { words := n.words, src := wd (0x800 + die * 256), dst := n.core, vf := n.vf, launch := n.launch }
      let ref := die * 65536 + node
      let s := s.modNode die node fun n => { n with state := .running }
      .next (s.startAct n.core n.first n.entry (min n.vregs 48) m n.slice (some ref) (some ref))
  | none => .next s

/-- A node is done: its records are cleared, its successors count down, its launch may be complete (R170). -/
def finishNode (s : State) (die node : Nat) (n : Node) : State :=
  let s := s.modNode die node fun n => { n with state := .done, completing := none, marks := none }
  let s := n.succs.foldl (fun s r => s.modNode (r / 65536) (r % 65536) fun m =>
    { m with count := m.count - 1, state := if m.state = .pending ∧ m.count ≤ 1 then .ready else m.state }) s
  match n.launch with
  | some l => s.checkComplete l
  | none => s

/-- A completing node (R170): its context's writes are acknowledged, then markers go out, then they are acknowledged, then it is
done. The scheduler acts while its clock runs (R435). -/
def execNodeCompletion (die node : Nat) (s : State) : Host.Outcome State Fault Refusal :=
  match (if s.clocksHeld die then none else s.node die node) with
  | some n =>
    match n.completing, n.marks with
    | some o, none =>
      if s.unacked o fun _ => true then .next s
      else
        let (s, due) := sendMarkers s o (some (die * 65536 + node)) (dieOf o.core) (dieMask (s.vf n.vf)) n.pages
        if due = 0 then .next (finishNode s die node n)
        else .next (s.modNode die node fun n => { n with marks := some due })
    | some _, some 0 => .next (finishNode s die node n)
    | _, _ => .next s
  | none => .next s

end Sys2Proof.Machine
end

