-- ==== Sys2Proof/Machine/Issue.lean ====
section
/-!
DEFINITION. Which context issues next (R54), its fetch, the passing of time, and what the memory and its environment do on their
own turns.
-/

namespace Sys2Proof.Machine

/-- Whether an instruction has begun something: more than to stand in the order of the cochain unit. -/
def Held.active (h : Held) : Bool := !h.unit || !h.got.isEmpty || h.begun != 0

/-- Whether a context stands at the start of a region with nothing of it done (R252, R265). -/
def Ctx.atBoundary (x : Ctx) : Bool :=
  x.region.entry == x.pc && x.hints == {} && x.region.fmask == 0 && !(x.held.any Held.active) && x.rel.isNone
    && x.region.wmask == maskOf (x.region.latched.map RegSave.code)

/-- Whether a context can be selected: it runs, does not stall, and no pre-emption waits at its boundary (R53, R265). -/
def Ctx.selectable (x : Ctx) : Bool := x.status == .running && x.stall == 0 && !(x.want && x.atBoundary)

/-- The contexts of a core that can be selected, in round-robin order (R54). -/
def Core.queue (k : Core) : List (Nat × Ctx) :=
  let order := (List.range 8).map fun i => (k.rr + i) % 8
  order.filterMap fun x => match tlook k.ctxs x with
    | some c => if c.selectable then some (x, c) else none
    | none => none

/-- The first entry of highest priority. -/
def bestOf : List (Nat × Ctx) → Option (Nat × Ctx)
  | [] => none
  | e :: es => match bestOf es with
    | some b => if e.2.prio < b.2.prio then some b else some e
    | none => some e

/-- The issue selector among ready contexts (R54): one passed over for 32 cycles, else the first of highest priority. -/
def pickOf (q : List (Nat × Ctx)) : Option Nat :=
  match q.find? fun e => 32 ≤ e.2.passed with
  | some e => some e.1
  | none => (bestOf q).map fun e => e.1

/-- A ready context has been passed over in one more cycle; one that is not ready begins to count anew (R54). -/
def Core.passOver (k : Core) (ready : List Nat) : Core :=
  { k with ctxs := k.ctxs.map fun e => (e.1, { e.2 with passed := if ready.contains e.1 then e.2.passed + 1 else 0 }) }

/-- Select a context: the round robin of the core goes on after it, whatever its priority (L79); the others ready have been passed over
(R54). -/
def Core.selectCtx (k : Core) (x : Nat) (ready : List Nat) : Core :=
  { (k.passOver (ready.filter fun i => i != x)) with rr := (x + 1) % 8 }

/-- A cycle passes on a core: stalls run down (R53). -/
def Core.cycle (k : Core) (n : Nat) : Core :=
  if k.ctxs.all fun e => e.2.stall == 0 then k
  else { k with ctxs := k.ctxs.map fun e => (e.1, { e.2 with stall := e.2.stall - n }) }

/-- Cycles of a die's clock pass (R103, R214). In HOLD the clocks of its cores stand and the calendar goes on; in KEEP and OFF nothing
counts (R435). -/
def State.dieCycles (s : State) (d n : Nat) : State :=
  match (s.die d).pw.state with
  | .run => s.modDie d fun x =>
      { x with pw := { x.pw with cycle := (x.pw.cycle + n) % 2 ^ 64 }, wsTime := x.wsTime + n * x.pw.units }
  | .hold => s.modDie d fun x => { x with wsTime := x.wsTime + n * x.pw.units }
  | .keep => s
  | .off => s

/-- Time passes on a die, on its own turn. -/
def State.tick (s : State) (d n : Nat) : State :=
  let s := s.dieCycles d n
  { s with cores := s.cores.map fun e => (e.1, if dieOf e.1 = d && s.isRunning e.1 then e.2.cycle n else e.2) }

/-- One cycle of the core whose turn it is. -/
def State.cycled (s : State) : State :=
  let s := s.dieCycles s.myDie 1
  if s.isRunning s.cur then s.modCore s.cur fun k => k.cycle 1 else s

/-- The core whose turn it is with its context selected and its open frames brought up to date (R379). -/
def State.selected (s : State) (x : Nat) (ready : List Nat) : State :=
  let s := { (s.modCore s.cur fun k => k.selectCtx x ready) with curCtx := x }
  s.modCtx (atJoin 32)

/-- How the selected context runs its next word. -/
abbrev Run := State → Host.Outcome State Fault Refusal

/-- What a context waits for (R54, L6): its next word would leave it as it is but for the mark of a wait; none when it is ready. -/
def State.waiting (s : State) (run : Run) (x : Nat) : Option WaitFor :=
  let s := s.selected x []
  match run s with
  | .next t =>
    let y := t.ctx
    if y.wait != .ready && { y with wait := s.ctx.wait } == s.ctx then some y.wait else none
  | _ => none

/-- Mark contexts of the core whose turn it is with what they wait for. -/
def State.markWaits (s : State) (ws : List (Nat × WaitFor)) : State :=
  ws.foldl (fun s e => s.modCtxAt s.cur e.1 fun x => { x with wait := e.2 }) s

/-- The contexts of a queue that wait, with what they wait for. -/
def State.waits (s : State) (run : Run) (q : List (Nat × Ctx)) : List (Nat × WaitFor) :=
  q.filterMap fun e => (s.waiting run e.1).map fun w => (e.1, w)

/-- The contexts of a queue that do not wait. -/
def readyOf (q : List (Nat × Ctx)) (ws : List (Nat × WaitFor)) : List (Nat × Ctx) := q.filter fun e => ws.all fun w => w.1 != e.1

/-- One issue among the contexts that can be selected (R54): the selector takes a ready one; those that wait try again in a later
turn, and where all do no context has been passed over. -/
def State.issueFrom (s : State) (run : Run) : List (Nat × Ctx) → Host.Outcome State Fault Refusal
  | [] => .next (s.modCore s.cur fun k => k.passOver [])
  | [e] => run (s.selected e.1 [e.1])
  | q =>
    let ws := s.waits run q
    let ready := readyOf q ws
    let s := s.markWaits ws
    match pickOf ready with
    | some x => run (s.selected x (ready.map fun e => e.1))
    | none => .next (s.modCore s.cur fun k => k.passOver [])

/-- The issue slot goes to the remote-op thread (R166): every context that is ready has been passed over (R54). -/
def State.threadFirst (s : State) (run : Run) (q : List (Nat × Ctx)) : State :=
  let ready := (readyOf q (s.waits run q)).map fun e => e.1
  threadTurn (s.modCore s.cur fun k => k.passOver ready) s.cur

/-- A turn of a core: one cycle passes, and an operation of the remote-op thread takes the issue slot (R166), or a context issues. A
core that is not running issues nothing. -/
def State.issueTurn (s : State) (run : Run) : Host.Outcome State Fault Refusal :=
  let q := (s.core s.cur).queue
  let s := s.cycled
  if threadReady s s.cur then .next (s.threadFirst run q)
  else if s.issues s.cur then s.issueFrom run q
  else .next s

/-- Fetch the word at the pc (R114). -/
def fetchWord (s : State) : Act (State × Nat) := do
  let (s, bs) ← fetchBytes s s.ctx.pc permX 4
  pure (s, leNat bs)

/-- A host write of HBM through the memory node (R433): nothing while the node is down. -/
def State.hostWrite (s : State) (pa : Nat) (bs : List Byte) : State :=
  if s.memUp (homeDie pa) && decide (pa % 4096 + bs.length ≤ 4096) then s.hbmWrite pa bs else s

/-- The host writes an entry of a command ring, never past the device's read index (R433). -/
def State.hostCommand (s : State) (c : Command) : State :=
  let ring := tget s.host.commands [] c.vf
  if (s.enumerated c.vf).isSome && decide (ring.length < tget s.host.commandCounts 64 c.vf) then
    { s with host := { s.host with commands := tput s.host.commands c.vf (ring ++ [c]) } }
  else s

/-- The host writes bytes into the 64 MiB image window, which recovery alone shows (R431). -/
def State.windowWrite (s : State) (off : Nat) (bs : List Byte) : State :=
  if s.fw.recovery && decide (off + bs.length ≤ 2 ^ 26) then { s with fw := { s.fw with window := mwrite s.fw.window off bs } } else s

/-- The host takes entries from a ring of a virtual function (R433), 0 events, 1 replies, 2 traces, or 3 from that of the physical
function. -/
def State.hostRead (s : State) (vf ring n : Nat) : State :=
  let cut (r : Ring) : Ring := { r with entries := r.entries.drop n }
  match ring with
  | 0 => ({ s with host := { s.host with events := tmod s.host.events {} vf cut } }).refillRings
  | 1 => ({ s with host := { s.host with replies := tmod s.host.replies {} vf cut } }).refillRings
  | 3 => ({ s with host := { s.host with pf := s.host.pf.drop n } }).refillRings
  | _ => { s with host := { s.host with traces := tmod s.host.traces [] vf fun r => r.drop n } }

/-- A radiation upset of a lane of a vector register that a context holds, at one of the register's instances, or of its duplicate
(R123). -/
def State.upset (s : State) (c ctx reg lane inst : Nat) (mask : Lane) (copy : Bool) : State :=
  s.modCtxAt c ctx fun x =>
    if x.status != .free && decide (reg < x.id.nv) && decide (lane < 32) && mask != 0
        && (instances x.lift (x.vreg reg).tags).contains inst then
      if copy then
        { x with dups := x.dups.map fun d => if d.reg = reg ∧ d.inst = inst then { d with lanes := addOnce d.lanes lane } else d }
      else { x with bad := x.bad ++ [⟨reg, lane, inst, mask⟩] }
    else x

/-- A spare register of the pool becomes the duplicate of a held register at one of its instances, where its words are good (R122): the
model makes it on a turn of its own, where the manual lets a write make it (L59). -/
def State.duplicate (s : State) (c ctx reg inst : Nat) : State :=
  let k := s.core c
  let x := s.ctxAt c ctx
  let dups := k.ctxs.foldl (fun n e => n + e.2.dups.length) 0
  let here (r i : Nat) : Bool := r == reg && i == inst
  if x.status != .free && decide (reg < x.id.nv) && (instances x.lift (x.vreg reg).tags).contains inst
      && !(x.dups.any fun d => here d.reg d.inst) && !(x.bad.any fun b => here b.reg b.inst)
      && decide (k.heldRegs + dups < 256) then s.setCtxAt c ctx { x with dups := x.dups ++ [⟨reg, inst, []⟩] }
  else s

/-- The request channel at a core's injection point has credits, or has none (R148). -/
def State.credit (s : State) (c : Nat) (ok : Bool) : State := s.modCore c fun k => { k with noCredit := !ok }

/-- How many words the cochain unit of a core reads or writes before other traffic comes between (R306). -/
def State.pace (s : State) (c n : Nat) : State := s.modCore c fun k => { k with pace := n }

/-- A bit error in HBM (R198): corrected and counted, or the granule is poisoned. -/
def State.bitError (s : State) (pa : Nat) (fatal : Bool) : State :=
  if fatal then { s with poison := addOnce s.poison (granuleOf pa) }
  else s.modDie (homeDie pa) fun d => { d with tele := { d.tele with corrections := d.tele.corrections + 1 } }

/-- The congestion level a path of a flow last reported (R404, R412). -/
def State.congestion (s : State) (die flow path level : Nat) : State :=
  s.modDie die fun d => match tlook d.flows flow with
    | some f => { d with flows := tput d.flows flow { f with cong := tput f.cong path level } }
    | none => d

/-! ## Placing a word where the next fetch reads it -/

/-- The pointer at which a placed program starts: segment 1, X permission, check byte under the key 0 (L3). -/
def bootPc : Word := mkPtr 0 permX 1 0

/-- Page-table entries of the placed program, from the root down: one 64 KiB page at virtual address 0x10000, all permissions. -/
def bootTables : List (Nat × Nat) :=
  [(0x10000, 0x10000020001), (0x20000, 0x10000030001), (0x30000, 0x10000040001), (0x40008, 0x100000500BB)]

/-- The virtual function of a placed program (L3): the quads of die 0, one object with one code segment. -/
def bootVf : Vf :=
  { quads := List.range 64
    root := 0x10000010000
    segs := [(1, ⟨0x10000, 0x10000, 15⟩)]
    objs := [(0, { slots := [1], nptr := 0, table := 0, floor := false, cls := [], handlers := [], nodes := [], edges := [], words := [],
                   level3 := false, spads := [], wellFormed := true })] }

/-- What stands for the load of a program (L3): die 0 started at level 3 with its memory up, a virtual function, the page tables,
and an activation of it in context 0 of core 0. -/
def State.boot (s : State) : State :=
  let s := s.modDie 0 fun d =>
    { d with pw := { d.pw with level := 3, state := .run, stopped := false, memUp := true, trained := true, stackFailed := false,
                               selfRefresh := false } }
  let s := { s with vfs := tput s.vfs 0 bootVf
                    hbm := bootTables.foldl (fun (m : Memory) (e : Nat × Nat) => mwrite m e.1 (leBytes 8 e.2)) s.hbm
                    cur := 0 }
  (s.modCore 0 fun k => { k with inReset := false, ctxs := [], q := { k.q with ropq := [] } }).modCtxAt 0 0 fun _ =>
    { status := .running, id := { act := 0, nv := 48 }, pc := bootPc, region := { entry := bootPc } }

/-- The physical address the next fetch of the core whose turn it is reads, when it has one. -/
def State.fetchAt (s : State) : Option Nat :=
  if s.issues s.cur && !threadReady s s.cur then
    match pickOf (s.core s.cur).queue with
    | none => none
    | some x =>
      let s := s.selected x []
      match (do
        let va ← pointerCheck s s.ctx.pc permX 4 false
        translate s s.ctx.pc va permX false) with
      | .ok (s, pa, _) => if s.memUp (homeDie pa) && !s.poison.contains (granuleOf pa) then some pa else none
      | .error _ => none
  else none

/-- Write a word of code, and drop the core's cached lines so that the fetch reads it. -/
def State.placeWord (s : State) (pa w : Nat) : State :=
  (s.hbmWrite pa (leBytes 4 w)).modCore s.cur fun k => { k with icache := [] }

end Sys2Proof.Machine
end

