-- ==== Sys2Proof/Machine/Traps.lean ====
section
/-!
DEFINITION. Major 0x00: traps, the parked activations and what acts on them, invalidation; the system handler, the save area,
pre-emption, restore and migration (R258 to R268).
-/

namespace Sys2Proof.Machine

/-! ## Traps (R268) -/

/-- `trap` and `brk` end the region and then park, once every earlier instruction has written its registers (R254): a `fres` goes on
after them. -/
def trapInto (i : Ins) (detail : Nat) (f1 : State → Word) (debug : State → Bool) (s : State) : Host.Outcome State Fault Refusal :=
  if s.ctx.status = .running then
    match prelude i s with
    | .error st => .next (settle i.word s st)
    | .ok s' =>
      if s'.merging then .next (settle i.word s (.wait .other)) else
      let pc := s'.ctx.pc
      let s1 := s'.modCtx fun x => { ({ x with pc := pc4 s', hints := {} }).endRegion [] with pc := pc }
      .next (s1.park i.word { code := cTRAP, detail := detail, f1 := f1 s, debug := debug s })
  else .fault .noActivation

/-- `trap` (R268). -/
def execTrap (a : Nat) (s : State) : Host.Outcome State Fault Refusal :=
  trapInto { word := wordTrap a, reads := [a], ends := true, once := true } 0 (fun s => s.sv a) (fun _ => false) s
/-- `brk` (R268, R434). -/
def execBrk (s : State) : Host.Outcome State Fault Refusal :=
  trapInto { word := wordBrk, ends := true, once := true } 1 (fun _ => 0) (fun s => s.myVf.debug) s

/-! ## Parked activations (R259, R263) -/

/-- Where a parked activation of a core is: in a context, at a place among the saved parked activations, or at a place among the
pre-empted contexts. -/
inductive ParkAt where
  | ctx (x : Nat)
  | saved (i : Nat)
  | away (i : Nat)
  deriving DecidableEq, Repr

/-- The parked activation of a core that a park number names. -/
def State.findPark (s : State) (c num : Nat) : Option (ParkAt × Ctx) :=
  let k := s.core c
  match k.ctxs.find? fun e => e.2.status == .parked && e.2.park.num == num with
  | some e => some (.ctx e.1, e.2)
  | none =>
    match findIdx (fun (x : Ctx) => x.park.num == num && !x.park.resume) k.savedParks 0 with
    | some e => some (.saved e.1, e.2)
    | none => (findIdx (fun (e : Nat × Ctx) => e.2.status == .parked && e.2.park.num == num) k.savedCtxs 0).map fun e =>
        (.away e.1, e.2.2)

/-- A park reference (R259): its number, BOUNDS when a reserved bit is set. -/
def parkNumber (s : State) (x : Word) : Act Nat :=
  if fld x 63 32 ≠ 0 ∨ fld x 15 4 ≠ 0 then faultAt s cBOUNDS 4 x else .ok (fld x 31 16)

/-- What `frec` reads of a parked activation, none for an index that is ILL (R263). -/
def parkField (x : Ctx) (i : Nat) : Option Word :=
  match i with
  | 0 => some x.sp.fault.f0
  | 1 => some x.sp.fault.f1
  | 2 => some x.sp.fault.f2
  | 3 => some x.sp.fault.f3
  | 4 => some x.region.entry
  | 5 => some (wd (1 + (if x.park.saved then 2 else 0) + min x.park.resumes 255 * 256))
  | _ => if 32 ≤ i then some (x.sv (i - 32)) else none

/-- `frec` (R263). -/
def execFrec (d a i : Nat) (s : State) : Host.Outcome State Fault Refusal :=
  onward { word := wordFrec d a i, reads := [a], writes := [d], once := true, ill := (parkField {} i).isNone }
    (fun s => do
      let num ← parkNumber s (s.sv a)
      writeS s d 0 fun _ => match s.findPark s.cur num with
        | some (_, x) => (parkField x i).getD 0
        | none => 0) s

/-- Renew the descriptors bound to the previous generation of their slot (R263). -/
def Ctx.renew (x : Ctx) (k : Core) : Ctx :=
  let new (r : KReg) : KReg :=
    let sl := tget k.slots {} (fld r.w0 36 36)
    match sl.prev, sl.cur with
    | some p, some c =>
      if fld r.w0 37 37 = 1 ∧ fld r.w0 63 48 = p.gen ∧ fld r.w0 63 48 ≠ c.gen then
        { r with w0 := (r.w0 &&& 0x0000FFFFFFFFFFFF) ||| wd (c.gen * 2 ^ 48) }
      else r
    | _, _ => r
  let fix (r : RegSave) : RegSave := match r with
    | .k n v => .k n (new v)
    | r => r
  { x with regs := { x.regs with k := x.regs.k.map fun (e : Nat × KReg) => (e.1, new e.2) }
           region := { x.region with latched := x.region.latched.map fix, oldTags := x.region.oldTags.map fix } }

/-- Resume a parked activation by tink-back (R253, R263); a saved one waits for the next free context, a pre-empted one for its
restore. -/
def State.resumePark (s : State) (c : Nat) (p : ParkAt) (renew : Bool) : State :=
  let k := s.core c
  let more (x : Ctx) : Ctx :=
    let y := if renew then x.renew k else x
    { y with park := { y.park with resumes := y.park.resumes + 1 } }
  match p with
  | .ctx i => (s.modCtxAt c i fun x => { (more x).tinkBack with status := .running }).trim c
  | .saved i =>
    s.modCore c fun k => { k with savedParks := k.savedParks.mapIdx fun j (x : Ctx) =>
      if j = i then let y := more x; { y with park := { y.park with resume := true } } else x }
  | .away i =>
    s.modCore c fun k => { k with savedCtxs := k.savedCtxs.mapIdx fun j (e : Nat × Ctx) =>
      if j = i then (e.1, { (more e.2).tinkBack with status := .running }) else e }

/-- Abort a parked activation (R263): it ends as at `done` without completing its node; the launch of a node's start activation is
aborted. -/
def State.abortPark (s : State) (c : Nat) (p : ParkAt) (x : Ctx) : State :=
  let s := match p with
    | .ctx i => s.endAt c i false
    | .saved i => (s.modCore c fun k => { k with savedParks := dropAt k.savedParks i }).afterEnd c 8 x false
    | .away i => (s.modCore c fun k => { k with savedCtxs := dropAt k.savedCtxs i }).afterEnd c 8 x false
  match x.id.node, x.id.launch with
  | some _, some l => s.abortLaunch l
  | _, _ => s

/-- `fres` (R263). -/
def execFres (d a f : Nat) (s : State) : Host.Outcome State Fault Refusal :=
  onward { word := wordFres d a f, reads := [a, f], writes := [d], ends := true, once := true }
    (fun s => do
      let num ← parkNumber s (s.sv a)
      let v := s.sv f
      if 2 ≤ v.toNat then fault s cBOUNDS 3 v
      let _ ← takePool s d 0
      match s.findPark s.cur num with
      | none => writeS s d 0 fun _ => 1
      | some (p, _) => writeS (s.resumePark s.cur p (v == 1)) d 0 fun _ => 0) s

/-- `fabt` (R263). -/
def execFabt (d a : Nat) (s : State) : Host.Outcome State Fault Refusal :=
  onward { word := wordFabt d a, reads := [a], writes := [d], ends := true, once := true }
    (fun s => do
      let num ← parkNumber s (s.sv a)
      let _ ← takePool s d 0
      match s.findPark s.cur num with
      | none => writeS s d 0 fun _ => 1
      | some (p, x) => writeS (s.abortPark s.cur p x) d 0 fun _ => 0) s

/-- A host command on a parked activation of a virtual function (R434): status 1 when it names none. -/
def execHostDebugCommand (vf c : Nat) (ref : Word) (abort : Bool) (s : State) : Host.Outcome State Fault Refusal :=
  let found := if fld ref 63 32 ≠ 0 ∨ fld ref 15 4 ≠ 0 then none else s.findPark c (fld ref 31 16)
  match found with
  | some (p, x) =>
    if x.id.vf ≠ vf ∨ !(s.vf vf).debug ∨ s.fw.recovery then .next (s.pfEvent (.debugStatus 1))
    else .next ((if abort then s.abortPark c p x else s.resumePark c p false).pfEvent (.debugStatus 0))
  | none => .next (s.pfEvent (.debugStatus 1))

/-! ## The system handler (R159, R260, R261) -/

/-- A parked activation that a type-254 message had started (R261). -/
def Core.nested (k : Core) : Option (ParkAt × Ctx) :=
  match k.ctxs.find? fun e => e.2.status == .parked && e.2.id.type == 254 && e.2.id.node.isNone with
  | some e => some (.ctx e.1, e.2)
  | none => (findIdx (fun (x : Ctx) => x.id.type == 254 && x.id.node.isNone && !x.park.resume) k.savedParks 0).map fun e =>
      (.saved e.1, e.2)

/-- Abort the parked activation a number names, if there is one. -/
def State.abortNumber (s : State) (c num : Nat) : State :=
  match s.findPark c num with
  | some (p, x) => s.abortPark c p x
  | none => s

/-- What the firmware does with a system message (R159): it goes toward the event ring; a fault message aborts what it names. -/
def State.firmware (s : State) (c : Nat) (m : Msg) : State :=
  let s := s.postHost c true m
  if m.type = 254 ∧ fld (m.word 0) 19 19 = 1 then s.abortNumber c (fld (m.word 4) 31 16) else s

/-- The firmware's system handler (R159): a nested fault first, aborting both activations (R261); else the oldest system message
the object has not bound, in a context that is free for it. -/
def execSystemHandler (c : Nat) (s : State) : Host.Outcome State Fault Refusal :=
  let k := s.core c
  if !s.isRunning c || k.preempted then .next s else
  match k.nested with
  | some (p, x) =>
    let s := s.abortPark c p x
    .next (match x.id.serves with
      | some num => s.abortNumber c num
      | none => s)
  | none =>
    match findIdx (fun (m : Msg) => m.isSystem && (tlook k.q.bindings m.type).isNone) k.q.mailbox 0 with
    | some (i, m) =>
      if (List.range 8).any fun x => s.fits c x m.launch 0 then
        .next ((s.modCore c fun k => { k with q := { k.q with mailbox := dropAt k.q.mailbox i } }).firmware c m)
      else .next s
    | none => .next s

/-- The place of a park number in the order of parking: the core's count is the next number. -/
def parkAge (count num : Nat) : Nat := (num + 65535 - count) % 65535

/-- The context with the oldest parked activation. -/
def oldestPark (count : Nat) : List (Nat × Ctx) → Option (Nat × Ctx)
  | [] => none
  | e :: es => match oldestPark count es with
    | some b => if parkAge count b.2.park.num < parkAge count e.2.park.num then some b else some e
    | none => some e

/-- Every context holds a parked activation while a type-254 message waits: the oldest is saved (R260). -/
def execParkedActivationSave (c : Nat) (s : State) : Host.Outcome State Fault Refusal :=
  let k := s.core c
  let parked := k.ctxs.filter fun e => e.2.status == .parked
  if parked.length = 8 ∧ (k.q.mailbox.any fun m => m.type == 254) then
    match oldestPark k.parkCount parked with
    | some (i, x) =>
      .next ((s.setCtxAt c i {}).modCore c fun k =>
        { k with savedParks := k.savedParks ++ [{ x with dups := [], park := { x.park with saved := true } }] })
    | none => .next s
  else .next s

/-! ## Pre-emption, restore, migration (R264 to R266) -/

/-- Whether an immediate pre-emption can take effect on a context now: nothing that has ended its region is still under way. -/
def Ctx.interruptible (x : Ctx) : Bool :=
  x.rel.isNone && (match x.held with
    | some h => !h.atomic
    | none => true)

/-- Whether a context's pre-emption can take effect in a mode. -/
def Ctx.saveable (x : Ctx) (immediate : Bool) : Bool :=
  x.status != .running || (if immediate then x.interruptible else x.atBoundary)

/-- A context as it is saved: a running one at its region's start, a parked one as it is; it holds no duplicates any more. -/
def Ctx.saved (x : Ctx) : Ctx :=
  match x.status with
  | .free => x
  | .running => { x.tinkBack with want := false, dups := [] }
  | .parked => { x with want := false, dups := [], park := { x.park with saved := true } }

/-- A saved context as it comes back. -/
def Ctx.restored (x : Ctx) : Ctx := { x with park := { x.park with saved := false } }

/-- Save one context for `CONTEXT_RESTORE`. -/
def State.saveCtx (s : State) (c i : Nat) : State :=
  let x := s.ctxAt c i
  if x.status = .free then s
  else (s.setCtxAt c i {}).modCore c fun k => { k with savedCtxs := k.savedCtxs ++ [(i, x.saved)] }

/-- Pre-empt one context, or remember that it is wanted. -/
def preemptCtx (s : State) (c i : Nat) (immediate : Bool) : State :=
  let x := s.ctxAt c i
  if x.status = .free then s
  else if x.saveable immediate then s.saveCtx c i
  else s.modCtxAt c i fun x => { x with want := true }

/-- The member of a core in its matrix unit. -/
def State.memberAt (s : State) (c : Nat) : Member := tget (s.octet (octetOf c)).members {} (memberOf c)

/-- A context whose core is to be pre-empted: an immediate pre-emption discards the progress of its region and ends its waits, unless
its instruction completes first (R265); it issues no further region. -/
def Ctx.wanted (x : Ctx) (immediate : Bool) : Ctx :=
  if x.status = .running then { (if immediate && x.interruptible then x.tinkBack else x) with want := true } else x

/-- Save a whole core. Contexts that were pre-empted singly before keep their places under the numbers 8 and up. -/
def Core.saveAll (k : Core) : Core :=
  { k with preempted := true
           savedCtxs := (k.ctxs.filter fun e => e.2.status != .free).map (fun (e : Nat × Ctx) => (e.1, e.2.saved))
             ++ k.savedCtxs.map fun (e : Nat × Ctx) => (e.1 + 8, e.2)
           ctxs := [] }

/-- Pre-empt a whole core: its contexts stop, and once each can be saved and the core's queues have drained it is saved (R265, R266). -/
def preemptCore (s : State) (c : Nat) (immediate : Bool) : State :=
  let k := s.core c
  let m := s.memberAt c
  if k.preempted then s
  else if (k.ctxs.all fun e => e.2.saveable immediate) && k.q.ropq.isEmpty && m.queue.isEmpty && m.backlog.isEmpty then
    s.modCore c Core.saveAll
  else (s.modCore c fun k => { k with ctxs := k.ctxs.map fun (e : Nat × Ctx) => (e.1, e.2.wanted immediate) }).trim c

/-- Boundary pre-emption (R265). -/
def execPreemptBoundary (c : Nat) (x : Option Nat) (s : State) : Host.Outcome State Fault Refusal :=
  match x with
  | some i => .next (preemptCtx s c i false)
  | none => .next (preemptCore s c false)

/-- Immediate pre-emption (R265). -/
def execPreemptImmediate (c : Nat) (x : Option Nat) (s : State) : Host.Outcome State Fault Refusal :=
  match x with
  | some i => .next (preemptCtx s c i true)
  | none => .next (preemptCore s c true)

/-- Restore a whole core. -/
def Core.restoreAll (k : Core) : Core :=
  { k with preempted := false
           ctxs := (k.savedCtxs.filter fun e => e.1 < 8).map fun (e : Nat × Ctx) => (e.1, e.2.restored)
           savedCtxs := (k.savedCtxs.filter fun e => 8 ≤ e.1).map fun (e : Nat × Ctx) => (e.1 - 8, e.2) }

/-- Whether a core is idle enough to take a migrated slice. -/
def Core.idle (k : Core) : Bool :=
  (k.ctxs.all fun e => e.2.status == .free) && k.savedCtxs.isEmpty && k.savedParks.isEmpty && !k.preempted
    && k.q.mailbox.isEmpty && k.q.pendq.isEmpty && k.q.joinq.isEmpty && k.q.ropq.isEmpty && k.q.raises.isEmpty && k.q.fires.isEmpty

/-- What a core keeps that only its reset clears: the generation counters of its slots, the park count and the counts of `sr.zfstat`
(R124, R258, R274). A core whose slice has left is otherwise as after reset (L66). -/
def Core.left (k : Core) : Core :=
  { slots := k.slots.map fun (e : Nat × Slot) => (e.1, { ctr := e.2.ctr }), parkCount := k.parkCount, zrd := k.zrd, zwr := k.zwr,
    rpr := k.rpr, rnr := k.rnr, noCredit := k.noCredit, pace := k.pace }

/-- A core with the slice of another, which brings its park numbers and generations; the counts of `sr.zfstat` stay those of the core. -/
def Core.takes (old k : Core) : Core :=
  { k with zrd := old.zrd, zwr := old.zwr, rpr := old.rpr, rnr := old.rnr, noCredit := old.noCredit, pace := old.pace }

/-- Migration of a pre-empted core's slice to another core of the virtual function (R266, R357): its ports are empty, its member
holds no bank set, none of its flows has an operation outstanding (R414); configuration, zero points, cursor and tile go along; bind
records and the core of the slice are rewritten. -/
def execCoreMigration (c dst : Nat) (s : State) : Host.Outcome State Fault Refusal :=
  let k := s.core c
  let m := s.memberAt c
  let vfOk := s.vfs.any fun v => inQuads v.2 c && inQuads v.2 dst
  let busy := s.dies.any fun d => d.2.flows.any fun f => f.2.core == c && !f.2.ops.isEmpty
  if c = dst || busy || !k.preempted || !(k.fifos.all fun f => f.2.isEmpty) || m.set.isSome || m.st != 0 || !(s.core dst).idle
      || !(s.nodesOn dst).isEmpty || !vfOk || !s.isRunning dst || (s.memberAt dst).set.isSome || !(s.memberAt dst).queue.isEmpty
  then .next s
  else
    let s := (s.setCore dst ((s.core dst).takes k)).setCore c k.left
    let s := s.modOctet (octetOf dst) fun o => { o with members := tput o.members (memberOf dst) m }
    let s := s.modOctet (octetOf c) fun o => { o with members := tput o.members (memberOf c) {} }
    let node (n : Nat × Node) : Nat × Node := (n.1, if n.2.core = c then { n.2 with core := dst } else n.2)
    let flow (f : Nat × Flow) : Nat × Flow := (f.1, if f.2.core = c then { f.2 with core := dst } else f.2)
    let launch (l : Nat × Launch) : Nat × Launch :=
      (l.1, { l.2 with cores := l.2.cores.map fun (e : Nat × Nat) => (e.1, if e.2 = c then dst else e.2) })
    .next { s with
      launches := s.launches.map launch
      dies := s.dies.map fun (d : Nat × Die) => (d.1, { d.2 with nodes := d.2.nodes.map node, flows := d.2.flows.map flow }) }

/-- The cycles of an `hstall` run down (R53). -/
def execHstallExpiry (c x : Nat) (s : State) : Host.Outcome State Fault Refusal :=
  let n := (s.ctxAt c x).stall
  if n = 0 then .next s else .next (s.tick (dieOf c) n)

/-! ## Invalidation (R267) -/

/-- Drop the instruction-cache lines of a virtual range in every core of a die. -/
def dropCode (s : State) (die vf lo hi : Nat) : State :=
  { s with cores := s.cores.map fun (c : Nat × Core) =>
      if dieOf c.1 = die then
        (c.1, { c.2 with icache := c.2.icache.filter fun e =>
          !(e.1 / 2 ^ 46 == vf && lo / 64 ≤ e.1 % 2 ^ 46 && decide (e.1 % 2 ^ 46 * 64 < hi)) })
      else c }

/-- Whether a cached translation lies outside a range. -/
def TlbEntry.outside (e : TlbEntry) (vf lo hi : Nat) : Bool :=
  !(e.vf == vf && decide (e.va < hi) && decide (lo < e.va + 2 ^ e.lg))

/-- Drop the translations of a virtual range on a die. -/
def dropTlb (s : State) (die vf lo hi : Nat) : State :=
  let s := s.modDie die fun d => { d with tlb := d.tlb.filter fun e => e.outside vf lo hi }
  { s with cores := s.cores.map fun (c : Nat × Core) =>
      if dieOf c.1 = die then (c.1, { c.2 with utlb := c.2.utlb.filter fun e => e.outside vf lo hi }) else c }

/-- Accesses of a virtual function from a die that were issued before a serial number and are still outstanding. -/
def olderAccess (s : State) (die vf since : Nat) : Bool :=
  (s.writes.any fun w => w.1 < since && w.2.own.vf == vf && dieOf w.2.own.core == die)
    || (s.reads.any fun r => r.1 < since && dieOf r.2.core == die)
    || (s.mgets.any fun r => r.1 < since && r.2.own.vf == vf && dieOf r.2.own.core == die)

/-- The dies an invalidation names: those of the mask granted to the virtual function, and the issuing die. -/
def invalDies (s : State) (mask : Nat) : List Nat :=
  (List.range 8).filter fun d => d == s.myDie || (bitOf mask d && bitOf (dieMask s.myVf) d)

/-- `icinv` and `tlbinv`: requests to every named die, held until all have confirmed. -/
def invalidate (word m a b : Nat) (icache : Bool) (s : State) : Host.Outcome State Fault Refusal :=
  onward { word := word, reads := [m, a, b], once := true }
    (fun s => do
      match s.ctx.held with
      | some h => if h.due = 0 then pure s else .error (.hold s)
      | none => do
        let lo := s.sv a
        let n := s.sv b
        if 2 ^ 52 ≤ lo.toNat ∨ 2 ^ 52 < lo.toNat + n.toNat then faultAt s cBOUNDS 1 lo
        let mask ← dmaskCheck s 2 m
        let hi := if n = 0 then 2 ^ 52 else lo.toNat + n.toNat
        let lo := if n = 0 then 0 else lo.toNat
        let own := s.owner word
        let (id, s) := s.fresh
        let ds := invalDies s mask
        let s := ds.foldl (fun s d => s.post ⟨0, s.cur, schedNode d, .inval icache own.vf lo hi own id none⟩) s
        .error (.hold (s.modCtx fun x => { x with held := some ⟨id, ds.length, [], false, 0, 0, false, [], none⟩ }))) s

/-- `icinv` (R267). -/
def execIcinv (m a b : Nat) (s : State) := invalidate (wordIcinv m a b) m a b true s
/-- `tlbinv` (R267). -/
def execTlbinv (m a b : Nat) (s : State) := invalidate (wordTlbinv m a b) m a b false s

/-- One named die has confirmed. -/
def confirmInval (s : State) (act id : Nat) : State :=
  s.modAct act fun x => match x.held with
    | some h => if h.id = id then { x with held := some { h with due := h.due - 1 }, wait := .ready } else x
    | none => x

/-- Replace the body of item k of the traffic. -/
def State.setFlight (s : State) (k : Nat) (f : Flight) : State := { s with net := lset s.net k f }

/-- An invalidation request reaches a die (R267): the entries go, and the die confirms once accesses through them are over. -/
def execInvalidationRequestArrival (k : Nat) (s : State) : Host.Outcome State Fault Refusal :=
  match s.flight k with
  | some ⟨ch, src, dst, .inval ic vf lo hi own id since⟩ =>
    let die := dst - 8192
    if ic then .next (confirmInval (dropCode (s.dropFlight k) die vf lo hi) own.act id)
    else
      match since with
      | none => .next ((dropTlb s die vf lo hi).setFlight k ⟨ch, src, dst, .inval ic vf lo hi own id (some s.serial)⟩)
      | some n => if olderAccess s die vf n then .next s else .next (confirmInval (s.dropFlight k) own.act id)
  | _ => .next s

end Sys2Proof.Machine
end

