-- ==== Sys2Proof/Machine/NetEvents.lean ====
section
/-!
DEFINITION. The memory nodes and the far-read caches on their own turns: requests, replies, acknowledgements, split-phase replies,
page walks, release markers and clock notes, the octet's barrier path, and the memory node's own resets (R185, R195 to R202, R219 to
R226, R233, R234).
-/

namespace Sys2Proof.Machine

/-! ## Requests at a memory node (R195 to R200, R231) -/

/-- The line a write names in the issuing die's far-read cache: none when it is homed there (R196). -/
def farDrop (own : Owner) (pa : Nat) : List Nat := if homeDie pa = dieOf own.core then [] else [granuleOf pa]

/-- A read of one granule as a memory node answers it (R198, R200). -/
def nodeRead (s : State) (d pa n : Nat) : Piece :=
  if !s.memUp d then .bad cMNODE
  else if s.poison.contains (granuleOf pa) then .bad cPOISON
  else .data (s.hbmRead pa n)

/-- The line a read brings for the far-read cache: it never holds a poisoned line (R197). -/
def farLine (s : State) (d pa : Nat) (cache : Bool) : Option (Nat × Nat) :=
  if cache && s.memUp d && !s.poison.contains (granuleOf pa) then
    some (granuleOf pa, leNat (s.hbmRead (pa / 64 * 64) 64))
  else none

/-- An atomic at a memory node: the piece that answers and the state (R231, R233). -/
def nodeAmo (s : State) (d pa fn : Nat) (x y : Word) : Piece × State :=
  match nodeRead s d pa 8 with
  | .bad c => (.bad c, s)
  | .data bs =>
    let s := match amoNew fn (wd (leNat bs)) x y with
      | some v => s.hbmWrite pa (leBytes 8 v.toNat)
      | none => s
    (.data bs, s)

/-- A write at a memory node: applied, or discarded while the node is down and reported once for all granules of its store (R200);
acknowledged either way. -/
def servedWrite (s : State) (d pa : Nat) (bs : List (Option Byte)) (w : WriteRec) : State :=
  if s.memUp d then s.nodeWrite pa bs
  else if w.told then s
  else { s.report w.own cMNODE 0 w.own.addr true true with
         writes := s.writes.map fun (e : Nat × WriteRec) => (e.1, if e.2.part = w.part then { e.2 with told := true } else e.2) }

/-- A memory node serves request k. -/
def execMemoryNodeRequest (k : Nat) (s : State) : Host.Outcome State Fault Refusal :=
  match s.flight k with
  | some ⟨_, _, dst, .read pa n own id piece load cache⟩ =>
    let d := dst - 4096
    .next ((s.dropFlight k).post ⟨2, dst, own.core, .reply id piece (nodeRead s d pa n) load (farLine s d pa cache) [] 0⟩)
  | some ⟨_, _, dst, .write pa bs wid⟩ =>
    match tlook s.writes wid with
    | some w =>
      .next ((servedWrite (s.dropFlight k) (dst - 4096) pa bs w).post ⟨2, dst, w.own.core, .ack wid (farDrop w.own pa)⟩)
    | none => .next (s.dropFlight k)
  | some ⟨_, _, dst, .amo pa fn x y own id piece wid⟩ =>
    let (p, s) := nodeAmo (s.dropFlight k) (dst - 4096) pa fn x y
    .next (s.post ⟨2, dst, own.core, .reply id piece p true none (farDrop own pa) wid⟩)
  | _ => .next s

/-! ## The far-read cache (R195 to R197, R225, R226) -/

/-- Whether an item still has to act on the far-read cache it passes. -/
def Flight.actsOnCache (f : Flight) : Bool :=
  match f.body with
  | .reply _ _ _ _ line drop _ => line.isSome || !drop.isEmpty
  | .ack _ drop => !drop.isEmpty
  | _ => false

/-- Whether item k is the next of its home's items to pass its die's far-read cache (R226). -/
def State.passesCache (s : State) (k : Nat) (f : Flight) : Bool :=
  !((s.net.take k).any fun g => g.chan == f.chan && g.src == f.src && dieOf g.dst == dieOf f.dst && g.actsOnCache)

/-- A die's far-read cache of 16 MiB takes a line; the oldest leave (R16, R197, L10). -/
def Die.fillFar (d : Die) (e : Nat × Nat) : Die := { d with far := (e :: tdel d.far e.1).take 262144 }

/-- Read data passing the cache fill it (R195, R225). -/
def execFarReadFill (k : Nat) (s : State) : Host.Outcome State Fault Refusal :=
  match nth s.net k with
  | some ⟨ch, src, dst, .reply id piece p load (some e) drop wid⟩ =>
    if s.passesCache k ⟨ch, src, dst, .reply id piece p load (some e) drop wid⟩ then
      .next ((s.modDie (dieOf dst) fun d => d.fillFar e).setFlight k ⟨ch, src, dst, .reply id piece p load none drop wid⟩)
    else .next s
  | _ => .next s

/-- Lines leave a die's far-read cache. -/
def State.dropLines (s : State) (die : Nat) (lines : List Nat) : State :=
  s.modDie die fun d => lines.foldl Die.dropLine d

/-- Whether an item of traffic belongs to a read. -/
def Flight.ofRead (id : Nat) (f : Flight) : Bool :=
  match f.body with
  | .read _ _ _ i _ _ _ => i == id
  | .reply i _ _ _ _ _ _ => i == id
  | _ => false

/-- A read whose last piece has arrived is no longer outstanding (R195). -/
def State.closeRead (s : State) (id : Nat) : State :=
  if s.net.any (Flight.ofRead id) then s else { s with reads := tdel s.reads id }

/-- A piece reaches the context that holds for it. -/
def Ctx.takePiece (id piece : Nat) (p : Piece) (x : Ctx) : Ctx :=
  match x.held with
  | some h =>
    if h.id = id then { x with held := some { h with due := h.due - 1, got := tput h.got piece p }, wait := .ready } else x
  | none => x

/-- A piece reaches every context that holds for its read: a serial number names one read. -/
def State.deliverPiece (s : State) (id piece : Nat) (p : Piece) : State :=
  let g (x : Ctx) : Ctx := Ctx.takePiece id piece p x
  { s with cores := s.cores.map fun (c : Nat × Core) =>
      (c.1, { c.2 with ctxs := c.2.ctxs.map fun (e : Nat × Ctx) => (e.1, g e.2) }) }

/-- A piece of a split-phase read is gathered (R202). -/
def State.gatherPiece (s : State) (id piece : Nat) (p : Piece) : State :=
  match tlook s.mgets id with
  | some r => { s with mgets := tput s.mgets id { r with due := r.due - 1, got := tput r.got piece p } }
  | none => s

/-- A write is acknowledged (R219): it is no longer outstanding, its raise is due (R208), its job may be complete. -/
def State.acknowledge (s : State) (wid : Nat) : State :=
  match tlook s.writes wid with
  | some w =>
    let s := { s with writes := tdel s.writes wid }
    let s := match w.raise with
      | some (c, r) => if s.isRunning c then s.queueRaise c r else s
      | none => s
    match (s.die (dieOf w.own.core)).jobs.find? fun j => w.job != 0 && j.wid == w.job with
    | some j => s.settleJob (dieOf w.own.core) j
    | none => s
  | none => s

/-- Replies to a pre-empted core wait in their channel (R266). -/
def State.away (s : State) (node : Nat) : Bool := decide (node < 2048) && (s.core node).preempted

/-- Reply k arrives at its core: a piece of a load, an atomic or a split-phase read; the lines an atomic wrote leave the cache. -/
def execReadReplyArrival (k : Nat) (s : State) : Host.Outcome State Fault Refusal :=
  match s.flight k with
  | some ⟨ch, src, dst, .reply id piece p load none drop wid⟩ =>
    if s.away dst || (!drop.isEmpty && !s.passesCache k ⟨ch, src, dst, .reply id piece p load none drop wid⟩) then .next s
    else
      let s := ((s.dropFlight k).dropLines (dieOf dst) drop).closeRead id
      let s := s.acknowledge wid
      .next (if load then s.deliverPiece id piece p else s.gatherPiece id piece p)
  | _ => .next s

/-- Acknowledgement k arrives (R219): its write is no longer outstanding, the line it names leaves the cache (R196). -/
def execWriteAcknowledgement (k : Nat) (s : State) : Host.Outcome State Fault Refusal :=
  match s.flight k with
  | some ⟨ch, src, dst, .ack wid drop⟩ =>
    if s.away dst || (!drop.isEmpty && !s.passesCache k ⟨ch, src, dst, .ack wid drop⟩) then .next s
    else
      .next (((s.dropFlight k).dropLines (dieOf dst) drop).acknowledge wid)
  | _ => .next s

/-! ## Split-phase replies (R202) -/

/-- The bytes of a gathered read, a poisoned burst as zeros, and its status: that of a memory node that was down, whatever else failed
(L87). -/
def MgetRec.result (r : MgetRec) : List Byte × Nat :=
  r.got.foldl (fun (acc : List Byte × Nat) (e : Nat × Piece) => match e.2 with
    | .data bs => (acc.1 ++ bs, acc.2)
    | .bad c => (acc.1 ++ List.replicate ((nth r.lens e.1).getD 0) 0, if c = cMNODE ∨ acc.2 = 0 then c else acc.2)) ([], 0)

/-- The reply of split-phase read k: its bytes land, then its message arrives; the message waits where it would be refused. -/
def execMgetReply (k : Nat) (s : State) : Host.Outcome State Fault Refusal :=
  match tlook s.mgets k with
  | some r =>
    if r.due ≠ 0 || s.away r.own.core then .next s
    else
      let c := r.own.core
      let (bs, st) := r.result
      let up : Bool := st != cMNODE
      let s1 := if r.landed || r.vecForm || !up then s
        else if s.isRunning c then s.spadWrite c r.x bs
        else s.lost c
      let s1 := { s1 with mgets := tput s1.mgets k { r with landed := true }, reads := tdel s1.reads k }
      let m : Msg :=
        { type := r.type, tag := r.tag, words := [if r.vecForm then r.y else wd r.x, wd r.n, wd st],
          vec := if r.vecForm && up then some (vecOf bs) else none, src := wd (0x1000 + r.home * 256), dst := c, vf := r.own.vf,
          launch := r.own.launch }
      .next ((({ s1 with mgets := tdel s1.mgets k }).arrive c m).getD s1)
  | none => .next s

/-! ## Translation (R185) -/

/-- A page walk of a die: its TLB keeps what the walk finds. -/
def execPageWalk (die vf va : Nat) (s : State) : Host.Outcome State Fault Refusal :=
  match walk s vf va with
  | .leaf pte lg =>
    let e : TlbEntry := ⟨vf, va / 2 ^ lg * 2 ^ lg, lg, pte⟩
    .next (s.modDie die fun d => { d with tlb := (e :: d.tlb.filter fun x => x != e).take 12288 })
  | _ => .next s

/-! ## Markers and clock notes (R223 to R225) -/

/-- The source of a waiting marker or note. -/
def waitSrc (w : Marker ⊕ (Nat × Nat)) : Nat :=
  match w with
  | .inl m => m.src
  | .inr n => n.1

/-- A die receives a marker (R224). -/
def execMarkerArrival (k : Nat) (s : State) : Host.Outcome State Fault Refusal :=
  match s.flight k with
  | some ⟨_, _, dst, .marker m⟩ =>
    .next ((s.dropFlight k).modDie (dst - 8192) fun d => { d with waiting := d.waiting ++ [.inl m] })
  | _ => .next s

/-- The notes of a source that no marker of it stands before are processed (R224). -/
def Die.takeNotes (src : Nat) : List (Marker ⊕ (Nat × Nat)) → Die → Die
  | [], d => d
  | w :: ws, d =>
    if waitSrc w ≠ src then Die.takeNotes src ws d
    else match w with
      | .inl _ => d
      | .inr n => Die.takeNotes src ws { d with clock := tput d.clock src n.2, waiting := d.waiting.erase w }

/-- A die receives a clock note: it sets the clock, or stands behind a marker of its source (R224). -/
def execClockNoteArrival (k : Nat) (s : State) : Host.Outcome State Fault Refusal :=
  match s.flight k with
  | some ⟨_, _, dst, .note src n⟩ =>
    .next ((s.dropFlight k).modDie (dst - 8192) fun d =>
      let d := { d with waiting := d.waiting ++ [Sum.inr (src, n)] }
      d.takeNotes src d.waiting)
  | _ => .next s

/-- Whether a marker may be applied: the die's clock has reached the marker's in every entry but the source's (R224), and but the
die's own, which names releases that the die has sent itself. -/
def Die.ready (d : Die) (self : Nat) (m : Marker) : Bool :=
  (List.range 16).all fun j => j == m.src || j == self || decide ((nth m.clock j).getD 0 ≤ tget d.clock 0 j)

/-- The page numbers PA[40:16] under which a granule's cell can be named: its two windows (R187). -/
def pagesOfLine (g : Nat) : List Nat :=
  let cell := g * 64
  let die := cell / 2 ^ 36
  let off := cell % 2 ^ 36
  [(2 ^ 40 + die * 2 ^ 36 + off) / 65536, (off / 4096 * 32768 + die * 4096 + off % 4096) / 65536]

/-- Whether a line lies in the pages of a summary. -/
def inSummary (pages : Option (List Nat)) (g : Nat) : Bool :=
  match pages with
  | none => true
  | some ps => (pagesOfLine g).any ps.contains

/-- What applying a marker does to a die's fills under way: they are delivered and not installed (R225). -/
def Flight.noInstall (die : Nat) (pages : Option (List Nat)) (f : Flight) : Flight :=
  match f.body with
  | .read pa n own id piece load cache =>
    if dieOf own.core = die ∧ inSummary pages (granuleOf pa) then
      { f with body := .read pa n own id piece load false } else { f with body := .read pa n own id piece load cache }
  | .reply id piece p load line drop wid =>
    match line with
    | some e =>
      if dieOf f.dst = die ∧ inSummary pages e.1 then { f with body := .reply id piece p load none drop wid } else f
    | none => f
  | _ => f

/-- Apply a marker to a die's far-read cache (R225). -/
def State.applySummary (s : State) (die : Nat) (pages : Option (List Nat)) : State :=
  let s := s.modDie die fun d => { d with far := d.far.filter fun e => !inSummary pages e.1 }
  { s with net := s.net.map (Flight.noInstall die pages) }

/-- A die applies the oldest waiting marker of a source: cache, clock, acknowledgement, then the notes behind it (R224, R225). -/
def execMarkerApply (die src : Nat) (s : State) : Host.Outcome State Fault Refusal :=
  let d := s.die die
  match d.waiting.find? fun w => waitSrc w == src with
  | some (.inl m) =>
    if d.ready die m then
      let s := s.applySummary die m.pages
      let s := s.modDie die fun d =>
        let d := { d with clock := tput d.clock src m.seq, waiting := d.waiting.erase (Sum.inl m) }
        d.takeNotes src d.waiting
      let dst := if m.node.isSome then schedNode m.src else m.own.core
      .next (s.post ⟨2, schedNode die, dst, .markerAck m.own m.node⟩)
    else .next s
  | _ => .next s

/-- A marker's acknowledgement arrives: at the release that waits for it, or at a node's completion (R170, R221). -/
def execMarkerAcknowledgement (k : Nat) (s : State) : Host.Outcome State Fault Refusal :=
  match s.flight k with
  | some ⟨_, _, dst, .markerAck own none⟩ =>
    if s.away dst then .next s
    else .next ((s.dropFlight k).modAct own.act fun x => match x.rel with
      | some r => { x with rel := some { r with due := r.due - 1 }, wait := .ready }
      | none => x)
  | some ⟨_, _, _, .markerAck _ (some ref)⟩ =>
    .next ((s.dropFlight k).modNode (ref / 65536) (ref % 65536) fun n => { n with marks := n.marks.map fun (m : Nat) => m - 1 })
  | _ => .next s

/-! ## The octet's barrier path (R234) -/

/-- A barrier operation reaches the record it names, once the clocks of its die are not held (R435). -/
def execBarrierArrival (k : Nat) (s : State) : Host.Outcome State Fault Refusal :=
  match s.flight k with
  | some ⟨_, _, dst, .barrier b⟩ => if s.clocksHeld (dieOf dst) then .next s else .next (barrierAnswer (s.dropFlight k) dst b 1)
  | _ => .next s

/-! ## The memory node by itself (R199, R200) -/

/-- A row's activation counter crosses the threshold: latency only (R199). -/
def execRowActivationAlert (die : Nat) (s : State) : Host.Outcome State Fault Refusal :=
  .next (s.modDie die fun d => { d with tele := { d.tele with rowAlerts := d.tele.rowAlerts + 1 } })

/-- A postponed refresh falls due: latency only (R199). -/
def execRefreshPostponementDue (die : Nat) (s : State) : Host.Outcome State Fault Refusal :=
  .next (s.modDie die fun d => { d with tele := { d.tele with refreshes := d.tele.refreshes + 1 } })

/-- The memory node goes down (R200). -/
def execMemoryNodeReset (die : Nat) (s : State) : Host.Outcome State Fault Refusal :=
  .next (s.modDie die fun d => { d with pw := { d.pw with memUp := false } })

/-- The memory node comes back up (R200). -/
def execMemoryNodeResetRelease (die : Nat) (s : State) : Host.Outcome State Fault Refusal :=
  .next (s.modDie die fun d => { d with pw := { d.pw with memUp := true } })

end Sys2Proof.Machine
end

