-- ==== Sys2Proof/Machine/Complex.lean ====
section
/-!
DEFINITION. Major 0x35: complexes and cochain registers as descriptors (R274 to R290), with the checks that every cochain
instruction makes (R292 to R295, R369) and the copy records a complex registers (R312).
-/

namespace Sys2Proof.Machine

/-! ## Slots and complexes (R274 to R279) -/

/-- Slot n of a core. -/
def Core.slot (k : Core) (n : Nat) : Slot := tget k.slots {} n
/-- Replace a slot of a core. -/
def State.putSlot (s : State) (c n : Nat) (v : Slot) : State := s.modCore c fun k => { k with slots := tput k.slots n v }
/-- Element k of a list of four counts. -/
def nat4 (xs : List Nat) (k : Nat) : Nat := (nth xs k).getD 0
/-- Cells of degree k: owned cells, then ghosts. -/
def Cplx.cells (x : Cplx) (k : Nat) : Nat := nat4 x.own k + nat4 x.gh k
/-- Used boundary entries of cell c of degree k. -/
def Cplx.face (x : Cplx) (k c : Nat) : List (Nat × Int) :=
  if k = 0 then [] else (nth ((nth x.faces (k - 1)).getD []) c).getD []
/-- Vertex list of cell c of degree k. -/
def Cplx.vert (x : Cplx) (k c : Nat) : List Nat :=
  if k = 0 then [c] else (nth ((nth x.verts (k - 1)).getD []) c).getD []
/-- Weight of cell c of degree k, as a value. -/
def Cplx.weight (x : Cplx) (k c : Nat) : FVal := f32.read ((nth ((nth x.weights k).getD []) c).getD 0)
/-- Cells of degree k + 1 with face f, with its sign in each: the used entries of each cell, ascending. -/
def Cplx.cofaces (x : Cplx) (k f : Nat) : List (Nat × Int) :=
  ((List.range (x.cells (k + 1))).map fun c =>
    ((x.face (k + 1) c).filter fun e => e.1 == f).map fun e => (c, e.2)).flatten
/-- The owner table entries of the ghosts of degree k: owner slice and local index there. -/
def Cplx.ghostOwners (x : Cplx) (k : Nat) : List (Nat × Nat) :=
  (x.owners.drop ((x.gh.take k).foldl (fun a b => a + b) 0)).take (nat4 x.gh k)

/-- A table's bytes, rounded up to a multiple of 8. -/
def pad8 (n : Nat) : Nat := roundUp n 8
/-- Bytes of the image of a complex with the given counts of cells (R276, R277). -/
def imageLen (dim : Nat) (simp : Bool) (cells nf : List Nat) (ghosts : Nat) : Nat :=
  80 + pad8 (4 * ghosts) + (List.range (dim + 1)).foldl (fun t k =>
    t + pad8 (4 * nat4 cells k)
      + (if k = 0 then 0 else pad8 (4 * nat4 cells k * nat4 nf k) + (if simp then pad8 (2 * (k + 1) * nat4 cells k) else 0))) 0

/-- Bytes of a complex in the complex store (R279). -/
def Cplx.store (x : Cplx) : Nat := 2 * x.len
/-- Bytes of a pending complex, over the current one it edits. -/
def PendCplx.store (p : PendCplx) (cur : Cplx) : Nat :=
  let live := [p.nv - p.deadV.length, p.edges.length, p.tris.length, 0]
  2 * imageLen cur.dim cur.simp live cur.nf (cur.gh.foldl (fun a b => a + b) 0)
/-- Bytes of a slot's tables. -/
def Slot.store (x : Slot) : Nat :=
  (match x.cur with
    | some c => c.store + (match x.pend with
      | some p => p.store c
      | none => 0)
    | none => 0)
    + (match x.prev with
      | some c => c.store
      | none => 0)

/-- Element size of a cochain format (R281). -/
def esOf (fmt : Nat) : Nat := if fmt < 2 then 4 else 2
/-- Staging that a pending accumulate holds (R318). -/
def KReg.staged (k : KReg) : Nat :=
  if k.pushed && k.kind == 1 then (k.count + k.parts.length) * (esOf (fld k.w0 35 34) * (fld k.w0 23 16 + 1)) else 0
/-- Staging of a core's pending accumulates. -/
def Core.staging (k : Core) : Nat :=
  ((k.ctxs.map fun e => e.2) ++ k.savedParks ++ k.savedCtxs.map fun e => e.2).foldl
    (fun t x => if x.status = .free then t else x.regs.k.foldl (fun t e => t + e.2.staged) t) 0
/-- Bytes of the complex store in use (R279, R318). -/
def Core.storeUsed (k : Core) : Nat := (k.slot 0).store + (k.slot 1).store + k.staging

/-- The next generation of a counter (R274). -/
def nextGen (ctr : Nat) : Nat := if ctr = 65535 then 1 else ctr + 1

/-! ## Reading an image (R276 to R278) -/

/-- What is wrong with an image: offset of the first byte at fault, reason. -/
abbrev Flaw := Nat × Nat

/-- The flaw with the lowest offset. -/
def firstFlaw : List Flaw → Option Flaw
  | [] => none
  | f :: fs => match firstFlaw fs with
    | some g => if g.1 < f.1 then some g else some f
    | none => some f

/-- An odd number of inversions. -/
def oddPerm : List Nat → Bool
  | [] => false
  | x :: xs => ((xs.filter fun y => decide (y < x)).length % 2 == 1) != oddPerm xs

/-- Whether `b` lists the same elements as `a`, none twice. -/
def sameSet (a b : List Nat) : Bool := a.length == b.length && (a.all b.contains) && (b.all a.contains)

/-- The places of the elements of `a` in `b`. -/
def placesIn (a b : List Nat) : List Nat := a.map fun x => b.findIdx fun y => y == x

/-- Whether the permutation from one vertex list to another is odd (R277, R302). -/
def oddTo (u f : List Nat) : Bool := oddPerm (placesIn u f)

/-- A reader of little-endian fields of an image. -/
abbrev Image := Nat → Nat → Nat

/-- The flaws of the header up to the length, in byte order (R276). -/
def headFlaws (u : Image) : List Flaw :=
  let dim := u 4 1
  let bad (b : Bool) (o r : Nat) : List Flaw := if b then [(o, r)] else []
  (if [u 0 1, u 1 1, u 2 1, u 3 1] = [0x4B, 0x43, 0x58, 0x31] then []
    else match findIdx (fun (p : Nat × Nat) => u p.1 1 != p.2) [(0, 0x4B), (1, 0x43), (2, 0x58), (3, 0x31)] 0 with
      | some e => [(e.1, 1)]
      | none => [])
    ++ bad (3 < dim) 4 1 ++ bad (2 ≤ u 5 1) 5 1 ++ bad (u 6 1 != 0) 6 1 ++ bad (u 7 1 != 0) 7 1
    ++ ((List.range 4).map fun k => bad (dim < k && u (8 + 2 * k) 2 != 0) (8 + 2 * k) 2).flatten
    ++ ((List.range 4).map fun k =>
        bad ((dim < k && u (16 + 2 * k) 2 != 0) || 65535 < u (8 + 2 * k) 2 + u (16 + 2 * k) 2) (16 + 2 * k) 2).flatten
    ++ ((List.range 4).map fun k =>
        let n := u (24 + k) 1
        bad (if 1 ≤ k ∧ k ≤ dim then n = 0 || 8 < n else n != 0) (24 + k) 2).flatten
    ++ bad (u 28 4 < 80 || u 28 4 % 8 != 0) 28 2

/-- One table of an image: where its offset stands in the header, whether it must be present, its bytes. -/
structure TableAt where
  hdr : Nat
  present : Bool
  size : Nat
  deriving DecidableEq, Repr

/-- The tables in header order (R276). -/
def imageTables (u : Image) : List TableAt :=
  let dim := u 4 1
  let n (k : Nat) : Nat := u (8 + 2 * k) 2 + u (16 + 2 * k) 2
  let gh := (List.range 4).foldl (fun t k => t + u (16 + 2 * k) 2) 0
  ([1, 2, 3].map fun k => ⟨32 + 4 * (k - 1), decide (k ≤ dim), 4 * n k * u (24 + k) 1⟩)
    ++ ([0, 1, 2, 3].map fun k => ⟨44 + 4 * k, decide (k ≤ dim), 4 * n k⟩)
    ++ [⟨60, gh != 0, 4 * gh⟩]
    ++ ([1, 2, 3].map fun k => ⟨64 + 4 * (k - 1), u 5 1 == 1 && decide (k ≤ dim), 2 * (k + 1) * n k⟩)

/-- The flaws of the offsets (reason 3), each against the header and the tables before it. -/
def offsetFlaws (u : Image) (len : Nat) : List TableAt → List (Nat × Nat) → List Flaw
  | [], _ => []
  | t :: ts, spans =>
    let o := u t.hdr 4
    let e := o + t.size
    let bad : Bool := (o != 0) != t.present || o % 8 != 0 || decide (len < e)
      || (o != 0 && spans.any fun p => decide (o < p.2) && decide (p.1 < e))
    (if bad then [(t.hdr, 3)] else []) ++ offsetFlaws u len ts (if o = 0 then spans else spans ++ [(o, e)])

/-- The used entries of one cell from a boundary table, or its first flaw in byte order (reasons 1, 4, 5). -/
def readEntries (u : Image) (o nface : Nat) : Nat → Bool → Except Flaw (List (Nat × Int))
  | 0, _ => .ok []
  | n + 1, gap =>
    let f := u o 2
    let sg := u (o + 2) 1
    if sg = 0 ∧ f = 0 then
      if u (o + 3) 1 ≠ 0 then .error (o + 3, 1) else readEntries u (o + 4) nface n true
    else if nface ≤ f then .error (o, 4)
    else if sg = 0 then .error (o, 5)
    else if gap then .error (o + 2, 5)
    else if sg ≠ 1 ∧ sg ≠ 0xFF then .error (o + 2, 5)
    else if u (o + 3) 1 ≠ 0 then .error (o + 3, 1)
    else (readEntries u (o + 4) nface n gap).map fun es => (f, if sg = 1 then (1 : Int) else -1) :: es

/-- The entries of a cell, none where they have a flaw. -/
def entriesOf (r : Except Flaw (List (Nat × Int))) : List (Nat × Int) :=
  match r with
  | .ok es => es
  | .error _ => []

/-- The flaw of a cell's entries. -/
def flawOf (r : Except Flaw (List (Nat × Int))) : Option Flaw :=
  match r with
  | .ok _ => none
  | .error f => some f

/-- A complex read from an image without regard to flaws between its cells; beside it the flaw of each cell of degrees 1 to 3, in its
place. -/
def rawCplx (u : Image) : Cplx × List (List (Option Flaw)) :=
  let dim := u 4 1
  let simp : Bool := u 5 1 == 1
  let own := (List.range 4).map fun k => u (8 + 2 * k) 2
  let gh := (List.range 4).map fun k => u (16 + 2 * k) 2
  let nf := (List.range 4).map fun k => u (24 + k) 1
  let n (k : Nat) : Nat := nat4 own k + nat4 gh k
  let faces := ((List.range dim).map (· + 1)).map fun k =>
    (List.range (n k)).map fun c =>
      readEntries u (u (32 + 4 * (k - 1)) 4 + 4 * c * nat4 nf k) (n (k - 1)) (nat4 nf k) false
  let verts := if simp then ((List.range dim).map (· + 1)).map fun k =>
      (List.range (n k)).map fun c => (List.range (k + 1)).map fun j => u (u (64 + 4 * (k - 1)) 4 + (c * (k + 1) + j) * 2) 2
    else []
  let weights := (List.range (dim + 1)).map fun k => (List.range (n k)).map fun c => u (u (44 + 4 * k) 4 + 4 * c) 4
  let owners := (List.range (gh.foldl (fun a b => a + b) 0)).map fun g => (u (u 60 4 + 4 * g) 2, u (u 60 4 + 4 * g + 2) 2)
  ({ dim := dim, simp := simp, own := own, gh := gh, nf := nf, len := u 28 4, faces := faces.map fun f => f.map entriesOf,
     verts := verts, weights := weights, owners := owners }, faces.map fun f => f.map flawOf)

/-- Whether the signed boundary of the boundary of a cell vanishes (reason 6). -/
def Cplx.closed (x : Cplx) (k c : Nat) : Bool :=
  let terms := ((x.face k c).map fun e => (x.face (k - 1) e.1).map fun g => (g.1, e.2 * g.2)).flatten
  terms.all fun t => (terms.foldl (fun (a : Int) e => if e.1 = t.1 then a + e.2 else a) 0) == 0

/-- Whether a cell's vertex list has no flaw of its own: its vertices exist and are distinct. -/
def Cplx.vertsOk (x : Cplx) (k c : Nat) : Bool :=
  let v := x.vert k c
  (v.all fun a => decide (a < x.cells 0)) && v.eraseDups.length == v.length

/-- Where the first entry of a cell breaks the order or the signs of R277 (reason 10), in bytes from the cell's entries: at its face, or
at its sign where only that is wrong. Beside a vertex list with a flaw of its own nothing is compared. -/
def Cplx.badEntry (x : Cplx) (k c : Nat) : Option Nat :=
  let v := x.vert k c
  (((x.face k c).mapIdx fun j e => (j, e)).findSome? fun (p : Nat × (Nat × Int)) =>
    let want := dropAt v p.1
    let fv := x.vert (k - 1) p.2.1
    if !x.vertsOk k c || !x.vertsOk (k - 1) p.2.1 then none
    else if !sameSet fv want then some (4 * p.1)
    else if p.2.2 == (if (p.1 % 2 == 1) != oddTo fv want then -1 else 1) then none
    else some (4 * p.1 + 2))

/-- The flaws between cells, of a complex read from an image (reasons 4, 6, 7, 8, 10). Of a cell whose entries have a flaw, here `bad`,
and of a boundary with such a cell, nothing more is checked. -/
def cellFlaws (u : Image) (x : Cplx) (bad : Nat → Nat → Bool) (slice : Nat) : List Flaw :=
  let degs := (List.range x.dim).map (· + 1)
  let cells (k : Nat) (f : Nat → List Flaw) : List Flaw := ((List.range (x.cells k)).map f).flatten
  let bnd (k c : Nat) : Nat := u (32 + 4 * (k - 1)) 4 + 4 * c * nat4 x.nf k
  let vtx (k c : Nat) : Nat := u (64 + 4 * (k - 1)) 4 + 2 * (k + 1) * c
  let whole (k c : Nat) : Bool := !bad k c && (x.face k c).all fun e => !bad (k - 1) e.1
  (degs.map fun k => cells k fun c => if 2 ≤ k ∧ whole k c ∧ !x.closed k c then [(bnd k c, 6)] else []).flatten
    ++ (if x.simp then
        (degs.map fun k => cells k fun c =>
          let v := x.vert k c
          (match findIdx (fun a => decide (x.cells 0 ≤ a)) v 0 with
            | some e => [(vtx k c + 2 * e.1, 4)]
            | none => if v.eraseDups.length ≠ v.length then [(vtx k c, 10)] else [])
          ++ (if bad k c then [] else if (x.face k c).length ≠ k + 1 then [(bnd k c, 10)] else match x.badEntry k c with
            | some j => [(bnd k c + j, 10)]
            | none => [])).flatten
      else [])
    ++ ((List.range (x.dim + 1)).map fun k => cells k fun c =>
        match x.weight k c with
        | .fin _ n _ => if n = 0 then [(u (44 + 4 * k) 4 + 4 * c, 8)] else []
        | _ => [(u (44 + 4 * k) 4 + 4 * c, 8)]).flatten
    ++ (x.owners.mapIdx fun g o => if slice ≤ o.1 then [(u 60 4 + 4 * g, 7)] else []).flatten

/-- Read an image, or tell its first flaw in byte order (R278); `free` are the bytes of store it may take. -/
def readImage (u : Image) (slice free : Nat) : Except Flaw Cplx :=
  match headFlaws u with
  | f :: _ => .error f
  | [] =>
    let len := u 28 4
    if free < 2 * len then .error (28, 9) else
    match offsetFlaws u len (imageTables u) [(0, 80)] with
    | f :: _ => .error f
    | [] =>
      match findIdx (fun o => u o 1 != 0) [76, 77, 78, 79] 0 with
      | some e => .error (76 + e.1, 1)
      | none =>
        let (x, fs) := rawCplx u
        let bad (k c : Nat) : Bool := k != 0 && ((nth ((nth fs (k - 1)).getD []) c).getD none).isSome
        match firstFlaw (fs.flatten.filterMap id ++ cellFlaws u x bad slice) with
        | some f => .error f
        | none => .ok x

/-! ## Cochain registers (R275, R280 to R283) -/

/-- Put a field into a word. -/
def setFld (w : Word) (hi lo v : Nat) : Word :=
  wd (w.toNat - fld w hi lo * 2 ^ lo + v % 2 ^ (hi + 1 - lo) * 2 ^ lo)

/-- Whether the register is defined. -/
def KReg.defined (k : KReg) : Bool := fld k.w0 37 37 == 1
/-- The slot it is bound to. -/
def KReg.slot (k : KReg) : Nat := fld k.w0 36 36
/-- Its generation. -/
def KReg.gen (k : KReg) : Nat := fld k.w0 63 48
/-- Format: 0 bx, 1 f32, 2 f16, 3 bf16. -/
def KReg.fmt (k : KReg) : Nat := fld k.w0 35 34
/-- Degree. -/
def KReg.deg (k : KReg) : Nat := fld k.w0 33 32
/-- Channels less 1. -/
def KReg.chm (k : KReg) : Nat := fld k.w0 23 16
/-- The bx exponent byte. -/
def KReg.exp (k : KReg) : Nat := fld k.w0 31 24
/-- The bx exponent. -/
def KReg.E (k : KReg) : Int := sxt 8 k.exp
/-- First channel of each row. -/
def KReg.choff (k : KReg) : Nat := fld k.w1 43 36
/-- Row stride in bytes. -/
def KReg.rowBytes (k : KReg) : Nat := 8 * fld k.w1 35 20
/-- Address of row 0. -/
def KReg.base (k : KReg) : Nat := fld k.w1 19 0
/-- Element size. -/
def KReg.es (k : KReg) : Nat := esOf k.fmt
/-- The register with another tag set. -/
def KReg.withTags (k : KReg) (t : Nat) : KReg := { k with w0 := setFld k.w0 47 44 t }
/-- The register in the clean state, nothing expected (R314). -/
def KReg.clean (k : KReg) : KReg := { k with w0 := setFld k.w0 43 42 0, kind := 0, count := 0, recs := [], parts := [] }
/-- OR flags into the sticky status (R97): NV to INV, OF to OVF, NX to INX. -/
def KReg.orStatus (k : KReg) (fl : Nat) : KReg :=
  let b (m i : Nat) : Word := if (fl &&& m) ≠ 0 then wd (2 ^ i) else 0
  { k with w0 := k.w0 ||| b fOF 41 ||| b fNV 40 ||| b fNX 39 }

/-- What a binding is, relative to its slot (R275). -/
inductive Binds where
  | live
  | previous
  | dead
  deriving DecidableEq, Repr

/-- The state of a register's binding. -/
def Core.bindState (k : Core) (r : KReg) : Binds :=
  let x := k.slot r.slot
  match x.cur with
  | some c => if c.gen = r.gen then .live else
      match x.prev with
      | some p => if p.gen = r.gen then .previous else .dead
      | none => .dead
  | none => .dead

/-- The current complex of a register's slot. -/
def Core.cplxOf (k : Core) (r : KReg) : Cplx := ((k.slot r.slot).cur).getD {}

/-- The span of a register over its instances under a tag set: first byte and the byte after the last, none without rows (R294,
R369). -/
def KReg.span (k : KReg) (l : Lift) (x : Cplx) (tags : Nat) : Option (Nat × Nat) :=
  let n := x.cells k.deg
  if n = 0 then none
  else some (k.base + k.es * k.choff,
    k.base + k.rowBytes * (n * instCount l tags - 1) + k.es * (k.choff + k.chm + 1))

/-- Whether a destination overlaps a source (R294). -/
def kOverlaps (l : Lift) (d : KReg) (dx : Cplx) (dt : Nat) (a : KReg) (ax : Cplx) : Bool :=
  if d.base = a.base ∧ d.rowBytes = a.rowBytes then
    decide (d.es * d.choff < a.es * (a.choff + a.chm + 1)) && decide (a.es * a.choff < d.es * (d.choff + d.chm + 1))
  else
    match d.span l dx dt, a.span l ax a.tags with
    | some (p, q), some (u, v) => decide (p < v) && decide (u < q)
    | _, _ => false

/-- Steps 1 and 2 of R292: defined, live; `prev` accepts a previous binding. -/
def kLive (s : State) (ns : List Nat) : Act Unit := do
  match ns.find? fun n => !(s.ctx.kreg n).defined with
  | some _ => fault s cKTYPE 1
  | none => pure ()
  match ns.find? fun n => (s.core s.cur).bindState (s.ctx.kreg n) != .live with
  | some n => fault s cSTALE (if (s.core s.cur).bindState (s.ctx.kreg n) = .previous then 0 else 1) (wd n)
  | none => pure ()

/-- Every instance span of a register, read or written, lies in scratchpad (R369). -/
def kSpan (s : State) (k : KReg) (x : Cplx) (tags : Nat) (write : Bool := false) : Act Unit :=
  match k.span s.ctx.lift x tags with
  | some (_, e) => if Config.spadBytes < e then faultAt s cBOUNDS 1 (wd k.base) write else .ok ()
  | none => .ok ()

/-- Wait for the first pushed register of a list, or SEAMTO once its timeout has passed (R295, R319). -/
def seamWait (s : State) (ns : List Nat) : Act Unit :=
  match ns.find? fun n => (s.ctx.kreg n).pushed with
  | some n =>
    let k := s.ctx.kreg n
    if s.ctx.tmo then fault s cSEAMTO (if k.kind = 0 then 1 else 2) (wd (n + k.count % 65536 * 16))
    else .error (.wait (.seam n))
  | none => .ok ()

/-! ## The cochain unit (R306) -/

/-- The words of scratchpad that spans of bytes take, in their order. -/
def unitWords (spans : List (Nat × Nat)) : List Nat :=
  (spans.map fun (e : Nat × Nat) =>
    (List.range ((e.1 + e.2 + 7) / 8 - e.1 / 8)).map fun i => e.1 / 8 + i).flatten.eraseDups

/-- Bytes to be written, cut into pieces of one word each. -/
def unitPieces (outs : List (Nat × List Byte)) : List (Nat × List Byte) :=
  (outs.map fun (e : Nat × List Byte) =>
    (unitWords [(e.1, e.2.length)]).map fun w =>
      (max e.1 (8 * w), (e.2.drop (8 * w - e.1)).take (8 * w + 8 - max e.1 (8 * w)))).flatten

/-- Write bytes in order. -/
def putAll (outs : List (Nat × List Byte)) (m : Memory) : Memory :=
  outs.foldl (fun m (e : Nat × List Byte) => mwrite m e.1 e.2) m

/-- Change what the executing context holds of the unit; its serial number gives it its place. `ended` says that its region
has ended, so that a pre-emption lets it complete (R265). -/
def State.onUnit (s : State) (ended : Bool) (f : Held → Held) : State :=
  match s.ctx.held with
  | some h => s.modCtx fun x => { x with held := some (f h) }
  | none =>
    let (id, s) := s.fresh
    s.modCtx fun x => { x with held := some (f { id := id, due := 0, got := [], atomic := ended, unit := true }) }

/-- The other contexts of the core that stand in the order of the unit. -/
def State.unitQueue (s : State) : List Held :=
  (s.core s.cur).ctxs.filterMap fun e => if e.1 = s.curCtx then none else e.2.held.filter fun h => h.unit

/-- An instruction's turn on the unit: one at a time, in issue order across contexts. -/
def unitTurn (s : State) (ended : Bool := false) : Act Unit :=
  match s.ctx.held with
  | none => if s.unitQueue.isEmpty then .ok () else .error (.hold (s.onUnit ended id))
  | some h => waitFor (s.unitQueue.all fun g => decide (h.id < g.id))

/-- The scratchpad as the unit reads it: a word already read keeps the value it had then. -/
def State.unitMem (s : State) : Memory :=
  let m := (s.core s.cur).spad
  match s.ctx.held with
  | none => m
  | some h => h.got.foldl (fun m (e : Nat × Piece) => match e.2 with
      | .data bs => mwrite m (8 * e.1) bs
      | .bad _ => m) m

/-- The unit reads the words of spans, each atomically: as many in a turn as the core's pace gives it (L71). -/
def unitRead (s : State) (spans : List (Nat × Nat)) (ended : Bool := false) : Act Memory :=
  let k := s.core s.cur
  let got := match s.ctx.held with
    | some h => h.got
    | none => []
  let todo := if k.pace = 0 then [] else (unitWords spans).filter fun w => (tlook got w).isNone
  if todo.isEmpty then .ok s.unitMem
  else .error (.hold (s.onUnit ended fun h =>
    { h with got := h.got ++ (todo.take k.pace).map fun w => (w, Piece.data (mread k.spad (8 * w) 8)) }))

/-- The unit writes bytes, word by word and each word atomically: as many in a turn as the core's pace gives it. -/
def unitWrite (s : State) (outs : List (Nat × List Byte)) : Act State :=
  let put (l : List (Nat × List Byte)) : State := s.modCore s.cur fun c => { c with spad := putAll l c.spad }
  let n := (s.core s.cur).pace
  let begun := match s.ctx.held with
    | some h => h.begun
    | none => 0
  if n = 0 ∧ begun = 0 then .ok (put outs)
  else
    let left := (unitPieces outs).drop begun
    if n = 0 ∨ left.length ≤ n then .ok (put left)
    else .error (.hold ((put (left.take n)).onUnit false fun h => { h with begun := begun + n }))

/-! ## Copy records (R311 to R313) -/

/-- The core of a slice: the one that holds a bind record of it in the launch. -/
def State.coreOfSlice (s : State) (launch : Option Nat) (slice : Nat) : Option Nat :=
  if launch.isNone then none else
    s.dies.findSome? fun (d : Nat × Die) =>
      (d.2.nodes.find? fun (n : Nat × Node) =>
        n.2.launch == launch && n.2.slice == slice && (n.2.state == NodeState.bound || n.2.state == NodeState.running)).map
          fun n => n.2.core

/-- The copy records of a complex's ghosts: owner slice and record. -/
def Cplx.copyRecs (x : Cplx) (slot holder : Nat) : List (Nat × CopyRec) :=
  ((List.range 4).map fun k => (x.ghostOwners k).mapIdx fun g o => (o.1, (⟨slot, holder, k, g, o.2⟩ : CopyRec))).flatten

/-- The owner slices a complex names. -/
def Cplx.ownerSlices (x : Cplx) : List Nat := (x.owners.map fun o => o.1).eraseDups

/-- The channel that seam traffic takes (R313): the seam lane to the own core or a mesh neighbour, else the request channel. -/
def seamChan (c d : Nat) : Nat :=
  if c = d ∨ ([48, 49, 50, 51].any fun p => neighbour c p == some d) then 4 else 0

/-- Register a complex with its owners (R312): withdrawals, then one record per ghost; a record whose owner has no core is
discarded and reported. -/
def registerCplx (s : State) (own : Owner) (slot slice : Nat) (named : List Nat) (x : Cplx) : State :=
  let s := named.foldl (fun s o => match s.coreOfSlice own.launch o with
    | some c => let (w, s) := s.addWrite own c []
                s.post ⟨seamChan own.core c, own.core, c, .withdraw slot slice own w⟩
    | none => s) s
  (x.copyRecs slot slice).foldl (fun s e => match s.coreOfSlice own.launch e.1 with
    | some c => let (w, s) := s.addWrite own c []
                s.post ⟨seamChan own.core c, own.core, c, .copyRec e.2 e.1 own w⟩
    | none => s.report own cSEAMTO 3 0 false false) s

/-! ## Instructions -/

/-- `cxbind` (R285, R312). -/
def execCxbind (d a x : Nat) (s : State) : Host.Outcome State Fault Refusal :=
  let w := wordCxbind d a x
  onward { word := w, reads := [a], writes := [d], ends := true, once := true }
    (fun s => do
      let p := s.sv a
      if !isSpad p then faultAt s cBOUNDS 1 p
      if p.toNat % 8 ≠ 0 then faultAt s cALIGN 0 p
      if Config.spadBytes < p.toNat + 80 then faultAt s cBOUNDS 1 p
      spadWait s false
      unitTurn s true
      let len := mreadNat s.unitMem (p.toNat + 28) 4
      if Config.spadBytes < p.toNat + len then faultAt s cBOUNDS 1 p
      let _ ← takePool s d 0
      let m ← unitRead s [(p.toNat, len)] true
      let k := s.core s.cur
      let sl := k.slot x
      match readImage (fun o n => mreadNat m (p.toNat + o) n) s.ctx.id.slice (Config.complexBytes - (k.storeUsed - sl.store)) with
      | .error f => writeS s d 0 fun _ => wd (2 ^ 63 + f.1 * 65536 + f.2)
      | .ok c =>
        let g := nextGen sl.ctr
        let s := s.putSlot s.cur x { ctr := g, cur := some { c with gen := g }, named := c.ownerSlices }
        let s := registerCplx s (s.owner w) x s.ctx.id.slice sl.named c
        writeS s d 0 fun _ => wd g) s

/-- `cxdrop` (R286). -/
def execCxdrop (x : Nat) (s : State) : Host.Outcome State Fault Refusal :=
  onward { word := wordCxdrop x, ends := true, once := true }
    (fun s => do
      unitTurn s
      pure (s.putSlot s.cur x { ((s.core s.cur).slot x) with prev := none, log := none })) s

/-- `cxdrop.all` (R286). -/
def execCxdropAll (x : Nat) (s : State) : Host.Outcome State Fault Refusal :=
  onward { word := wordCxdropAll x, ends := true, once := true }
    (fun s => do
      unitTurn s
      let sl := (s.core s.cur).slot x
      pure (s.putSlot s.cur x { ctr := sl.ctr, named := sl.named })) s

/-- What `cxinfo` reads (R287). -/
def cxinfoWord (k : Core) (x i : Nat) : Word :=
  let sl := k.slot x
  match i, sl.cur with
  | 5, _ => wd (k.storeUsed + (Config.complexBytes - k.storeUsed) * 2 ^ 32)
  | _, none => 0
  | 0, some c =>
    wd (c.gen + (match sl.prev with
      | some p => p.gen
      | none => 0) * 65536 + c.dim * 2 ^ 32 + (if c.simp then 2 ^ 34 else 0) + (if sl.pend.isSome then 2 ^ 35 else 0))
  | i, some c => wd (nat4 c.own (i - 1) + nat4 c.gh (i - 1) * 65536 + nat4 c.nf (i - 1) * 2 ^ 32)

/-- `cxinfo` (R287). -/
def execCxinfo (d i x : Nat) (s : State) : Host.Outcome State Fault Refusal :=
  onward { word := wordCxinfo d i x, writes := [d] }
    (fun s => writeS s d 0 fun _ => cxinfoWord (s.core s.cur) x i) s

/-- The RW fields of the two descriptor words (R280). -/
def kRW0 : Word := 0x0000001FFFFF0000
/-- Word 1. -/
def kRW1 : Word := 0x00000FFFFFFFFFFF

/-- The tag set a destination takes from an untagged once-only definition (R373). -/
def kdefTags (x : Ctx) (k : Nat) : Nat := destTags x.lift 0 (x.kreg k).tags

/-- Replace a cochain register by a definition, discarding what the old one still expects (R314). -/
def redefine (s : State) (n : Nat) (v : KReg) : State :=
  let old := s.ctx.kreg n
  let slice := s.ctx.id.slice
  (s.modCore s.cur fun k => k.forget slice n old).modCtx fun x => x.putK n v

/-- `kdef` (R288). -/
def execKdef (k a b : Nat) (s : State) : Host.Outcome State Fault Refusal :=
  onward { word := wordKdef k a b, reads := [a, b], writes := [kCode k], once := true }
    (fun s => do
      unitTurn s
      let w0 := s.sv a
      let w1 := s.sv b
      if (w0 &&& ~~~ kRW0) ≠ 0 then fault s cBOUNDS 3 w0
      if (w1 &&& ~~~ kRW1) ≠ 0 then fault s cBOUNDS 3 w1
      let r : KReg := { w0 := w0, w1 := w1 }
      match ((s.core s.cur).slot r.slot).cur with
      | none => fault s cKTYPE 7
      | some c =>
        if c.dim < r.deg then fault s cKTYPE 2
        if r.fmt ≠ 0 ∧ r.exp ≠ 0 then fault s cBOUNDS 3 w0
        if r.base % 8 ≠ 0 then faultAt s cALIGN 0 (wd r.base)
        if r.rowBytes < (r.choff + r.chm + 1) * r.es then fault s cBOUNDS 3 w1
        let tags := kdefTags s.ctx k
        kSpan s r c 0
        kSpan s r c tags
        let v : KReg := { w0 := w0 ||| wd (c.gen * 2 ^ 48 + tags * 2 ^ 44 + 2 ^ 37), w1 := w1 }
        pure (redefine s k v)) s

/-- `kinfo` (R289). -/
def execKinfo (d k i : Nat) (s : State) : Host.Outcome State Fault Refusal :=
  onward { word := wordKinfo d k i, reads := [kCode k], writes := [d] }
    (fun s => do
      let r := s.ctx.kreg k
      if r.defined then
        kLive s [k]
        let c := (s.core s.cur).cplxOf r
        writeS s d 0 fun _ =>
          match i with
          | 0 => r.w0
          | 1 => r.w1
          | _ => wd (nat4 c.own r.deg + nat4 c.gh r.deg * 65536)
      else writeS s d 0 fun _ => 0) s

/-- `kview` (R290). -/
def execKview (d a b : Nat) (s : State) : Host.Outcome State Fault Refusal :=
  onward { word := wordKview d a b, reads := [kCode a, b], writes := [kCode d] }
    (fun s => do
      unitTurn s
      let v := s.sv b
      if (s.ctx.sreg b).tags ≠ 0 then lwrite s 2 [kCode a, b]
      kLive s [a]
      let r := s.ctx.kreg a
      let c0 := fld v 7 0
      let n := fld v 16 8
      if fld v 63 17 ≠ 0 ∨ n = 0 ∨ 256 < n ∨ r.chm + 1 < c0 + n ∨ 255 < r.choff + c0 then fault s cBOUNDS 3 v
      seamWait s [a]
      let y := { r with w0 := setFld (setFld r.w0 41 39 0) 23 16 (n - 1), w1 := setFld r.w1 43 36 (r.choff + c0) }
      pure (redefine s d y.clean)) s

end Sys2Proof.Machine
end

