-- ==== Sys2Proof/Machine/Vector.lean ====
section
/-!
DEFINITION. Majors 0x28 to 0x31, 0x33 and 0x34: vector arithmetic, logic, shifts, compares, moves, permutes, reductions, special
functions, top-k and bit instructions (R132 to R139, R143, R144).
-/

namespace Sys2Proof.Machine

/-! ## Element types (R46, R47) -/

/-- Element types of vector instructions and conversions. -/
inductive Ty where
  | f32 | f16 | bf16 | f64 | s32 | n32 | s16 | s8 | n8 | n4 | l4 | bx | n16
  deriving DecidableEq, Repr

/-- The type of a ty code, or of a destination code of major 0x32 (R46, R47). -/
def tyOf (c : Nat) : Ty :=
  match c with
  | 0 => .f32
  | 1 => .f16
  | 2 => .bf16
  | 3 => .f64
  | 4 => .s32
  | 5 => .n32
  | 6 => .s16
  | 7 => .s8
  | 8 => .n8
  | 9 => .n4
  | 10 => .l4
  | 11 => .bx
  | _ => .n16

/-- The floating-point format of a type. -/
def Ty.fmt : Ty → Option Fmt
  | .f32 => some Machine.f32
  | .f16 => some Machine.f16
  | .bf16 => some Machine.bf16
  | .f64 => some Machine.f64
  | _ => none

/-- Element width in bits. -/
def Ty.width : Ty → Nat
  | .f32 => 32
  | .f16 => 16
  | .bf16 => 16
  | .f64 => 64
  | .s32 => 32
  | .n32 => 32
  | .s16 => 16
  | .s8 => 8
  | .n8 => 8
  | .n4 => 4
  | .l4 => 4
  | .bx => 32
  | .n16 => 16

/-- Whether an integer type is signed. -/
def Ty.signed : Ty → Bool
  | .s32 => true
  | .s16 => true
  | .s8 => true
  | _ => false

/-- count(T): elements of a type in one register. -/
def Ty.count (t : Ty) : Nat := 1024 / t.width

/-- The integer an element of an integer type stands for. -/
def Ty.int (t : Ty) (x : Nat) : Int := if t.signed then sxt t.width x else (x : Int)

/-- The elements of a vector (R84, R85). -/
def elemsOf (w : Nat) (v : Vec) : List Nat := unpack w (1024 / w) v.toNat

/-- A vector of elements. -/
def ofElems (w : Nat) (xs : List Nat) : Vec := BitVec.ofNat 1024 (pack w xs)

/-- Whether predicate bit governs element i of width w (R125). -/
def governs (p : Lane) (w i : Nat) : Bool := bitOf p.toNat (i * w / 32)

/-- The rounding mode of vector instructions: drm (R133). -/
def drm (fst : Word) : Nat := fld fst 10 8

/-- The flags of a list of results, joined. -/
def joinFlags (rs : List FR) : Nat := rs.foldl (fun a r => a ||| r.flags) 0

/-- Apply a function to every active element, zero elsewhere (R125); the elements are given with their indices. -/
def onActive (p : Lane) (w : Nat) (xs : List Nat) (f : Nat → Nat → FR) : List FR :=
  xs.mapIdx fun i x => if governs p w i then f i x else ⟨0, 0⟩

/-- The result register of a list of element results. -/
def vres (w : Nat) (rs : List FR) : VRes := { v := ofElems w (rs.map fun r => r.bits), flags := joinFlags rs }

/-- Element i of a list. -/
def at0 (xs : List Nat) (i : Nat) : Nat := (nth xs i).getD 0

/-- Source number i of an instruction. -/
def srcAt (vs : List Vec) (i : Nat) : Vec := (nth vs i).getD 0

/-! ## Frames by shape -/

/-- A two-source elementwise instruction. -/
def vbin (w d a b p t : Nat) (f : Ty → Nat → Nat → Nat → FR) (s : State) : Host.Outcome State Fault Refusal :=
  vexec w d a b (fun d a b => { srcs := [(1, a), (2, b)], pr := p, dst := .vec d })
    (fun fst vs pr _ =>
      let ty := tyOf t
      let ys := elemsOf ty.width (srcAt vs 1)
      vres ty.width (onActive pr ty.width (elemsOf ty.width (srcAt vs 0)) fun i x => f ty (drm fst) x (at0 ys i))) s

/-- A one-source elementwise instruction. -/
def vuna (w d a p t : Nat) (f : Ty → Nat → Nat → FR) (s : State) : Host.Outcome State Fault Refusal :=
  vexec w d a 63 (fun d a _ => { srcs := [(1, a)], pr := p, dst := .vec d })
    (fun fst vs pr _ =>
      let ty := tyOf t
      vres ty.width (onActive pr ty.width (elemsOf ty.width (srcAt vs 0)) fun _ x => f ty (drm fst) x)) s

/-- A typeless two-source instruction on lanes (R126). -/
def vlanes (w d a b p : Nat) (f : List Nat → List Nat → List Nat) (s : State) : Host.Outcome State Fault Refusal :=
  vexec w d a b (fun d a b => { srcs := [(1, a), (2, b)], pr := p, dst := .vec d })
    (fun _ vs pr _ =>
      vres 32 (onActive pr 32 (f (elemsOf 32 (srcAt vs 0)) (elemsOf 32 (srcAt vs 1))) fun _ x => ⟨x, 0⟩)) s

/-! ## Arithmetic (R135) -/

/-- An operation that is floating-point on float types and wraps on integer types (R133). -/
def arith (ff : Fmt → Nat → Nat → Nat → FR) (fi : Int → Int → Int) (ty : Ty) (m x y : Nat) : FR :=
  match ty.fmt with
  | some f => ff f m x y
  | none => ⟨wrapN ty.width (fi (ty.int x) (ty.int y)), 0⟩

/-- `vadd`. -/
def execVadd (d a b p t : Nat) (s : State) := vbin (wordVadd d a b p t) d a b p t (arith fAdd (fun x y => x + y)) s
/-- `vsub`. -/
def execVsub (d a b p t : Nat) (s : State) := vbin (wordVsub d a b p t) d a b p t (arith fSub (fun x y => x - y)) s
/-- `vmul`. -/
def execVmul (d a b p t : Nat) (s : State) := vbin (wordVmul d a b p t) d a b p t (arith fMul (fun x y => x * y)) s

/-- `vfma`: a register destination is the third source; through a link, handle or ZERO the addend is −0 or 0. In mode rdn an exact zero
product of positive sign then gives −0, the sum R94 states, where the manual's gloss expects the result of `vmul` (L78). -/
def execVfma (d a b p t : Nat) (s : State) : Host.Outcome State Fault Refusal :=
  vexec (wordVfma d a b p t) d a b
    (fun d a b => { srcs := [(1, a), (2, b)] ++ (if d < 48 then [(0, d)] else []), pr := p, dst := .vec d })
    (fun fst vs pr _ =>
      let ty := tyOf t
      let ys := elemsOf ty.width (srcAt vs 1)
      let zs := match vs with
        | [_, _, c] => elemsOf ty.width c
        | _ => List.replicate ty.count (if ty.fmt.isSome then 2 ^ (ty.width - 1) else 0)
      vres ty.width (onActive pr ty.width (elemsOf ty.width (srcAt vs 0)) fun i x =>
        match ty.fmt with
        | some f => fFma f (drm fst) x (at0 ys i) (at0 zs i)
        | none => ⟨(x * at0 ys i + at0 zs i) % 2 ^ ty.width, 0⟩)) s

/-- `vmin` and `vmax` on one element. -/
def minMax (isMax : Bool) (ty : Ty) (_m x y : Nat) : FR :=
  match ty.fmt with
  | some f => fMinMax f isMax x y
  | none => ⟨if (decide (ty.int x < ty.int y)) != isMax then x else y, 0⟩

/-- `vmin`. -/
def execVmin (d a b p t : Nat) (s : State) := vbin (wordVmin d a b p t) d a b p t (minMax false) s
/-- `vmax`. -/
def execVmax (d a b p t : Nat) (s : State) := vbin (wordVmax d a b p t) d a b p t (minMax true) s
/-- `vabs`: floats clear the sign bit; integers wrap. -/
def execVabs (d a p t : Nat) (s : State) :=
  vuna (wordVabs d a p t) d a p t (fun ty _ x =>
    if ty.fmt.isSome then ⟨x % 2 ^ (ty.width - 1), 0⟩ else ⟨wrapN ty.width ((ty.int x).natAbs : Int), 0⟩) s
/-- `vneg`: floats flip the sign bit; integers wrap. -/
def execVneg (d a p t : Nat) (s : State) :=
  vuna (wordVneg d a p t) d a p t (fun ty _ x =>
    if ty.fmt.isSome then ⟨x ^^^ 2 ^ (ty.width - 1), 0⟩ else ⟨wrapN ty.width (-(ty.int x)), 0⟩) s

/-! ## Logic and shifts (R135) -/

/-- Lane by lane. -/
def lanewise (f : Nat → Nat → Nat) (xs ys : List Nat) : List Nat := List.zipWith f xs ys

/-- `vand`. -/
def execVand (d a b p : Nat) (s : State) := vlanes (wordVand d a b p) d a b p (lanewise (fun x y => x &&& y)) s
/-- `vor`. -/
def execVor (d a b p : Nat) (s : State) := vlanes (wordVor d a b p) d a b p (lanewise (fun x y => x ||| y)) s
/-- `vxor`. -/
def execVxor (d a b p : Nat) (s : State) := vlanes (wordVxor d a b p) d a b p (lanewise (fun x y => x ^^^ y)) s
/-- `vandn`. -/
def execVandn (d a b p : Nat) (s : State) :=
  vlanes (wordVandn d a b p) d a b p (lanewise (fun x y => x &&& (4294967295 - y))) s

/-- Shift by the element of b modulo the width. -/
def shifted (f : Nat → Nat → Nat → Nat) (ty : Ty) (_m x y : Nat) : FR := ⟨f ty.width x (y % ty.width), 0⟩

/-- `vshl`. -/
def execVshl (d a b p t : Nat) (s : State) :=
  vbin (wordVshl d a b p t) d a b p t (shifted fun w x n => x * 2 ^ n % 2 ^ w) s
/-- `vshr`. -/
def execVshr (d a b p t : Nat) (s : State) := vbin (wordVshr d a b p t) d a b p t (shifted fun _ x n => x / 2 ^ n) s
/-- `vsar`. -/
def execVsar (d a b p t : Nat) (s : State) :=
  vbin (wordVsar d a b p t) d a b p t (shifted fun w x n => wrapN w (sxt w x / (2 ^ n : Nat))) s
/-- `vrot`. -/
def execVrot (d a b p t : Nat) (s : State) :=
  vbin (wordVrot d a b p t) d a b p t (shifted fun w x n => x * 2 ^ n % 2 ^ w + x / 2 ^ (w - n)) s

/-! ## Compares (R136) -/

/-- The predicate bits of element results: an f64 element sets both bits of its lane pair. -/
def predBits (w : Nat) (rs : List FR) : Lane :=
  BitVec.ofNat 32 (if w = 64 then pack 2 (rs.map fun r => 3 * r.bits) else pack 1 (rs.map fun r => r.bits))

/-- A compare: by value, with the result for a NaN operand and whether a quiet NaN sets NV. -/
def vcmp (w d a b p t : Nat) (lt eq gt nan quiet : Bool) (s : State) : Host.Outcome State Fault Refusal :=
  vexec w d a b (fun _ a b => { srcs := [(1, a), (2, b)], pr := p, dst := .pred d })
    (fun _ vs pr _ =>
      let ty := tyOf t
      let ys := elemsOf ty.width (srcAt vs 1)
      let one (b : Bool) : Nat := if b then 1 else 0
      let rs := onActive pr ty.width (elemsOf ty.width (srcAt vs 0)) fun i x =>
        match ty.fmt with
        | some f =>
          let u := f.read x
          let v := f.read (at0 ys i)
          if u.isNan || v.isNan then ⟨one nan, if quiet || u.isSnan || v.isSnan then fNV else 0⟩
          else ⟨one (if u.lt v then lt else if v.lt u then gt else eq), 0⟩
        | none =>
          let u := ty.int x
          let v := ty.int (at0 ys i)
          ⟨one (if u < v then lt else if v < u then gt else eq), 0⟩
      { p := predBits ty.width rs, flags := joinFlags rs }) s

/-- `vceq`. -/
def execVceq (d a b p t : Nat) (s : State) := vcmp (wordVceq d a b p t) d a b p t false true false false false s
/-- `vcne`. -/
def execVcne (d a b p t : Nat) (s : State) := vcmp (wordVcne d a b p t) d a b p t true false true true false s
/-- `vclt`. -/
def execVclt (d a b p t : Nat) (s : State) := vcmp (wordVclt d a b p t) d a b p t true false false false true s
/-- `vcle`. -/
def execVcle (d a b p t : Nat) (s : State) := vcmp (wordVcle d a b p t) d a b p t true true false false true s

/-! ## Moves and permutes (R137) -/

/-- `vmov`. -/
def execVmov (d a p : Nat) (s : State) : Host.Outcome State Fault Refusal :=
  vexec (wordVmov d a p) d a 63 (fun d a _ => { srcs := [(1, a)], pr := p, dst := .vec d })
    (fun _ vs pr _ => vres 32 (onActive pr 32 (elemsOf 32 (srcAt vs 0)) fun _ x => ⟨x, 0⟩)) s

/-- `vsel`: the predicate selects and does not govern. -/
def execVsel (d a b p t : Nat) (s : State) : Host.Outcome State Fault Refusal :=
  vexec (wordVsel d a b p t) d a b (fun d a b => { srcs := [(1, a), (2, b)], pr := p, dst := .vec d })
    (fun _ vs pr _ =>
      let w := (tyOf t).width
      let ys := elemsOf w (srcAt vs 1)
      vres w ((elemsOf w (srcAt vs 0)).mapIdx fun i x => ⟨if governs pr w i then x else at0 ys i, 0⟩)) s

/-- `vbc`: the low bits of a scalar in every element. -/
def execVbc (d a p t : Nat) (s : State) : Host.Outcome State Fault Refusal :=
  vexec (wordVbc d a p t) d 63 63 (fun d _ _ => { srcs := [], sreg := some a, pr := p, dst := .vec d })
    (fun _ _ pr x =>
      let w := (tyOf t).width
      vres w (onActive pr w (List.replicate (1024 / w) (x.toNat % 2 ^ w)) fun _ x => ⟨x, 0⟩)) s

/-- `vext`: one element into a scalar register, sign-extended for signed types. -/
def execVext (d a i t : Nat) (s : State) : Host.Outcome State Fault Refusal :=
  vexec (wordVext d a i t) 63 a 63 (fun _ a _ => { srcs := [(1, a)], dst := .scal d })
    (fun _ vs _ _ =>
      let ty := tyOf t
      let x := at0 (elemsOf ty.width (srcAt vs 0)) i
      { x := if ty.signed then sextW ty.width x else wd x }) s

/-- `vprm`. -/
def execVprm (d a b p : Nat) (s : State) :=
  vlanes (wordVprm d a b p) d a b p (fun xs ys => ys.map fun y => at0 xs (y % 32)) s

/-- `vsld`: lanes slide down by n. -/
def execVsld (d a n p : Nat) (s : State) : Host.Outcome State Fault Refusal :=
  vexec (wordVsld d a n p) d a 63 (fun d a _ => { srcs := [(1, a)], pr := p, dst := .vec d })
    (fun _ vs pr _ =>
      let xs := elemsOf 32 (srcAt vs 0)
      vres 32 (onActive pr 32 (xs.drop n ++ List.replicate n 0) fun _ x => ⟨x, 0⟩)) s

/-- `vrev`. -/
def execVrev (d a p t : Nat) (s : State) : Host.Outcome State Fault Refusal :=
  vexec (wordVrev d a p t) d a 63 (fun d a _ => { srcs := [(1, a)], pr := p, dst := .vec d })
    (fun _ vs pr _ =>
      let w := (tyOf t).width
      vres w (onActive pr w (elemsOf w (srcAt vs 0)).reverse fun _ x => ⟨x, 0⟩)) s

/-- `vzip`. -/
def execVzip (d a b p t : Nat) (s : State) : Host.Outcome State Fault Refusal :=
  vexec (wordVzip d a b p t) d a b (fun d a b => { srcs := [(1, a), (2, b)], pr := p, dst := .vec d })
    (fun _ vs pr _ =>
      let w := (tyOf t).width
      let xs := elemsOf w (srcAt vs 0)
      let ys := elemsOf w (srcAt vs 1)
      vres w (onActive pr w xs fun i _ => ⟨if i % 2 = 0 then at0 xs (i / 2) else at0 ys (i / 2), 0⟩)) s

/-! ## Reductions (R98, R138) -/

/-- One level of the balanced pairwise tree. -/
def treeLevel (f : Nat → Nat → FR) : List Nat → List FR
  | x :: y :: rest => f x y :: treeLevel f rest
  | [x] => [⟨x, 0⟩]
  | [] => []

/-- The balanced pairwise tree to one value, with the flags of every node. -/
def treeReduce (f : Nat → Nat → FR) : Nat → List Nat → FR
  | 0, xs => ⟨at0 xs 0, 0⟩
  | n + 1, xs =>
    match xs with
    | [x] => ⟨x, 0⟩
    | _ =>
      let l := treeLevel f xs
      let r := treeReduce f n (l.map fun r => r.bits)
      ⟨r.bits, r.flags ||| joinFlags l⟩

/-- A reduction: `ident` gives what an inactive element enters as. -/
def vred (w d a p t : Nat) (ident : Ty → Nat) (f : Ty → Nat → Nat → Nat → FR) (s : State) : Host.Outcome State Fault Refusal :=
  vexec w d a 63 (fun d a _ => { srcs := [(1, a)], pr := p, dst := .vec d })
    (fun fst vs pr _ =>
      let ty := tyOf t
      let xs := (elemsOf ty.width (srcAt vs 0)).mapIdx fun i x => if governs pr ty.width i then x else ident ty
      let r := treeReduce (f ty (drm fst)) 8 xs
      { v := ofElems ty.width [r.bits], flags := r.flags }) s

/-- The smallest element of a type. -/
def lowest (ty : Ty) : Nat :=
  match ty.fmt with
  | some f => f.signBit + f.infBits
  | none => if ty.signed then 2 ^ (ty.width - 1) else 0
/-- The largest element of a type. -/
def highest (ty : Ty) : Nat :=
  match ty.fmt with
  | some f => f.infBits
  | none => if ty.signed then 2 ^ (ty.width - 1) - 1 else 2 ^ ty.width - 1

/-- `vrsum`. -/
def execVrsum (d a p t : Nat) (s : State) :=
  vred (wordVrsum d a p t) d a p t (fun ty => if ty.fmt.isSome then 2 ^ (ty.width - 1) else 0) (arith fAdd (fun x y => x + y)) s
/-- `vrmax`. -/
def execVrmax (d a p t : Nat) (s : State) := vred (wordVrmax d a p t) d a p t lowest (minMax true) s
/-- `vrmin`. -/
def execVrmin (d a p t : Nat) (s : State) := vred (wordVrmin d a p t) d a p t highest (minMax false) s
/-- `vrand`. -/
def execVrand (d a p t : Nat) (s : State) :=
  vred (wordVrand d a p t) d a p t (fun ty => 2 ^ ty.width - 1) (fun _ _ x y => ⟨x &&& y, 0⟩) s

/-! ## Special functions (R139) -/

/-- A special function of a float type. -/
def special (f : Fmt → Nat → Nat → FR) (ty : Ty) (m x : Nat) : FR :=
  match ty.fmt with
  | some g => f g m x
  | none => ⟨0, 0⟩

/-- `vrcp`. -/
def execVrcp (d a p t : Nat) (s : State) := vuna (wordVrcp d a p t) d a p t (special fRcp) s
/-- `vrsq`. -/
def execVrsq (d a p t : Nat) (s : State) := vuna (wordVrsq d a p t) d a p t (special fRsqrt) s
/-- `vsqt`. -/
def execVsqt (d a p t : Nat) (s : State) := vuna (wordVsqt d a p t) d a p t (special fSqrt) s
/-- `vexp`. -/
def execVexp (d a p t : Nat) (s : State) := vuna (wordVexp d a p t) d a p t (special fExp) s
/-- `vlog`. -/
def execVlog (d a p t : Nat) (s : State) := vuna (wordVlog d a p t) d a p t (special fLog) s
/-- `vtnh`. -/
def execVtnh (d a p t : Nat) (s : State) := vuna (wordVtnh d a p t) d a p t (special fTanh) s
/-- `vsgm`. -/
def execVsgm (d a p t : Nat) (s : State) := vuna (wordVsgm d a p t) d a p t (special fSgm) s
/-- `vdiv`. -/
def execVdiv (d a b p t : Nat) (s : State) :=
  vbin (wordVdiv d a b p t) d a b p t (fun ty m x y => special (fun f m x => fDiv f m x y) ty m x) s

/-! ## Top-k (R143) -/

/-- The order key of a candidate: −0 below +0. -/
def topKey (ty : Ty) (x : Nat) : Int :=
  if ty.fmt.isSome then (if bitOf x 31 then -((x % 2 ^ 31 : Nat) : Int) - 1 else (x : Int)) else ty.int x

/-- The candidates (key, index), in index order. -/
def candidates (ty : Ty) (p : Lane) (xs : List Nat) : List (Int × Nat) :=
  (xs.mapIdx fun i x => (i, x)).filterMap fun e =>
    if governs p 32 e.1 && !(match ty.fmt with
        | some f => (f.read e.2).isNan
        | none => false)
    then some (topKey ty e.2, e.1) else none

/-- The rank of a candidate: how many stand before it, larger first, lower index first. -/
def rankOf (cs : List (Int × Nat)) (c : Int × Nat) : Nat :=
  (cs.filter fun e => decide (c.1 < e.1) || (e.1 == c.1 && e.2 < c.2)).length

/-- The candidate of a rank. -/
def ofRank (cs : List (Int × Nat)) (j : Nat) : Option (Int × Nat) := cs.find? fun c => rankOf cs c == j

/-- A top-k instruction: `f` gives lane j from the candidates, the lanes, and j. -/
def vtopk (w d a k p t : Nat) (f : List (Int × Nat) → List Nat → Nat → Nat) (s : State) : Host.Outcome State Fault Refusal :=
  vexec w d a k (fun d a _ => { srcs := [(1, a)], pr := p, dst := .vec d })
    (fun _ vs pr _ =>
      let ty := tyOf t
      let xs := elemsOf 32 (srcAt vs 0)
      let cs := candidates ty pr xs
      let fl := (xs.mapIdx fun i x => match ty.fmt with
        | some g => governs pr 32 i && (g.read x).isSnan
        | none => false).any id
      { v := ofLanes ((List.range 32).map fun j => f cs xs j), flags := if fl then fNV else 0 }) s

/-- `vtki`: indices; field b holds k − 1. -/
def execVtki (d a k p t : Nat) (s : State) :=
  vtopk (wordVtki d a k p t) d a k p t (fun cs _ j =>
    if j < k + 1 then (match ofRank cs j with
      | some c => c.2
      | none => 0xFFFFFFFF) else 0xFFFFFFFF) s
/-- `vtkm`: values. -/
def execVtkm (d a k p t : Nat) (s : State) :=
  vtopk (wordVtkm d a k p t) d a k p t (fun cs xs j =>
    if j < k + 1 then (match ofRank cs j with
      | some c => at0 xs c.2
      | none => 0) else 0) s
/-- `vtkr`: ranks. -/
def execVtkr (d a k p t : Nat) (s : State) :=
  vtopk (wordVtkr d a k p t) d a k p t (fun cs _ j =>
    match cs.find? fun c => c.2 == j with
    | some c => if rankOf cs c < k + 1 then rankOf cs c else 0xFFFFFFFF
    | none => 0xFFFFFFFF) s
/-- `vtkn`: how many are greater than the k-th, and how many equal it. -/
def execVtkn (d a k p t : Nat) (s : State) :=
  vtopk (wordVtkn d a k p t) d a k p t (fun cs _ j =>
    match ofRank cs k with
    | some c =>
      if j = 0 then (cs.filter fun e => decide (c.1 < e.1)).length
      else if j = 1 then (cs.filter fun e => e.1 == c.1).length else 0
    | none => 0) s

/-! ## Bit instructions (R144) -/

/-- `vpop`. -/
def execVpop (d a p t : Nat) (s : State) :=
  vuna (wordVpop d a p t) d a p t (fun ty _ x => ⟨(unpack 1 ty.width x).foldl (· + ·) 0, 0⟩) s
/-- `vclz`. -/
def execVclz (d a p t : Nat) (s : State) :=
  vuna (wordVclz d a p t) d a p t (fun ty _ x => ⟨((unpack 1 ty.width x).reverse.takeWhile (· == 0)).length, 0⟩) s
/-- `vctz`. -/
def execVctz (d a p t : Nat) (s : State) :=
  vuna (wordVctz d a p t) d a p t (fun ty _ x => ⟨((unpack 1 ty.width x).takeWhile (· == 0)).length, 0⟩) s
/-- `vbrv`. -/
def execVbrv (d a p t : Nat) (s : State) :=
  vuna (wordVbrv d a p t) d a p t (fun ty _ x => ⟨pack 1 (unpack 1 ty.width x).reverse, 0⟩) s

end Sys2Proof.Machine
end

