-- ==== Sys2Proof/Machine/Cochain.lean ====
section
/-!
DEFINITION. Majors 0x36 to 0x39: the cochain operators (R291 to R310, R376). The cochain unit runs one instruction of a core at a time
and accesses scratchpad word by word (R306).
-/

namespace Sys2Proof.Machine

/-! ## Rows (R281, R368) -/

/-- The floating-point format of a cochain format code. -/
def kFmt (c : Nat) : Fmt :=
  match c with
  | 2 => f16
  | 3 => bf16
  | _ => f32

/-- Address of a row: cell c of an instance number, of a register with n rows. -/
def KReg.rowAt (k : KReg) (n inst c : Nat) : Nat := k.base + k.rowBytes * (n * inst + c) + k.es * k.choff

/-- A row of a register: its channels as bit patterns. -/
def kRow (m : Memory) (k : KReg) (n inst c : Nat) : List Nat :=
  (List.range (k.chm + 1)).map fun j => mreadNat m (k.rowAt n inst c + k.es * j) k.es

/-- Every row of an instance. -/
def kRows (m : Memory) (k : KReg) (n inst : Nat) : List (List Nat) := (List.range n).map fun c => kRow m k n inst c

/-- Write a row. -/
def kPutRow (k : KReg) (n inst c : Nat) (vals : List Nat) (m : Memory) : Memory :=
  mwrite m (k.rowAt n inst c) ((vals.map fun v => leBytes k.es v).flatten)

/-- The value of a row element: a float, or a bx mantissa times 2^E (R88). -/
def kVal (k : KReg) (x : Nat) : FVal :=
  if k.fmt = 0 then let z := sxt 32 x; .fin (z < 0) z.natAbs k.E else (kFmt k.fmt).read x

/-! ## Agreement (R292, R293) -/

/-- Register i of a list. -/
def kAt (rs : List KReg) (i : Nat) : KReg := (nth rs i).getD {}

/-- What an operator asks of its registers, taken in the order ka, kb, kd: per register, whether degree, format and channels
suit those before it; whether the complex must be simplicial. -/
structure KSpec where
  deg : List KReg → Nat → Bool
  fmt : List KReg → Nat → Bool
  chan : List KReg → Nat → Bool
  simp : Bool
  /-- A destination that is the source as well is an ALIAS, whatever its degree. -/
  self : Bool := false

/-- Equal to the first register. -/
def same (f : KReg → Nat) (rs : List KReg) (i : Nat) : Bool := f (kAt rs i) == f (kAt rs 0)

/-- Equal degrees, formats and channels. -/
def specSame : KSpec := ⟨same KReg.deg, same KReg.fmt, same KReg.chm, false, false⟩
/-- Equal float formats. -/
def floatSame (rs : List KReg) (i : Nat) : Bool := same KReg.fmt rs i && (kAt rs i).fmt != 0
/-- Equal degrees, float. -/
def specFloat : KSpec := { specSame with fmt := floatSame }
/-- `kd`. -/
def specUp : KSpec := { specSame with deg := fun rs i => i == 0 || (kAt rs i).deg == (kAt rs 0).deg + 1, self := true }
/-- `kdt`. -/
def specDown : KSpec :=
  { specSame with deg := fun rs i => if i = 0 then (kAt rs 0).deg != 0 else (kAt rs i).deg + 1 == (kAt rs 0).deg }
/-- `kcod`. -/
def specDownFloat : KSpec := { specDown with fmt := floatSame }
/-- `kadd`, `ksub`. -/
def specAdd : KSpec :=
  { specSame with fmt := fun rs i => same KReg.fmt rs i && (i != 1 || (kAt rs 0).fmt != 0 || same KReg.exp rs i) }
/-- `kwedge`. -/
def specWedge : KSpec :=
  ⟨fun rs i => decide (i < 2) || (kAt rs i).deg == (kAt rs 0).deg + (kAt rs 1).deg, floatSame, same KReg.chm, true, false⟩
/-- `kinterp`. -/
def specInterp : KSpec :=
  ⟨fun rs i => match i with
    | 0 => (kAt rs 0).deg == 0
    | 1 => (kAt rs 1).deg != 0
    | _ => (kAt rs 2).deg == (kAt rs 1).deg,
   fun rs i => match i with
    | 0 => (kAt rs 0).fmt != 0
    | 1 => (kAt rs 1).fmt == 1
    | _ => same KReg.fmt rs i,
   fun rs i => match i with
    | 1 => (kAt rs 1).chm == (kAt rs 1).deg
    | _ => same KReg.chm rs i, true, false⟩
/-- `kcvt` to a format. -/
def specCvt (tgt : Nat) : KSpec := { specSame with fmt := fun rs i => i == 0 || (kAt rs i).fmt == tgt }

/-- Step 3 of R292; `kd` of a register to itself, whose degree cannot suit, is an ALIAS (R310). -/
def kAgree (s : State) (ns : List Nat) (sp : KSpec) : Act Unit := do
  let rs := ns.map s.ctx.kreg
  let bad (f : List KReg → Nat → Bool) : Option Nat := (List.range ns.length).find? fun i => !f rs i
  let check (f : List KReg → Nat → Bool) (detail : Nat) : Act Unit :=
    match bad f with
    | some i => fault s cKTYPE detail (wd ((nth ns i).getD 0))
    | none => .ok ()
  if sp.self ∧ bad sp.deg = some (ns.length - 1) ∧ (ns.dropLast.any fun n => some n == ns.getLast?) then
    fault s cALIAS 0 (wd ((ns.getLast?).getD 0))
  check sp.deg 2
  check sp.fmt 3
  check sp.chan 4
  check (same KReg.slot) 5
  if sp.simp && !((s.core s.cur).cplxOf (kAt rs 0)).simp then fault s cKTYPE 6 (wd ((nth ns 0).getD 0))

/-! ## The frame of an operator (R282, R294 to R297, R376) -/

/-- An element of a result: a bit pattern or an exact integer that R297 limits, with its flags. -/
structure KElem where
  z : Int
  flags : Nat := 0
  sat : Bool := false
  deriving DecidableEq, Repr

/-- A rounded element. -/
def FR.elem (r : FR) : KElem := ⟨r.bits, r.flags, false⟩
/-- A bx element before R297. -/
def bxElem (z : Int) : KElem := ⟨z, 0, true⟩

/-- Whether R297 applies. -/
def KElem.over31 (e : KElem) : Bool := e.sat && decide (2 ^ 31 ≤ e.z.natAbs)
/-- The bits stored, a bx result saturated. -/
def KElem.bits (e : KElem) : Nat :=
  if e.over31 then wrapN 32 (if e.z < 0 then -bxMax else bxMax) else wrapN 32 e.z
/-- The flags raised. -/
def KElem.fl (e : KElem) : Nat := if e.over31 then e.flags ||| fOF else e.flags

/-- What an operator computes at one instance: the complex, source registers, the destination, the rounding mode, the rows of each
source, the scalar operand. -/
structure KIn where
  x : Cplx
  srcs : List KReg
  dst : KReg
  mode : Nat
  rows : List (List (List Nat))
  sc : Word
  /-- The exponent byte of the result. -/
  exp : Nat

/-- Element j of row c of source i. -/
def KIn.elem (a : KIn) (i c j : Nat) : Nat := at0 ((nth ((nth a.rows i).getD []) c).getD []) j
/-- Its value. -/
def KIn.val (a : KIn) (i c j : Nat) : FVal := kVal (kAt a.srcs i) (a.elem i c j)
/-- Source i. -/
def KIn.src (a : KIn) (i : Nat) : KReg := kAt a.srcs i
/-- The result at every row and channel of the destination. -/
def KIn.each (a : KIn) (f : Nat → Nat → KElem) : List (List KElem) :=
  (List.range (a.x.cells a.dst.deg)).map fun c => (List.range (a.dst.chm + 1)).map fun j => f c j

/-- The first element R297 applies to: cell and channel. -/
def firstOver (rows : List (List KElem)) : Option (Nat × Nat) :=
  (rows.mapIdx fun c r => (r.mapIdx fun j e => (c, j, e)).find? fun e => e.2.2.over31).findSome? fun o =>
    o.map fun e => (e.1, e.2.1)

/-- The bits of result rows. -/
def rowBits (rows : List (List KElem)) : List (List Nat) := rows.map fun r => r.map KElem.bits

/-- Rows from a cell upward as bytes at their addresses. -/
def kBytes (k : KReg) (n inst : Nat) (rows : List (List Nat)) : List (Nat × List Byte) :=
  rows.mapIdx fun c r => (k.rowAt n inst c, (r.map fun v => leBytes k.es v).flatten)

/-- What an operator writes to its destination, from its rows by active instance of `S` (R370, R376). Where the tag set grows, the rows
of inactive instances move to their new places with the values memory m gives them. -/
def kOut (s : State) (d S : Nat) (m : Memory) (res : Table (List (List Nat))) : List (Nat × List Byte) :=
  let l := s.ctx.lift
  let k := s.ctx.kreg d
  let n := ((s.core s.cur).cplxOf k).cells k.deg
  let T := destTags l S k.tags
  let act := activeOf l T
  let rows : Table (List (List Nat)) :=
    if l.frames.isEmpty then res
    else
      (instances l T).filterMap fun i =>
        if act.contains i then some (i, tget res [] (proj S i))
        else if T = k.tags then none
        else some (i, kRows m k n (instNumber l k.tags i))
  (rows.map fun e => kBytes k n (instNumber l T e.1) e.2).flatten

/-- The spans of a register's rows at every instance of a tag set. -/
def kSpans (l : Lift) (k : KReg) (n tags : Nat) : List (Nat × Nat) :=
  ((List.range (instCount l tags)).map fun i => (List.range n).map fun c => (k.rowAt n i c, k.es * (k.chm + 1))).flatten

/-- What an operator reads: the rows of its sources, and those of its destination that move. -/
def kReads (s : State) (srcs : List (KReg × Cplx)) (d T : Nat) : List (Nat × Nat) :=
  let l := s.ctx.lift
  let k := s.ctx.kreg d
  (srcs.map fun (e : KReg × Cplx) => kSpans l e.1 (e.2.cells e.1.deg) e.1.tags).flatten
    ++ if l.frames.isEmpty || T == k.tags then [] else kSpans l k (((s.core s.cur).cplxOf k).cells k.deg) k.tags

/-- With kof = 1, the fault of R297 at the first instance, cell and channel it applies to, and what is written before it. -/
def kofCut (s : State) (d S : Nat) : Table (List (List KElem)) → Option (Nat × Nat × Nat × List (Nat × List Byte))
  | [] => none
  | (i, rows) :: rest =>
    let l := s.ctx.lift
    let k := s.ctx.kreg d
    let n := ((s.core s.cur).cplxOf k).cells k.deg
    let bytes (r : List (List KElem)) : List (Nat × List Byte) := kBytes k n (instNumber l (destTags l S k.tags) i) (rowBits r)
    match firstOver rows with
    | some (c, j) => some (i, c, j, bytes (rows.take c))
    | none => (kofCut s d S rest).map fun e => (e.1, e.2.1, e.2.2.1, bytes rows ++ e.2.2.2)

/-- The flags of result rows that reach `sr.fst` and the sticky status (R97). -/
def kFlags (res : Table (List (List KElem))) : Nat :=
  (res.foldl (fun f e => e.2.foldl (fun f r => r.foldl (fun f (x : KElem) => f ||| x.fl) f) f) 0) &&& (fOF + fNV + fNX)

/-- The rounding mode of a rnd code (R46, R93). -/
def roundOf (x : Ctx) (r : Nat) : Nat := if r = 4 then drm x.sp.fst else r

/-- Deliver an operator's result (R297, R306): the rows to scratchpad, the flags, the destination's descriptor. -/
def kDeliver (s : State) (d S : Nat) (k' : KReg) (m : Memory) (res : Table (List (List KElem))) (fl : Nat) : Act State := do
  let T := destTags s.ctx.lift S (s.ctx.kreg d).tags
  match if fld s.ctx.sp.kmode 0 0 = 1 then kofCut s d S res else none with
  | some (i, c, j, out) =>
    let s ← unitWrite s out
    atInstance S i (fault s cBOUNDS 5 (wd (c + j * 65536)))
  | none =>
    let s ← unitWrite s (kOut s d S m (res.map fun p => (p.1, rowBits p.2)))
    pure (s.modCtx fun y =>
      ({ y with sp := { y.sp with fst := y.sp.fst ||| wd fl } }).putK d ((k'.withTags T).clean.orStatus fl))

/-- An operator with a cochain destination: its turn on the unit, the checks of R292, the waits of R295, the result at every active
instance, the writes. `fE` gives the exponent byte of the result. -/
def kOp (w d : Nat) (srcs : List Nat) (sc : Option Nat) (r : Nat) (sp : KSpec)
    (fE : List KReg → KReg → Nat → List (List (List Nat)) → Nat) (f : KIn → List (List KElem)) (s : State) :
    Host.Outcome State Fault Refusal :=
  let reads := srcs.map kCode ++ sc.toList
  onward { word := w, reads := reads, writes := [kCode d] }
    (fun s => do
      let ns := srcs ++ [d]
      unitTurn s
      kLive s ns
      kAgree s ns sp
      let c := s.ctx
      let l := c.lift
      let ks := srcs.map c.kreg
      let k := c.kreg d
      let x := (s.core s.cur).cplxOf k
      let S := c.tagUnion reads
      let T := destTags l S k.tags
      if (ks.any fun a => kOverlaps l k x T a x) then fault s cALIAS 0 (wd d)
      for a in ks do kSpan s a x a.tags
      kSpan s k x T true
      seamWait s ns
      spadWait s true
      let m ← unitRead s (kReads s (ks.map fun a => (a, x)) d T)
      let act := activeOf l S
      let rowsAt (i : Nat) : List (List (List Nat)) :=
        ks.map fun a => kRows m a (x.cells a.deg) (instNumber l a.tags i)
      let mode := roundOf c r
      let e := fE ks k mode ((act.map fun i => (rowsAt i).head?.getD []))
      let k' : KReg := { k with w0 := setFld k.w0 31 24 e }
      let res : Table (List (List KElem)) := act.map fun i =>
        (i, f ⟨x, ks, k', mode, rowsAt i, match sc with
          | some n => atInst (c.sreg n) i
          | none => 0, e⟩)
      kDeliver s d S k' m res (kFlags res)) s

/-- The exponent of the first source: bx results keep it, float results keep the destination's own. -/
def keepE (ks : List KReg) (k : KReg) (_mode : Nat) (_rows : List (List (List Nat))) : Nat :=
  if k.fmt = 0 then (kAt ks 0).exp else k.exp

/-! ## Topology (R296 to R298) -/

/-- Σexact of values with signs, as `kd` and `kdt` deliver it. -/
def topoSum (a : KIn) (terms : List (Nat × Int)) (j : Nat) : KElem :=
  let k := a.src 0
  if k.fmt = 0 then bxElem (terms.foldl (fun (z : Int) t => z + t.2 * sxt 32 (a.elem 0 t.1 j)) 0)
  else
    let vs := terms.map fun t => if t.2 < 0 then (a.val 0 t.1 j).flip else a.val 0 t.1 j
    let r := sumRound (kFmt k.fmt) a.mode vs 1 1
    ⟨r.bits, r.flags ||| (if vs.any FVal.isNan then fNV else 0), false⟩

/-- `kd` (R296). -/
def execKd (d a r : Nat) (s : State) : Host.Outcome State Fault Refusal :=
  kOp (wordKd d a r) d [a] none r specUp keepE (fun i => i.each fun c j => topoSum i (i.x.face i.dst.deg c) j) s
/-- `kdt` (R296). -/
def execKdt (d a r : Nat) (s : State) : Host.Outcome State Fault Refusal :=
  kOp (wordKdt d a r) d [a] none r specDown keepE (fun i => i.each fun c j => topoSum i (i.x.cofaces i.dst.deg c) j) s

/-! ## Metric (R299) -/

/-- A signed product as a term of a sum, with the flags it raises. -/
def prodTerm (a b : FVal) : FVal × Nat :=
  let p := a.times b
  (p.1, p.2 ||| snanFlag [a, b])

/-- Σexact of terms divided by a finite nonzero value, rounded once. -/
def sumDiv (f : Fmt) (mode : Nat) (terms : List FVal) (w : FVal) : FR :=
  if terms.any fun t => t.isNan || t.isInf then
    let r := sumRound f mode terms 1 1
    if r.bits = f.nan then r else ⟨if w.neg then r.bits ^^^ f.signBit else r.bits, r.flags⟩
  else
    let n := (dySum terms).rat
    let q := w.dy.rat
    roundQ f mode (if w.neg then -(n.1 * q.2) else n.1 * q.2) (n.2 * q.1.natAbs) (zeroSign mode terms != w.neg)

/-- `kstar` (R299). -/
def execKstar (d a r : Nat) (s : State) : Host.Outcome State Fault Refusal :=
  kOp (wordKstar d a r) d [a] none r specFloat keepE
    (fun i => i.each fun c j =>
      (fMulAdd (kFmt i.dst.fmt) i.mode (i.x.weight i.dst.deg c) (i.val 0 c j) []).elem) s
/-- `kstari` (R299). -/
def execKstari (d a r : Nat) (s : State) : Host.Outcome State Fault Refusal :=
  kOp (wordKstari d a r) d [a] none r specFloat keepE
    (fun i => i.each fun c j => (divVal (kFmt i.dst.fmt) i.mode (i.val 0 c j) (i.x.weight i.dst.deg c)).elem) s
/-- `kcod` (R299). -/
def execKcod (d a r : Nat) (s : State) : Host.Outcome State Fault Refusal :=
  kOp (wordKcod d a r) d [a] none r specDownFloat keepE
    (fun i => i.each fun f j =>
      let ts := (i.x.cofaces i.dst.deg f).map fun t =>
        let p := prodTerm (i.x.weight (i.dst.deg + 1) t.1) (i.val 0 t.1 j)
        (if t.2 < 0 then p.1.flip else p.1, p.2)
      let r := sumDiv (kFmt i.dst.fmt) i.mode (ts.map fun t => t.1) (i.x.weight i.dst.deg f)
      ⟨r.bits, ts.foldl (fun fl t => fl ||| t.2) r.flags, false⟩) s

/-- `kdot` (R301): owned rows only, no wait on seams. -/
def execKdot (d a b r : Nat) (s : State) : Host.Outcome State Fault Refusal :=
  onward { word := wordKdot d a b r, reads := [kCode a, kCode b], writes := [d] }
    (fun s => do
      let ns := [a, b]
      unitTurn s
      kLive s ns
      kAgree s ns specSame
      let c := s.ctx
      let l := c.lift
      let ka := c.kreg a
      let kb := c.kreg b
      let x := (s.core s.cur).cplxOf ka
      kSpan s ka x ka.tags
      kSpan s kb x kb.tags
      spadWait s false
      let S := c.tagUnion [kCode a, kCode b]
      let n := x.cells ka.deg
      let own := nat4 x.own ka.deg
      let m ← unitRead s ([ka, kb].map fun k =>
        ((List.range (instCount l k.tags)).map fun i => (List.range own).map fun c => (k.rowAt n i c, k.es * (k.chm + 1))).flatten).flatten
      let res : Table FR := (activeOf l S).map fun i =>
        let row (k : KReg) (c : Nat) : List Nat := kRow m k n (instNumber l k.tags i) c
        let ts := ((List.range own).map fun c =>
          List.zipWith (fun p q => prodTerm (kVal ka p) (kVal kb q)) (row ka c) (row kb c)).flatten
        let r := sumRound f32 (roundOf c r) (ts.map fun t => t.1) 1 1
        (i, ⟨r.bits, ts.foldl (fun fl t => fl ||| t.2) r.flags⟩)
      let fl := (res.foldl (fun f e => f ||| e.2.flags) 0) &&& (fOF + fNV + fNX)
      let s := s.modCtx fun y => { y with sp := { y.sp with fst := y.sp.fst ||| wd fl } }
      writeS s d S fun i => wd (tget res ⟨0, 0⟩ i).bits) s

/-! ## Algebra (R302, R303) -/

/-- Every way to take one element out of a list. -/
def picks : List Nat → List (Nat × List Nat)
  | [] => []
  | x :: xs => (x, xs) :: (picks xs).map fun p => (p.1, x :: p.2)

/-- The permutations of a list of `n` elements. -/
def perms : Nat → List Nat → List (List Nat)
  | 0, _ => [[]]
  | n + 1, xs => ((picks xs).map fun p => (perms n p.2).map fun r => p.1 :: r).flatten

/-- The cells of degree p that are faces of cell c of degree k, in `k − p` steps down. -/
def Cplx.below (x : Cplx) : Nat → Nat → Nat → List Nat
  | 0, _, c => [c]
  | n + 1, k, c => ((x.face k c).map fun e => x.below n (k - 1) e.1).flatten.eraseDups

/-- The value of a source on the face of cell c of degree k with vertex list `u`, signed by its order (R302). -/
def alpha (a : KIn) (i k c j : Nat) (u : List Nat) : FVal :=
  let p := u.length - 1
  match (a.x.below (k - p) k c).find? fun f => sameSet (a.x.vert p f) u with
  | some f => if oddTo u (a.x.vert p f) then (a.val i f j).flip else a.val i f j
  | none => .fin false 0 0

/-- n! -/
def fact : Nat → Nat
  | 0 => 1
  | n + 1 => (n + 1) * fact n

/-- `kwedge` (R302). -/
def execKwedge (d a b r : Nat) (s : State) : Host.Outcome State Fault Refusal :=
  kOp (wordKwedge d a b r) d [a, b] none r specWedge keepE
    (fun i =>
      let p := (i.src 0).deg
      let k := i.dst.deg
      let ps := perms (k + 1) (List.range (k + 1))
      i.each fun c j =>
        let v := i.x.vert k c
        let ts := ps.map fun t =>
          let u := t.map (at0 v)
          let q := prodTerm (alpha i 0 k c j (u.take (p + 1))) (alpha i 1 k c j (u.drop p))
          (if oddPerm t then q.1.flip else q.1, q.2)
        let r := sumRound (kFmt i.dst.fmt) i.mode (ts.map fun t => t.1) 1 (fact (k + 1))
        ⟨r.bits, ts.foldl (fun fl t => fl ||| t.2) r.flags, false⟩) s

/-- `kinterp` (R303). -/
def execKinterp (d a b r : Nat) (s : State) : Host.Outcome State Fault Refusal :=
  kOp (wordKinterp d a b r) d [a, b] none r specInterp keepE
    (fun i => i.each fun c j =>
      let ts := (i.x.vert i.dst.deg c).mapIdx fun n v => prodTerm (i.val 1 c n) (i.val 0 v j)
      let r := sumRound (kFmt i.dst.fmt) i.mode (ts.map fun t => t.1) 1 1
      ⟨r.bits, ts.foldl (fun fl t => fl ||| t.2) r.flags, false⟩) s

/-! ## Elementwise (R304, R305) -/

/-- `kadd` and `ksub` at an element. -/
def addElem (i : KIn) (sub : Bool) (c j : Nat) : KElem :=
  let x := i.elem 0 c j
  let y := i.elem 1 c j
  if i.dst.fmt = 0 then bxElem (if sub then sxt 32 x - sxt 32 y else sxt 32 x + sxt 32 y)
  else (if sub then fSub (kFmt i.dst.fmt) i.mode x y else fAdd (kFmt i.dst.fmt) i.mode x y).elem

/-- `kadd`. -/
def execKadd (d a b r : Nat) (s : State) : Host.Outcome State Fault Refusal :=
  kOp (wordKadd d a b r) d [a, b] none r specAdd keepE (fun i => i.each (addElem i false)) s
/-- `ksub`. -/
def execKsub (d a b r : Nat) (s : State) : Host.Outcome State Fault Refusal :=
  kOp (wordKsub d a b r) d [a, b] none r specAdd keepE (fun i => i.each (addElem i true)) s
/-- `kmul`. -/
def execKmul (d a b r : Nat) (s : State) : Host.Outcome State Fault Refusal :=
  kOp (wordKmul d a b r) d [a, b] none r specFloat keepE
    (fun i => i.each fun c j => (fMul (kFmt i.dst.fmt) i.mode (i.elem 0 c j) (i.elem 1 c j)).elem) s
/-- `ksc`. -/
def execKsc (d a b r : Nat) (s : State) : Host.Outcome State Fault Refusal :=
  kOp (wordKsc d a b r) d [a] (some b) r specSame keepE
    (fun i => i.each fun c j =>
      if i.dst.fmt = 0 then bxElem (sxt 32 (i.elem 0 c j) * sxt 32 (fld i.sc 31 0))
      else (fMulAdd (kFmt i.dst.fmt) i.mode (i.val 0 c j) (f32.read (fld i.sc 31 0)) []).elem) s
/-- `kmov`: bits copied. -/
def execKmov (d a : Nat) (s : State) : Host.Outcome State Fault Refusal :=
  kOp (wordKmov d a) d [a] none 0 specSame keepE (fun i => i.each fun c j => ⟨i.elem 0 c j, 0, false⟩) s

/-- The exponent of a finite nonzero value: it lies in [2^e, 2^(e + 1)). -/
def FVal.log : FVal → Option Int
  | .fin _ n k => if n = 0 then none else some (n.log2 + k)
  | _ => none

/-- The exponent byte R90 chooses over source elements. -/
def autoE (mode : Nat) (vs : List FVal) : Int :=
  match vs.filterMap FVal.log with
  | [] => 0
  | e :: es =>
    let E : Int := min (max (es.foldl max e - 22) (-128)) 127
    let reaches : Bool := vs.any fun v => match v with
      | .fin _ _ _ => decide (2 ^ 23 ≤ (convertBx mode E v).1.natAbs)
      | _ => false
    if reaches && decide (E < 127) then E + 1 else E

/-- `kcvt` to a float format at an element: round_once. -/
def cvtFloat (i : KIn) (c j : Nat) : KElem := (sumRound (kFmt i.dst.fmt) i.mode [i.val 0 c j] 1 1).elem
/-- `kcvt` to bx at an element (R89). -/
def cvtBx (i : KIn) (c j : Nat) : KElem :=
  let r := convertBx i.mode (sxt 8 i.exp) (i.val 0 c j)
  ⟨r.1, r.2, false⟩

/-- The exponent of the destination as `kdef` gave it. -/
def ownE (_ks : List KReg) (k : KReg) (_mode : Nat) (_rows : List (List (List Nat))) : Nat := k.exp

/-- `kcvt.bx` with an automatic exponent. -/
def execKcvtBx (d a r : Nat) (s : State) : Host.Outcome State Fault Refusal :=
  kOp (wordKcvtBx d a r) d [a] none r (specCvt 0)
    (fun ks _ mode rows => wrapN 8 (autoE mode ((rows.flatten.flatten).map fun x => kVal (kAt ks 0) x)))
    (fun i => i.each (cvtBx i)) s
/-- `kcvt.bx` with the destination's exponent. -/
def execKcvtBxFix (d a r : Nat) (s : State) : Host.Outcome State Fault Refusal :=
  kOp (wordKcvtBxFix d a r) d [a] none r (specCvt 0) ownE (fun i => i.each (cvtBx i)) s
/-- `kcvt.f32`. -/
def execKcvtF32 (d a r : Nat) (s : State) : Host.Outcome State Fault Refusal :=
  kOp (wordKcvtF32 d a r) d [a] none r (specCvt 1) ownE (fun i => i.each (cvtFloat i)) s
/-- `kcvt.f16`. -/
def execKcvtF16 (d a r : Nat) (s : State) : Host.Outcome State Fault Refusal :=
  kOp (wordKcvtF16 d a r) d [a] none r (specCvt 2) ownE (fun i => i.each (cvtFloat i)) s
/-- `kcvt.bf16`. -/
def execKcvtBf16 (d a r : Nat) (s : State) : Host.Outcome State Fault Refusal :=
  kOp (wordKcvtBf16 d a r) d [a] none r (specCvt 3) ownE (fun i => i.each (cvtFloat i)) s

end Sys2Proof.Machine
end

