-- ==== Sys2Proof/Machine/Fabric.lean ====
section
/-!
DEFINITION. Major 0x3E and the ports: flows, remote operations and their answers, packets of other packages, the Lace link (R398 to
R418).
-/

namespace Sys2Proof.Machine

/-! ## Flows (R398, R401 to R404) -/

/-- A flow handle. -/
def flowHandle (die n : Nat) : Word := wd (n + die * 2 ^ 16)

/-- Path p of a virtual function, when its entry holds something. -/
def Vf.path (v : Vf) (p : Nat) : Option PathEntry := (v.paths.find? fun e => e.1 == p).map fun e => e.2
/-- A peer entry. -/
def Vf.peer (v : Vf) (n : Nat) : Option Peer := (v.peers.find? fun e => e.1 == n).map fun e => e.2

/-- Whether a path can serve a fabric: its entry holds a port of that kind that is trained (R402, R403). -/
def pathOk (s : State) (v : Vf) (ue : Bool) (p : Nat) : Bool :=
  match v.path p with
  | some e => let q := s.portAt e.port; q.ue == ue && q.trained
  | none => false

/-- The paths of a set. -/
def pathsOf (set : Nat) : List Nat := (List.range 8).filter fun p => bitOf set p

/-- The checks of R401 on a flow handle and its owner: die, number, flow. -/
def flowOf (s : State) (h : Word) : Act (Nat × Nat × Flow) :=
  let die := fld h 18 16
  let n := fld h 9 0
  if h ≠ flowHandle die n then faultAt s cBOUNDS 4 h
  else match tlook (s.die die).flows n with
    | none => faultAt s cBOUNDS 4 h
    | some f => if f.core = s.cur then .ok (die, n, f) else faultAt s cPERM 0 h

/-- The error state of a flow (R413). -/
def flowErr (s : State) (f : Flow) : Act Unit := if f.err = 0 then .ok () else fault s cFLOW f.err

/-- Change a flow. -/
def State.modFlow (s : State) (die n : Nat) (g : Flow → Flow) : State :=
  s.modDie die fun d => match tlook d.flows n with
    | some f => { d with flows := tput d.flows n (g f) }
    | none => d

/-- The lowest free flow number of a die (R398). -/
def freeFlow (d : Die) : Option Nat := (List.range 1024).find? fun n => (tlook d.flows n).isNone

/-- `fopen` (R402). -/
def execFopen (d a b : Nat) (s : State) : Host.Outcome State Fault Refusal :=
  onward { word := wordFopen d a b, reads := [a, b], writes := [d], ends := true, once := true }
    (fun s => do
      let x := s.sv a
      let c := s.sv b
      let v := s.myVf
      let peer := v.peer (fld x 9 0)
      if fld x 63 10 ≠ 0 then fault s cBOUNDS 3 x
      let set := fld c 15 8
      let mode := fld c 1 0
      let lace := match peer with
        | some p => !p.ue
        | none => false
      if fld c 42 16 ≠ 0 || fld c 7 2 ≠ 0 || set = 0 || mode = 3 || (mode == 2 && lace) || fld c 63 44 % 16 ≠ 0 then
        fault s cBOUNDS 3 c
      let fail (r : Nat) : Act State := writeS s d 0 fun _ => wd (2 ^ 63 + r)
      let _ ← takePool s d 0
      match freeFlow (s.die s.myDie), peer with
      | none, _ => fail 1
      | _, none => fail 2
      | some n, some p =>
        if !(pathsOf set).all fun i => pathOk s v p.ue i then fail 3
        else
          let f : Flow := { core := s.cur, vf := s.ctx.id.vf, peer := fld x 9 0, ue := p.ue, mode := mode, set := set,
                            swe := fld c 43 43 == 1, sw := fld c 63 44 }
          let s := s.modDie s.myDie fun d => { d with flows := tput d.flows n f }
          writeS s d 0 fun _ => flowHandle s.myDie n) s

/-- `fclose` (R403). -/
def execFclose (a : Nat) (s : State) : Host.Outcome State Fault Refusal :=
  onward { word := wordFclose a, reads := [a], ends := true, once := true }
    (fun s => do
      let (die, n, f) ← flowOf s (s.sv a)
      waitFor f.ops.isEmpty
      pure (s.modDie die fun d => { d with flows := tdel d.flows n })) s

/-- `fpath` (R403). -/
def execFpath (a b : Nat) (s : State) : Host.Outcome State Fault Refusal :=
  onward { word := wordFpath a b, reads := [a, b], ends := true, once := true }
    (fun s => do
      let (die, n, f) ← flowOf s (s.sv a)
      let c := s.sv b
      let set := fld c 7 0
      if fld c 63 8 ≠ 0 || set = 0 || !(pathsOf set).all fun i => pathOk s (s.vf f.vf) f.ue i then fault s cBOUNDS 3 c
      pure (s.modFlow die n fun f => { f with set := set })) s

/-- Packets of a flow outstanding on a path. -/
def Flow.onPath (f : Flow) (p : Nat) : List FabPkt := ((f.ops.map fun o => o.pkts).flatten).filter fun k => k.path == p && !k.waits

/-- The congestion level of a flow's path (R404). -/
def levelOf (s : State) (f : Flow) (p : Nat) : Nat :=
  if f.ue then tget f.cong 0 p
  else match (s.vf f.vf).path p with
    | some e => laceLevel (s.portAt e.port) e.port
    | none => 0

/-- What `fstat` reads (R404): the field of packets outstanding holds their count modulo 2^16, a level above 255 reads 255 (L68). -/
def fstatWord (s : State) (f : Flow) (i : Nat) : Word :=
  let port (p : Nat) : Port := match (s.vf f.vf).path p with
    | some e => s.portAt e.port
    | none => { scores := [0, 0, 0, 0] }
  if i = 0 then
    wd (2 ^ 63 + (if f.err = 0 then 0 else 2 ^ 62) + f.err * 2 ^ 48 + f.ops.length * 2 ^ 32 + f.set * 2 ^ 8
      + (if f.ue then 4 else 0) + f.mode)
  else if i < 9 then
    let p := i - 1
    wd ((port p).scores.foldl min 255 * 2 ^ 56 + min 255 (levelOf s f p) * 2 ^ 48 + (f.onPath p).length % 65536 * 2 ^ 32
      + tget f.acked 0 p % 2 ^ 32)
  else
    let q := port (i - 16)
    wd (pack 8 q.scores + q.fec % 2 ^ 32 * 2 ^ 32)

/-- `fstat` (R404). -/
def execFstat (d a i : Nat) (s : State) : Host.Outcome State Fault Refusal :=
  onward { word := wordFstat d a i, reads := [a], writes := [d], once := true }
    (fun s => do
      let (_, _, f) ← flowOf s (s.sv a)
      writeS s d 0 fun _ => fstatWord s f i) s

/-- `fwait` (R411): it waits for the operations issued before it. -/
def execFwait (a : Nat) (s : State) : Host.Outcome State Fault Refusal :=
  onward { word := wordFwait a, reads := [a], once := true }
    (fun s => do
      let (_, _, f) ← flowOf s (s.sv a)
      flowErr s f
      let n := s.ctx.sta.getD f.nextOp
      if f.ops.any fun o => o.id < n then .error (.hold (s.modCtx fun x => { x with sta := some n }))
      pure s) s

/-! ## Issuing remote operations (R405 to R407, R412) -/

/-- A remote descriptor. -/
structure Remote where
  off : Nat
  win : Nat
  n : Nat
  deriving DecidableEq, Repr

/-- The fields of a remote descriptor (R405). -/
def remoteOf (x : Word) : Remote := ⟨fld x 39 0, fld x 47 40, fld x 63 48 + 1⟩

/-- The path of a pin field, none when the operation is not pinned (R400). -/
def pinOf (p : Nat) : Option Nat := if bitOf p 3 then some (p % 8) else none

/-- A pinned path lies in the set (R412). -/
def pinCheck (s : State) (f : Flow) (p : Nat) : Act Unit :=
  match pinOf p with
  | some i => need (bitOf f.set i) s cBOUNDS 3 (wd i)
  | none => .ok ()

/-- The path of the set with the fewest outstanding bytes times (1 + congestion level), the lowest on a tie (R412). -/
def choosePath (s : State) (f : Flow) : Nat :=
  let cost (p : Nat) : Nat := ((f.onPath p).foldl (fun n k => n + k.data.length) 0) * (1 + levelOf s f p)
  match pathsOf f.set with
  | [] => 0
  | p :: ps => ps.foldl (fun b q => if cost q < cost b then q else b) p

/-- The data of the packets of a put: at most `m` bytes each, cut at 64-byte boundaries of the window offset (R406). -/
def packets (m : Nat) : Nat → Nat → List Byte → List (List Byte)
  | 0, _, _ => []
  | fuel + 1, off, bs =>
    if bs.isEmpty then [] else
      let k := (off + m) / 64 * 64 - off
      bs.take k :: packets m fuel (off + k) (bs.drop k)

/-- The fields that the header of an operation names. -/
def FabOpRec.fields (o : FabOpRec) (n num : Nat) : List Nat :=
  [o.kind, n, num, o.win, o.off, o.n, o.op, if o.flagged then 1 else 0]

/-- Send one packet of the newest operation of a flow: it takes a path and, on Lace, goes to the port (R406, R412, R415); on UE it waits
while the receiver gives no credit (R409, R419). -/
def sendPacket (die n : Nat) (pin : Option Nat) (s : State) (bs : List Byte) : State :=
  match tlook (s.die die).flows n with
  | none => s
  | some f =>
    let p := pin.getD (choosePath s f)
    let s := s.modFlow die n fun f =>
      { f with nextPkt := f.nextPkt + 1
               ops := f.ops.dropLast ++ (f.ops.drop (f.ops.length - 1)).map fun (o : FabOpRec) =>
                 { o with pkts := o.pkts ++ [⟨f.nextPkt, p, bs, f.ue && f.noCredit⟩] } }
    if f.ue then s else
      match (s.vf f.vf).path p, f.ops.getLast? with
      | some e, some o => s.modPort e.port fun q => q.send [linkOp 0 (o.fields n f.nextPkt) bs]
      | _, _ => s

/-- Issue an operation on a flow and send its packets. -/
def issueFab (s : State) (die n : Nat) (o : FabOpRec) (pkts : List (List Byte)) : State :=
  let s := s.modFlow die n fun f => { f with nextOp := f.nextOp + 1, ops := f.ops ++ [{ o with id := f.nextOp }] }
  pkts.foldl (sendPacket die n o.pin) s

/-- A packet that waited for receiver credit is sent, an unpinned one on the path the rule gives now (R412). -/
def Flow.sendWaiting (s : State) (f : Flow) (num : Nat) : Flow :=
  { f with ops := f.ops.map fun (o : FabOpRec) =>
      { o with pkts := o.pkts.map fun k =>
          if k.num = num then { k with waits := false, path := o.pin.getD (choosePath s f) } else k } }

/-- The receiver of a UE flow withholds credit, or gives it: then the packets that waited are sent in order (R409, R419). -/
def State.receiverCredit (s : State) (die n : Nat) (ok : Bool) : State :=
  s.modFlow die n fun f =>
    let f := { f with noCredit := !ok }
    if ok then (((f.ops.map fun o => o.pkts).flatten.filter fun k => k.waits).map fun k => k.num).foldl (Flow.sendWaiting s) f else f

/-- Room among the 256 operations of a flow (R406). -/
def State.flowRoom (s : State) (die n : Nat) : Bool :=
  match tlook (s.die die).flows n with
  | some f => f.ops.length < 256
  | none => true

/-- The data bytes a packet may carry (R406). -/
def packetMax (f : Flow) : Nat := if f.ue then 4096 else 192

/-- The alignment of a descriptor of whole words (R405). -/
def remoteWords (s : State) (y : Word) (m : Nat) (write : Bool) : Act Unit :=
  let r := remoteOf y
  if r.off % 8 ≠ 0 ∨ (m = 8 ∧ r.n % 8 ≠ 0) then faultAt s cALIGN 0 y write else .ok ()

/-- Begin the remote operations an instruction has checked, each once its flow has room (R406). -/
def fabInOrder (check : State → Act (State × List Planned)) (s : State) : Act State :=
  planned
    (fun s p => match p with
      | .fab die n _ _ => s.flowRoom die n
      | _ => true)
    (fun s p => match p with
      | .fab die n o pkts => issueFab s die n o pkts
      | _ => s) check s

/-- `rget` (R406). -/
def execRget (f a b p : Nat) (s : State) : Host.Outcome State Fault Refusal :=
  let w := wordRget f a b p
  onward { word := w, reads := [f, a, b], ends := true }
    (fabInOrder fun s => do
      let c := s.ctx
      placing s [b] [a]
      let (s, rs) ← widen s (c.tagUnion [f, a, b]) fun s i => do
        let (die, n, fl) ← flowOf s (atInst (c.sreg f) i)
        flowErr s fl
        let y := atInst (c.sreg b) i
        let t := remoteOf y
        let x ← resolveSpad s (atInst (c.sreg a) i) t.n 8 true
        remoteWords s y 8 false
        pinCheck s fl p
        pure (s, Planned.fab die n { id := 0, kind := 0, pkts := [], land := x, n := t.n, off := t.off, win := t.win, flagged := false,
                                     pin := pinOf p, own := s.owner w } [[]])
      spadWait s true
      pure (s, rs.map fun r => r.2)) s

/-- The checks of a put at an instance: flow, source, descriptor (R401, R405). -/
def putCheck (s : State) (hx ax y : Word) (p : Nat) : Act (State × (Nat × Nat × Flow)) := do
  let (die, n, fl) ← flowOf s hx
  flowErr s fl
  let (s, _) ← resolve s ax (remoteOf y).n 8 permR false
  remoteWords s y 8 true
  pinCheck s fl p
  pure (s, (die, n, fl))

/-- `rput` (R406): the bytes of every instance are read, then sent. -/
def execRput (f a b p : Nat) (s : State) : Host.Outcome State Fault Refusal :=
  let w := wordRput f a b p
  onward { word := w, reads := [f, a, b], ends := true }
    (fabInOrder fun s => do
      let c := s.ctx
      let S := c.tagUnion [f, a, b]
      let size (i : Nat) : Nat := (remoteOf (atInst (c.sreg b) i)).n
      placing s [a] [b]
      let (s, rs) ← widen s S fun s i => do
        let y := atInst (c.sreg b) i
        let (s, die, n, fl) ← putCheck s (atInst (c.sreg f) i) (atInst (c.sreg a) i) y p
        pure (s, (die, n, fl, remoteOf y))
      if (rs.take 1).any fun r => !s.flowRoom r.2.1 r.2.2.1 then waitFor (s.holding.begun != 0)
      let (s, bytes) ← loadBy s w S size 8 fun _ i => .ok (atInst (c.sreg a) i)
      pure (s, rs.map fun r =>
        let (i, die, n, fl, t) := r
        .fab die n { id := 0, kind := 1, pkts := [], land := 0, n := t.n, off := t.off, win := t.win, flagged := c.hints.flag,
                     pin := pinOf p, own := s.owner w } (packets (packetMax fl) (t.n / 64 + 2) t.off (tget bytes [] i)))) s

/-- `rput.sw` (R406, R407): once only inside a lift. -/
def execRputSw (f b p : Nat) (s : State) : Host.Outcome State Fault Refusal :=
  let w := wordRputSw f b p
  onward { word := w, reads := [f, b], ends := true, once := true }
    (fun s => do
      let (die, n, fl) ← flowOf s (s.sv f)
      flowErr s fl
      let y := s.sv b
      let t := remoteOf y
      if t.off % 16 ≠ 0 then faultAt s cALIGN 0 y true
      pinCheck s fl p
      if fl.mode = 2 then fault s cBOUNDS 3 (s.sv f)
      waitFor (s.flowRoom die n)
      pure (issueFab s die n { id := 0, kind := 2, pkts := [], land := 0, n := t.n, off := t.off, win := t.win,
                               flagged := s.ctx.hints.flag, pin := pinOf p, own := s.owner w } [[]])) s

/-- `ramo` (R407). -/
def execRamo (f a b o : Nat) (s : State) : Host.Outcome State Fault Refusal :=
  let w := wordRamo f a b o
  onward { word := w, reads := [f, a, b], ends := true }
    (fabInOrder fun s => do
      let c := s.ctx
      let (s, rs) ← widen s (c.tagUnion [f, a, b]) fun s i => do
        let (die, n, fl) ← flowOf s (atInst (c.sreg f) i)
        flowErr s fl
        let y := atInst (c.sreg b) i
        let x ← resolveSpad s (atInst (c.sreg a) i) 16 16 true
        remoteWords s y 1 true
        if (remoteOf y).n ≠ 8 then fault s cBOUNDS 3 (wd (remoteOf y).n)
        if fl.mode = 2 then fault s cBOUNDS 3 (atInst (c.sreg f) i)
        pure (s, (die, n, x, remoteOf y))
      spadWait s true
      pure (s, rs.map fun r =>
        let (_, die, n, x, t) := r
        .fab die n { id := 0, kind := 3, pkts := [], land := x, n := 8, off := t.off, win := t.win, op := o, flagged := false,
                     pin := none, own := s.owner w } [s.spadRead s.cur x 16])) s

/-! ## Answers to this package's operations (R403, R406 to R408, R412, R413) -/

/-- The operation and the packet an answer names. -/
def State.fabPkt (s : State) (a : FabAck) : Option (Flow × FabOpRec × FabPkt) :=
  match tlook (s.die a.die).flows a.flow with
  | none => none
  | some f => f.ops.findSome? fun o => (o.pkts.find? fun k => k.num == a.pkt && !k.waits).map fun k => (f, o, k)

/-- A packet leaves its flow, counted on its path when it was acknowledged; an operation without packets is over. -/
def State.closePkt (s : State) (a : FabAck) (k : FabPkt) : State :=
  s.modFlow a.die a.flow fun f =>
    { f with acked := if a.detail = 0 then tput f.acked k.path ((tget f.acked 0 k.path + 1) % 2 ^ 32) else f.acked
             ops := (f.ops.map fun (o : FabOpRec) => { o with pkts := o.pkts.filter fun j => j.num != k.num }).filter fun o =>
               !o.pkts.isEmpty }

/-- A failure of an operation of a flow (R413): the first detail is recorded, and a report goes to the issuing core's fault binding; the
access that failed was a write but for a get (R255). -/
def State.flowFails (s : State) (die n detail : Nat) (o : FabOpRec) : State :=
  (s.modFlow die n fun f => { f with err := if f.err = 0 then detail else f.err }).report o.own cFLOW detail (flowHandle die n) false
    (o.kind != 0)

/-- An acknowledgement of a put or a raise, or the failure of any packet (R408, R413). -/
def execFabricAckArrival (a : FabAck) (s : State) : Host.Outcome State Fault Refusal :=
  match s.fabPkt a with
  | none => .next s
  | some (_, o, k) =>
    if a.detail = 0 then (if o.kind = 1 ∨ o.kind = 2 then .next (s.closePkt a k) else .next s)
    else .next ((s.closePkt a k).flowFails a.die a.flow a.detail o)

/-- Bytes of a remote operation land at the core that owns its flow and raise the flow's sync word (R406, R407). -/
def landFab (s : State) (f : Flow) (o : FabOpRec) (bs : List Byte) (n : Nat) : State :=
  let s := s.landSpad f.core o.land bs
  if f.swe && s.isRunning f.core then s.queueRaise f.core ⟨f.sw, n, false, o.own.launch, f.vf⟩ else s

/-- The data of an `rget` land (R406). -/
def execRgetDataArrival (a : FabAck) (data : List Byte) (s : State) : Host.Outcome State Fault Refusal :=
  match s.fabPkt a with
  | none => .next s
  | some (f, o, k) =>
    if a.detail = 0 && o.kind == 0 && data.length == o.n then .next ((landFab s f o data o.n).closePkt a k) else .next s

/-- The old value of a `ramo` lands (R407). -/
def execRamoReply (a : FabAck) (old : Word) (s : State) : Host.Outcome State Fault Refusal :=
  match s.fabPkt a with
  | none => .next s
  | some (f, o, k) =>
    if a.detail = 0 && o.kind == 3 then .next ((landFab s f o (leBytes 8 old.toNat) 8).closePkt a k) else .next s

/-- A trimmed packet is sent again, an unpinned one on a path chosen anew (R412). -/
def execPacketTrim (die flow pkt : Nat) (s : State) : Host.Outcome State Fault Refusal :=
  match s.fabPkt ⟨die, flow, pkt, 0⟩ with
  | none => .next s
  | some (f, o, k) =>
    if !f.ue then .next s else
      let without : Flow := { f with ops := f.ops.map fun (o : FabOpRec) => { o with pkts := o.pkts.filter fun j => j.num != pkt } }
      let p := o.pin.getD (choosePath s without)
      .next (s.modFlow die flow fun f =>
        { f with ops := f.ops.map fun (o : FabOpRec) =>
            { o with pkts := o.pkts.map fun j => if j.num = k.num then { j with path := p } else j } })

/-- The retry limit or the timeout of a flow's oldest operation passes (R413). -/
def execFlowRetryTimeout (die flow : Nat) (s : State) : Host.Outcome State Fault Refusal :=
  match tlook (s.die die).flows flow with
  | none => .next s
  | some f =>
    match f.ops with
    | [] => .next s
    | o :: rest => .next ((s.modFlow die flow fun f => { f with ops := rest }).flowFails die flow 4 o)

/-! ## Packets of other packages (R399, R408 to R410, R413) -/

/-- The packet-delivery context of a packet (R402): the package, its flow, and which opening of the flow it is. -/
def pktKey (p : FabPacket) : Nat := (p.pkg * 2 ^ 20 + p.flow % 2 ^ 20) * 2 ^ 32 + p.opening % 2 ^ 32

/-- The contexts of earlier openings of a packet's flow end: a flow closes only when nothing of it is outstanding (R403). -/
def dropClosed (p : FabPacket) (ts : Table TargetFlow) : Table TargetFlow :=
  ts.filter fun e => e.1 / 2 ^ 32 != pktKey p / 2 ^ 32 || e.1 == pktKey p

/-- Where the range ends that the window must hold: the whole of a put or get, the word of a raise or atomic (R405). -/
def pktEnd (p : FabPacket) : Nat :=
  match p.op with
  | .put _ => p.base + p.len
  | .get _ => p.base + p.len
  | .putSw _ => p.off + 16
  | .amo _ _ _ => p.off + 8
/-- The bytes of its window a packet names. -/
def pktLen (p : FabPacket) : Nat :=
  match p.op with
  | .put bs => bs.length
  | .putSw _ => 16
  | .get n => n
  | .amo _ _ _ => 8

/-- Whether a window gives the permission an operation needs. -/
def winAllows (w : Window) (op : FabOp) : Bool :=
  match op with
  | .put _ => w.w
  | .putSw _ => w.w
  | .get _ => w.r
  | .amo _ _ _ => w.a

/-- The permission a page must give. -/
def opPage : FabOp → Nat
  | .put _ => permW
  | .putSw _ => permW
  | .get _ => permR
  | .amo _ _ _ => permA

/-- The physical pieces of a range of a virtual function, or the failure detail (R413). -/
def targetPages (s : State) (vf perm : Nat) : List (Nat × Nat) → Except Nat (List (Nat × Nat))
  | [] => .ok []
  | (va, n) :: rest =>
    match walk s vf va with
    | .leaf pte lg =>
      if (leafPerm pte &&& perm) ≠ perm then .error 1
      else
        let pa := bits pte.toNat lg (41 - lg) * 2 ^ lg + va % 2 ^ lg
        if !s.memUp (homeDie pa) then .error 6
        else (targetPages s vf perm rest).map fun ps => (pa, n) :: ps
    | .xlate _ => .error 2
    | .mnode => .error 6
    | .poison => .error 3

/-- Whether a packet raises a sync word, which no window on HBM allows (R406, R413). -/
def raisesWord (p : FabPacket) : Bool :=
  match p.op with
  | .putSw _ => true
  | _ => false

/-- An operation on HBM of this package: the far-read caches of the virtual function's dies drop the pages written (R408). -/
def targetHbm (s : State) (p : FabPacket) (va : Nat) : Except Nat (State × List Byte) :=
  if raisesWord p then .error 1 else
  match targetPages s p.vf (opPage p.op) (cutAt 4096 ((pktLen p) / 4096 + 2) va (pktLen p)) with
  | .error e => .error e
  | .ok ps =>
    let drop (s : State) : State :=
      ((List.range 8).filter fun d => bitOf (dieMask (s.vf p.vf)) d).foldl (fun s d =>
        s.applySummary d (some (ps.map fun (e : Nat × Nat) => e.1 / 65536))) s
    let bad := ps.any fun e => (List.range ((e.2 + 63) / 64 + 1)).any fun i =>
      decide (64 * i < e.2 + e.1 % 64) && s.poison.contains (granuleOf (e.1 / 64 * 64 + 64 * i))
    match p.op with
    | .put bs =>
      let s := (ps.foldl (fun (q : State × List Byte) (e : Nat × Nat) =>
        ((granules (e.2 / 64 + 2) e.1 ((q.2.take e.2).map some)).foldl
          (fun s (g : Nat × List (Option Byte)) => s.nodeWrite g.1 g.2) q.1, q.2.drop e.2)) (s, bs)).1
      .ok (drop s, [])
    | .putSw _ => .error 1
    | .get _ => if bad then .error 3 else .ok (s, (ps.map fun e => s.hbmRead e.1 e.2).flatten)
    | .amo fn x y =>
      match ps with
      | (pa, _) :: _ =>
        if bad then .error 3 else
          let old := wd (leNat (s.hbmRead pa 8))
          let s := match amoNew fn old x y with
            | some v => s.hbmWrite pa (leBytes 8 v.toNat)
            | none => s
          .ok (drop s, leBytes 8 old.toNat)
      | [] => .error 1

/-- The network node of a die's fabric unit. -/
def fabNode (d : Nat) : Nat := 12288 + d

/-- Whether a packet is what it says it is (R419): on UE its tag verifies under the association of a peer entry of its package; a package
that no entry names has none. -/
def authentic (s : State) (p : FabPacket) : Bool :=
  let es := (s.vf p.vf).peers.filter fun e => e.2.ue && e.2.pkg == p.pkg
  !(s.portAt p.port).ue || (if es.isEmpty then p.sa.isNone else es.any fun e => e.2.sa == p.sa)

/-- The core that a packet must be passed on to, with the operation for its remote-op thread (R399, R406, R409): none for HBM and for what
fails at the target. -/
def passedOn (s : State) (p : FabPacket) : Option (Nat × RemoteOp) :=
  let tok := fabTok (pktKey p) p.seq
  match (s.vf p.vf).windows.find? fun w => w.1 == p.win with
  | none => none
  | some (_, w) =>
    match w.home with
    | .hbm _ => none
    | .spad c o =>
      let a := o + p.off
      if w.length < pktEnd p || !winAllows w p.op || !s.isRunning c || decide (Config.spadBytes < o + pktEnd p) then none
      else some (c, match p.op with
        | .put bs => .fabPut a bs tok
        | .putSw n => .fabRaise a n p.vf tok
        | .amo fn x y => .fabAmo fn a x y tok
        | .get n => .fabGet a n tok)

/-- What is not passed on: HBM is applied at once, the rest fails (R399, R406, R413). -/
def applyHere (s : State) (p : FabPacket) : State :=
  let tok := fabTok (pktKey p) p.seq
  match (s.vf p.vf).windows.find? fun w => w.1 == p.win with
  | none => s.fabDone tok 1 []
  | some (_, w) =>
    if w.length < pktEnd p || !winAllows w p.op then s.fabDone tok 1 []
    else match w.home with
      | .hbm base =>
        match targetHbm s p (base + p.off) with
        | .ok (s, bs) => s.fabDone tok 0 bs
        | .error e => s.fabDone tok e []
      | .spad c _ => s.fabDone tok (if s.isRunning c then 1 else 6) []

/-- Pass a packet's operation to its home: a core's by the forwarded-request channel (R146). -/
def toHome (s : State) (p : FabPacket) : State :=
  let s := { s with targets := tmod s.targets {} (pktKey p) fun t => { t with busy := t.busy ++ [(p.seq, p.port)] } }
  match passedOn s p with
  | some (c, op) => s.post ⟨1, fabNode p.die, c, .remote op⟩
  | none => applyHere s p

/-- Whether every earlier operation of a held packet's flow has been acknowledged (R410). -/
def flaggedReady (t : TargetFlow) (p : FabPacket) : Bool := p.first ≤ t.base

/-- The forwarded-request slot of a die's fabric unit is free: nothing it has passed on is still on its way (R147). -/
def State.slotFree (s : State) (die : Nat) : Bool := !(s.net.any fun f => f.chan == 1 && f.src == fabNode die)

/-- Whether a packet whose turn has come is held as an ordered-flag packet (R410). -/
def mustHold (s : State) (p : FabPacket) : Bool := p.flagged && !flaggedReady (tget s.targets {} (pktKey p)) p

/-- Whether a packet whose turn has come can be taken: one that must be passed on needs the slot (R147). -/
def canTake (s : State) (p : FabPacket) : Bool := mustHold s p || (passedOn s p).isNone || s.slotFree p.die

/-- A packet whose turn has come: an ordered-flag packet is held until it may be applied (R410). -/
def takeTurn (s : State) (p : FabPacket) : State :=
  if mustHold s p then { s with targets := tmod s.targets {} (pktKey p) fun t => { t with flagged := t.flagged ++ [p] } }
  else toHome s p

/-- Packets of an ordered flow that have waited for the one before them, as long as they can be taken (R409). -/
def drainWaiting (key : Nat) : Nat → State → State
  | 0, s => s
  | fuel + 1, s =>
    let t := tget s.targets {} key
    match t.waiting.find? fun p => p.seq == t.next with
    | some p =>
      if canTake s p then
        let t' : TargetFlow := { t with next := t.next + 1, waiting := t.waiting.filter fun q => q.seq != p.seq }
        drainWaiting key fuel (takeTurn { s with targets := tput s.targets key t' } p)
      else s
    | none => s

/-- Bytes waiting in the reorder buffer of a die (R409). -/
def State.reorderBytes (s : State) (die : Nat) : Nat :=
  s.targets.foldl (fun n t => t.2.waiting.foldl (fun n p => if p.die = die then n + pktLen p else n) n) 0

/-- A die's reorder buffer of 2 MiB has no room for one more packet of a Lace link, so that its ports withhold credit (R409). -/
def State.reorderFull (s : State) (die : Nat) : Bool := 2 ^ 21 < s.reorderBytes die + 192

/-- A port withholds credit as long as its die's reorder buffer is full (R409). -/
def State.gate (s : State) (port : Nat) : State :=
  let full := s.reorderFull (port / 2)
  if (s.portAt port).withheld = full then s else s.modPort port fun q => q.withhold full

/-- Every port of the package. -/
def State.gates (s : State) : State := (List.range 16).foldl State.gate s

/-- Packets that waited for a slot go on, flow by flow (R147, R409). -/
def State.pump (s : State) : State :=
  if s.targets.all fun e => e.2.waiting.isEmpty then s
  else (s.targets.foldl (fun s e => drainWaiting e.1 (e.2.waiting.length + 1) s) s).gates

/-- A packet arrives at this package as target (R409, R419). One that cannot be taken yet, and that no reorder buffer keeps, is not taken:
it comes again. -/
def execFabricPacketArrival (p : FabPacket) (s : State) : Host.Outcome State Fault Refusal :=
  let key := pktKey p
  let t := tget s.targets {} key
  let known := p.seq < t.base || t.done.contains p.seq || t.busy.any (fun b => b.1 == p.seq)
    || t.flagged.any (fun q => q.seq == p.seq) || t.waiting.any (fun q => q.seq == p.seq)
  let opened (t : TargetFlow) : State := { s with targets := tput (dropClosed p s.targets) key t }
  if !authentic s p then .next (s.answer p.port ⟨p.pkg, p.flow, p.seq, 5, []⟩)
  else if known || (p.mode == 0 && decide (p.seq < t.next)) then .next s
  else if p.mode ≠ 0 then .next (if canTake s p then takeTurn (opened t) p else s)
  else if p.seq = t.next ∧ canTake s p then
    .next (drainWaiting key (t.waiting.length + 1) (takeTurn (opened { t with next := t.next + 1 }) p)).gates
  else if 2 ^ 21 < s.reorderBytes p.die + pktLen p then .next s
  else .next (opened { t with waiting := t.waiting ++ [p] }).gates

/-- Held ordered-flag packet k of a die is applied once every earlier operation of its flow is acknowledged (R410). -/
def execFlaggedApply (die k : Nat) (s : State) : Host.Outcome State Fault Refusal :=
  match nth ((s.targets.map fun t => t.2.flagged).flatten.filter fun p => p.die == die) k with
  | none => .next s
  | some p =>
    let t := tget s.targets {} (pktKey p)
    if flaggedReady t p && canTake s p then
      let t' : TargetFlow := { t with flagged := t.flagged.filter fun q => q.seq != p.seq }
      .next (toHome { s with targets := tput s.targets (pktKey p) t' } p)
    else .next s

/-- The remote-op thread executes the head of its queue; item k of the traffic joins the queue first, and may free a slot (R147). -/
def takeOp (s : State) (c : Nat) (k : Option Nat) (arrival : Bool) : State :=
  match k with
  | none => headOp s c arrival
  | some k => (headOp (admitOp s c (some k)) c arrival).pump

/-- The remote-op thread executes an operation other than an arrival (R166). -/
def execRemoteOpExecute (c : Nat) (k : Option Nat) (s : State) : Host.Outcome State Fault Refusal := .next (takeOp s c k false)

/-- The remote-op thread applies an arrival (R175). -/
def execJoinArrival (c : Nat) (k : Option Nat) (s : State) : Host.Outcome State Fault Refusal := .next (takeOp s c k true)

/-! ## The Lace link (R415 to R418) -/

/-- A flit is received (R416). -/
def execLaceFlitReceive (port : Nat) (f : LaceFlit) (s : State) : Host.Outcome State Fault Refusal :=
  let q := s.portAt port
  if q.ue || !q.trained then .next s else .next (s.modPort port fun q => q.receive f)

/-- A replay request: the sender resends the flit named (R416). -/
def execLaceReplayRequest (port seq : Nat) (s : State) : Host.Outcome State Fault Refusal :=
  let q := s.portAt port
  match (if q.ue || !q.trained then none else q.replay.find? fun e => e.1 == seq) with
  | some e => .next (s.modPort port fun q => { q with resend := q.resend ++ [e] })
  | none => .next s

/-- A lane's score (R418). -/
def laneScore (c : Nat) : Nat := 255 - min 255 ((c + 63) / 64)

/-- An interval of 2^20 cycles ends (R418): a Lace port has counted its own corrections, a UE port reports `counts`. -/
def execLaneScoreInterval (port : Nat) (counts : List Nat) (s : State) : Host.Outcome State Fault Refusal :=
  .next (s.modPort port fun q =>
    let c := if q.ue then (List.range 4).map fun i => (nth counts i).getD 0 else q.lanes
    { q with scores := c.map laneScore, lanes := [0, 0, 0, 0], fec := if q.ue then q.fec + c.foldl (· + ·) 0 else q.fec })

end Sys2Proof.Machine
end

