-- ==== Sys2Proof/Machine/Matrix.lean ====
section
/-!
DEFINITION. Majors 0x3B and 0x3C and the B-buffer form of `wsld`: the octet's matrix unit, its two engines, and repetition bodies
(R131, R215, R336 to R359, R377).
-/

namespace Sys2Proof.Machine

/-! ## Configuration (R91, R339, R341) -/

/-- The mode of a configuration. -/
def mMode (c : Word) : Nat := fld c 3 0
/-- Its arbiter weight. -/
def mWeight (c : Word) : Nat := fld c 7 4
/-- M. -/
def mM (c : Word) : Nat := fld c 13 8 + 1
/-- N. -/
def mN (c : Word) : Nat := fld c 21 16 + 1
/-- K. -/
def mK (c : Word) : Nat := fld c 47 32
/-- The byte of the B buffer at which the tile starts. -/
def mBase (c : Word) : Nat := fld c 59 48 * 64
/-- Bits of an element of a mode. -/
def mBits (mode : Nat) : Nat := if mode < 2 then 4 else if mode < 6 then 8 else 16
/-- k-steps of a pass (R340). -/
def mSteps (mode : Nat) : Nat := 32 / mBits mode
/-- The B row length rb in bytes. -/
def mRow (c : Word) : Nat := roundUp ((mN c * mBits (mMode c) + 7) / 8) 8
/-- The group size, 0 for none. -/
def mGroup (c : Word) : Nat :=
  match fld c 23 22 with
  | 0 => 0
  | g => 16 * 2 ^ g
/-- Groups along K (R91). -/
def mGroups (c : Word) : Nat := if mGroup c = 0 then 1 else mK c / mGroup c
/-- The pitch of a scale array (R91). -/
def mPs (c : Word) : Nat := roundUp (2 * mGroups c) 8
/-- The pitch of a zero-point array (R91). -/
def mPz (c : Word) : Nat := roundUp (mGroups c) 8
/-- Whether a configuration word is refused (R339). -/
def cfgBad (c : Word) : Bool :=
  fld c 63 60 != 0 || fld c 31 30 != 0 || fld c 15 14 != 0 || 8 ≤ mMode c || mWeight c == 0 || mK c == 0
    || (mGroup c != 0 && mK c % mGroup c != 0) || decide (Config.bBufBytes < mBase c + mK c * mRow c)

/-! ## Members, bank sets and the state word -/

/-- A member of an octet's unit. -/
def Octet.member (o : Octet) (m : Nat) : Member := tget o.members {} m
/-- Change a member. -/
def Octet.modMember (o : Octet) (m : Nat) (f : Member → Member) : Octet := { o with members := tput o.members m (f (o.member m)) }
/-- A bank set by number. -/
def Octet.bank (o : Octet) (i : Nat) : BankSet := if i = 0 then o.set0 else o.set1
/-- Replace a bank set. -/
def Octet.putBank (o : Octet) (i : Nat) (b : BankSet) : Octet := if i = 0 then { o with set0 := b } else { o with set1 := b }
/-- The number of the lower-numbered free set (R347). -/
def Octet.freeSet (o : Octet) : Option Nat :=
  if o.set0.member.isNone then some 0 else if o.set1.member.isNone then some 1 else none
/-- The set a member holds. -/
def Octet.held (o : Octet) (m : Nat) : Option BankSet := (o.member m).set.map o.bank

/-- The octet and the member of the core whose turn it is. -/
def State.unit (s : State) : Octet := s.octet (octetOf s.cur)
/-- The member of the core whose turn it is. -/
def State.me (s : State) : Member := s.unit.member (memberOf s.cur)
/-- Change the own member. -/
def State.modMe (s : State) (f : Member → Member) : State := s.modOctet (octetOf s.cur) fun o => o.modMember (memberOf s.cur) f

/-- The state word of a member as commands see it (R351). -/
def stateWord (o : Octet) (m : Member) : Word :=
  let kd := match m.set with
    | some i => (o.bank i).kd
    | none => 0
  wd (kd * 2 ^ 48 + m.kc * 2 ^ 32 + min m.queue.length 16 * 2 ^ 16 + m.st * 2 ^ 12 + m.set.getD 0 * 2 ^ 8 + mMode m.cfg)

/-- BOUNDS, detail 6: the command is not allowed in the member's state or mode (R347, R257). -/
def badState {α : Type} (s : State) (m : Member) : Act α := fault s cBOUNDS 6 (stateWord s.unit m)

/-! ## Acceptance (R336, R338) -/

/-- The 4 KiB blocks of a range of the B buffer. -/
def blocksOf (at_ n : Nat) : List Nat :=
  if n = 0 then [] else (List.range ((at_ + n - 1) / 4096 - at_ / 4096 + 1)).map fun i => at_ / 4096 + i

/-- The blocks a pass reads: those of its k-steps, of every B instance (R338, R377). -/
def passBlocks (c : Word) (pb k0 : Nat) : List Nat :=
  ((List.range pb).map fun j =>
    blocksOf (mBase c + j * mK c * mRow c + k0 * mRow c) (mSteps (mMode c) * mRow c)).flatten

/-- The blocks a command reads (passes) or writes (loads). -/
def MCmd.blocks : MCmd → List Nat
  | .pass _ c _ pb k0 => passBlocks c pb k0
  | .ldb srcs dst n => blocksOf dst (srcs.length * n)
  | .wsldb _ _ dst n => blocksOf dst n
  | _ => []
/-- Whether a command is a load of the B buffer. -/
def MCmd.loads : MCmd → Bool
  | .ldb .. => true
  | .wsldb .. => true
  | _ => false
/-- Whether a command is a pass. -/
def MCmd.isPass : MCmd → Bool
  | .pass .. => true
  | _ => false

/-- Record a layout id on blocks (R338). -/
def Octet.record (o : Octet) (bs : List Nat) (id : Nat) : Octet := { o with ids := bs.foldl (fun t b => tput t b id) o.ids }

/-- Append an accepted command to the own member's queue. -/
def State.accept (s : State) (word : Nat) (cmd : MCmd) : State :=
  let e : MEntry := ⟨cmd, s.owner word, s.unit.seq, none⟩
  s.modOctet (octetOf s.cur) fun o =>
    { o.modMember (memberOf s.cur) (fun m => { m with queue := m.queue ++ [e] }) with seq := o.seq + 1 }

/-- The wait for room in the queue (R336). -/
def roomWait (s : State) : Act Unit := waitFor (s.me.backlog.isEmpty && s.me.queue.length < 16)

/-- The rule of R377 for every matrix command: no frame is open. -/
def noFrame (s : State) : Act Unit := need s.ctx.lift.frames.isEmpty s cLJOIN 2

/-- The frame of a matrix command that executes once (R336, R357, R377). -/
def matrixOnce (w : Nat) (reads writes : List Nat) (body : State → Act State) (s : State) : Host.Outcome State Fault Refusal :=
  onward { word := w, reads := reads, writes := writes, ends := true, once := true }
    (fun s => do
      noFrame s
      body s) s

/-- `mmcfg` (R339). -/
def execMmcfg (a : Nat) (s : State) : Host.Outcome State Fault Refusal :=
  let w := wordMmcfg a
  matrixOnce w [a] [] (fun s => do
    let c := s.sv a
    if cfgBad c then fault s cBOUNDS 3 c
    if s.me.st ≠ 0 then badState s s.me
    roomWait s
    pure ((s.modMe fun m => { m with cfg := c, configured := true, kc := 0, tb := 0, pb := 1 }).accept w (.cfg c))) s

/-- `mmldb` (R341, R377): one source per instance of a tagged address. -/
def execMmldb (a i j : Nat) (s : State) : Host.Outcome State Fault Refusal :=
  let w := wordMmldb a i j
  onward { word := w, reads := [a], ends := true }
    (fun s => do
      noFrame s
      let r := s.ctx.sreg a
      let c := s.me.cfg
      let n := mK c * mRow c
      let P := instCount s.ctx.lift r.tags
      if Config.bBufBytes < mBase c + P * n then fault s cBOUNDS 3 (wd (mBase c + P * n))
      let (s, srcs) ← widen s r.tags fun s k => do
        let x ← resolveSpad s (atInst r k) n 8 false
        pure (s, x)
      spadWait s false
      roomWait s
      let cmd := MCmd.ldb (srcs.map fun (p : Nat × Nat) => p.2) (mBase c) n
      let s := s.modMe fun m => { m with tb := r.tags, pb := P }
      pure ((s.modOctet (octetOf s.cur) fun o => o.record cmd.blocks (i + 64 * j)).accept w cmd)) s

/-- `wsld` into the B buffer (R215, R338). -/
def execWsldB (x y z w : Nat) (s : State) : Host.Outcome State Fault Refusal :=
  let word := wordWsldB x y z w
  matrixOnce word [x, y, z, w] [] (fun s => do
    let n ← wsCount s (s.sv z)
    let b := s.sv x
    if Config.bBufBytes < b.toNat + n then faultAt s cBOUNDS 1 b true
    if b.toNat % 64 ≠ 0 then faultAt s cALIGN 0 b true
    let o ← wsOffset s (s.sv y) n false
    roomWait s
    let die := s.myDie
    let oct := octetOf s.cur
    let id := (s.die die).nextJob
    let s := acceptJob s ⟨0, s.owner word, 0, .bbuf oct b.toNat, .store o, n, 1, n, n, none, none, true, 0, false, []⟩
    let cmd := MCmd.wsldb die id b.toNat n
    pure ((s.modOctet oct fun o => o.record cmd.blocks (fld (s.sv w) 7 0)).accept word cmd)) s

/-! ## Operands read at issue (R345, R350) -/

/-- A zero-point byte by the format of a mode (R91): `aSide` for the A operand; none where LAYOUT. -/
def zeroPoint (mode : Nat) (aSide : Bool) (b : Nat) : Option Int :=
  if mode = 0 then (if 16 ≤ b then none else some b)
  else if mode = 2 || (mode == 4 && aSide) || (mode == 5 && !aSide) then some (sxt 8 b)
  else some b

/-- The zero points at addresses, each byte read as its format gives it (R345). -/
def zeroPoints (s : State) (mode : Nat) (aSide : Bool) : List Nat → Act (List Int)
  | [] => .ok []
  | a :: as => do
    match zeroPoint mode aSide (mreadNat (s.core s.cur).spad a 1) with
    | none => fault s cLAYOUT 0
    | some z => pure (z :: (← zeroPoints s mode aSide as))

/-- `mmzp` (R345). -/
def execMmzp (a : Nat) (s : State) : Host.Outcome State Fault Refusal :=
  let w := wordMmzp a
  matrixOnce w [a] [] (fun s => do
    let v := s.sv a
    let c := s.me.cfg
    if fld v 63 40 ≠ 0 then fault s cBOUNDS 3 v
    if mMode c = 1 || 6 ≤ mMode c then badState s s.me
    let rows (a n : Nat) : List Nat := (List.range n).map fun k => a + k * mPz c
    let as := rows (fld v 19 0) (mM c)
    let bs := rows (fld v 39 20) (mN c)
    match (as ++ bs).find? fun a => decide (Config.spadBytes ≤ a) with
    | some a => faultAt s cBOUNDS 1 (wd a)
    | none => pure ()
    spadWait s false
    let za ← zeroPoints s (mMode c) true as
    let zb ← zeroPoints s (mMode c) false bs
    roomWait s
    pure (s.accept w (.zp za zb))) s

/-- The f16 scales of `n` rows (R350). -/
def scales (s : State) (a ps n : Nat) : List Nat := (List.range n).map fun r => mreadNat (s.core s.cur).spad (a + r * ps) 2

/-- `sacc` (R350). -/
def execSacc (a b r : Nat) (s : State) : Host.Outcome State Fault Refusal :=
  let w := wordSacc a b r
  matrixOnce w [a, b] [] (fun s => do
    let m := s.me
    let c := m.cfg
    if m.st ≠ 2 || 6 ≤ mMode c then badState s m
    let oa : Operand := ⟨s.sv a, (mM c - 1) * mPs c + 2, 2, permR, false, some true⟩
    let ob : Operand := ⟨s.sv b, (mN c - 1) * mPs c + 2, 2, permR, false, some true⟩
    let _ ← checkOperands s [oa, ob]
    let pa := oa.x.toNat
    let pb := ob.x.toNat
    spadWait s false
    roomWait s
    let rnd := if r = 4 then fld s.ctx.sp.fst 10 8 else r
    pure ((s.modMe fun m => { m with st := 0 }).accept w (.sacc (scales s pa (mPs c) (mM c)) (scales s pb (mPs c) (mN c)) rnd))) s

/-! ## The other commands -/

/-- `mmdrn` (R344, R347). -/
def execMmdrn (s : State) : Host.Outcome State Fault Refusal :=
  matrixOnce wordMmdrn [] [] (fun s => do
    if s.me.st ≠ 1 || 6 ≤ mMode s.me.cfg then badState s s.me
    roomWait s
    pure ((s.modMe fun m => { m with st := 2 }).accept wordMmdrn .drn)) s

/-- `mmmrg` (R348): d is written when the merge has run, and counts as written in the region that follows (R357). -/
def execMmmrg (d a : Nat) (s : State) : Host.Outcome State Fault Refusal :=
  let w := wordMmmrg d a
  matrixOnce w [a] [d] (fun s => do
    let v := s.sv a
    let oct := s.myDie * 32 + fld v 4 0
    let m := fld v 10 8
    if v.toNat != fld v 4 0 + fld v 10 8 * 256 + fld v 18 16 * 65536 || fld v 18 16 != s.myDie
        || (oct == octetOf s.cur && m == memberOf s.cur) then
      faultAt s cBOUNDS 4 v
    if !inQuads s.myVf (coreOf oct m) then faultAt s cPERM 0 v
    if s.me.st ≠ 1 then badState s s.me
    roomWait s
    pure (s.accept w (.mrg d oct m))) s

/-- `mmclr` (R351). -/
def execMmclr (c : Nat) (s : State) : Host.Outcome State Fault Refusal :=
  matrixOnce (wordMmclr c) [] [] (fun s => do
    roomWait s
    pure ((s.modMe fun m => { m with st := if bitOf c 1 then 0 else m.st, kc := if bitOf c 3 then 0 else m.kc }).accept
      (wordMmclr c) (.clr c))) s

/-- `mmst` (R351): its bytes are a write of the own scratchpad, acknowledged when the command executes. -/
def execMmst (a b : Nat) (s : State) : Host.Outcome State Fault Refusal :=
  let w := wordMmst a b
  matrixOnce w (if b = 0 then [a] else [a, b]) [] (fun s => do
    let c := s.me.cfg
    let p := if b = 0 then wd (4 * mN c) else s.sv b
    if p.toNat % 8 ≠ 0 then faultAt s cALIGN 0 p true
    if p.toNat < 4 * mN c then fault s cBOUNDS 3 p
    let x ← resolveSpad s (s.sv a) ((mM c - 1) * p.toNat + 4 * mN c) 8 true
    spadWait s true
    roomWait s
    let (wid, s) := s.fresh
    let s := { s with writes := tput s.writes wid { own := s.owner w, home := s.cur, lines := [] } }
    pure (s.accept w (.mst x p.toNat wid))) s

/-- `mmsta` (R351): it waits for every command accepted before it, then reads `acst` or the state word. -/
def execMmsta (d i : Nat) (s : State) : Host.Outcome State Fault Refusal :=
  onward { word := wordMmsta d i, writes := [d] }
    (fun s => do
      let m := s.me
      let n := s.ctx.sta.getD s.unit.seq
      if (m.queue ++ m.backlog).any fun e => e.seq < n then
        .error (.hold (s.modCtx fun x => { x with sta := some n }))
      writeS s d 0 fun _ => if i = 0 then wd m.acst else stateWord s.unit m) s

/-! ## Passes (R338 to R341, R347, R377) -/

/-- Whether a pass is one of the member's mode (R347). -/
def passMode (mul : Bool) (mode : Nat) : Bool := mul == decide (2 ≤ mode)

/-- The checks a pass makes of its member: state, cursor, instances and layout; the member after acceptance (R338 to R341, R347,
R377). -/
def passCheck (s : State) (m : Member) (mul : Bool) (lay : Option Nat) (P : Nat) : Act Member := do
  let c := m.cfg
  let n := mSteps (mMode c)
  if !m.configured then fault s cBOUNDS 3 (wd (m.kc + n))
  if !passMode mul (mMode c) || (mMode c < 6 && m.st == 2) then badState s m
  if mK c < m.kc + n then fault s cBOUNDS 3 (wd (m.kc + n))
  if mM c % P ≠ 0 || mN c % m.pb ≠ 0 then fault s cAXOVF 7
  match lay with
  | some id => if (passBlocks c m.pb m.kc).any fun b => tlook s.unit.ids b != some id then fault s cLAYOUT 0
  | none => pure ()
  pure { m with kc := m.kc + n, st := if mMode c < 6 then 1 else m.st }

/-- The tag set of the A words of a pass. -/
def passTags (s : State) (a b : Nat) : Nat := (sourceOf s a).1 ||| (sourceOf s b).1

/-- The word an operand supplies to an A instance; `later` leaves a port to be popped, and a register to be read, when the pass enters
the queue. -/
def aWord (s : State) (later : Bool) (c i : Nat) : AWord :=
  if later && isPort c then .port c
  else if later && decide (c < 48) then .reg c (proj (s.ctx.vreg c).tags i) ((sourceOf s c).2 i)
  else .val ((sourceOf s c).2 i)

/-- The word pairs of a pass by A instance (R340, R377). -/
def passWords (s : State) (later : Bool) (a b : Nat) : List (AWord × AWord) :=
  (instances s.ctx.lift (passTags s a b)).map fun i => (aWord s later a i, aWord s later b i)

/-- The command of an accepted pass. -/
def passCmd (s : State) (m : Member) (mul later : Bool) (a b : Nat) : MCmd :=
  .pass mul m.cfg (passWords s later a b) m.pb m.kc

/-- The vector registers a pass names. -/
def passRegs (a b : Nat) : List Nat := [a, b].filter fun c => decide (c < 48)

/-- Everything an ordinary pass does: checks, parity, waits, acceptance, the pops of its links. -/
def passBody (w : Nat) (mul : Bool) (a b : Nat) (s : State) : Act State := do
  let m := s.me
  sourceChecks s [(1, a), (2, b)]
  let m' ← passCheck s m mul s.ctx.hints.lay (instCount s.ctx.lift (passTags s a b))
  let s ← readRegs s (passTags s a b) (passRegs a b)
  sourceWaits s [(1, a), (2, b)]
  roomWait s
  let cmd := passCmd s m mul false a b
  pure (popPorts ((s.modMe fun _ => m').accept w cmd) [a, b])

/-- A pass in a repetition body is captured (R355). -/
def capture (mul : Bool) (a b : Nat) (r : Rep) (s : State) : State :=
  s.modCtx fun x => { x with rep := some { r with passes := r.passes ++
    [{ mul := mul, a := a, b := b, lay := x.hints.lay, take := x.hints.take, j := r.j, pc := x.pc }] } }

/-- `mmcnt` and `mmmul`: captured inside a repetition body, else executed as a matrix command. -/
def passExec (w : Nat) (mul : Bool) (a b : Nat) (s : State) : Host.Outcome State Fault Refusal :=
  match s.ctx.rep with
  | some r => onward { word := w } (fun s => do noFrame s; pure (capture mul a b r s)) s
  | none =>
    onward { word := w, reads := (passRegs a b).map vCode, ends := true } (fun s => do noFrame s; passBody w mul a b s) s

/-- `mmcnt` (R342, R343). -/
def execMmcnt (a b : Nat) (s : State) := passExec (wordMmcnt a b) false a b s
/-- `mmmul` (R346). -/
def execMmmul (a b : Nat) (s : State) := passExec (wordMmmul a b) true a b s

/-! ## Repetition bodies (R131, R355) -/

/-- `rep` (R354, R355): the body starts at the next word. -/
def execRep (n k : Nat) (s : State) : Host.Outcome State Fault Refusal :=
  onward { word := wordRep n k }
    (fun s => pure (s.modCtx fun x =>
      { x with rep := some { n := n, step := sxt 6 k, j := 0, start := pc4 s, words := 0, matrix := none, passes := [] } })) s

/-- A fault belongs to a repetition. -/
def inRep {α : Type} (j : Nat) : Act α → Act α
  | .error (.trap f s) => .error (.trap { f with rep := some j } s)
  | r => r

/-- The operand code of a captured pass in its repetition (R131). -/
def repCode (step : Int) (j c : Nat) : Int := if c < 48 then c + step * j else c

/-- The checks and reads of one captured pass (R355): the member as the earlier repetitions leave it, and the command. -/
def repPass (s : State) (step : Int) (m : Member) (p : RepPass) : Act (State × Member × MCmd) := inRep p.j do
  let ca := repCode step p.j p.a
  let cb := repCode step p.j p.b
  match [ca, cb].zip [p.a, p.b] |>.find? fun e => decide (e.2 < 48) && (e.1 < 0 || 47 < e.1 || (s.ctx.id.nv : Int) ≤ e.1) with
  | some e => fault s cBOUNDS 2 (BitVec.ofInt 64 e.1)
  | none => pure ()
  let a := ca.toNat
  let b := cb.toNat
  let t := s.modCtx fun x => { x with hints := { x.hints with take := p.take } }
  sourceChecks t [(1, a), (2, b)]
  let m' ← passCheck s m p.mul p.lay (instCount s.ctx.lift (passTags s a b))
  let s ← parityOver s (passTags s a b) (passRegs a b)
  let keep : List (Nat × Nat) := [(1, a), (2, b)]
  sourceWaits t (keep.filter fun (e : Nat × Nat) => !isPort e.2)
  pure (s, m', passCmd s m p.mul true a b)

/-- The checks of every repetition, in order. -/
def repPasses (step : Int) : List RepPass → State → Member → Act (State × Member × List (RepPass × MCmd))
  | [], s, m => .ok (s, m, [])
  | p :: ps, s, m => do
    let (s, m, c) ← repPass s step m p
    let (s, m, cs) ← repPasses step ps s m
    pure (s, m, (p, c) :: cs)

/-- A word with its link popped, none when the link is empty. -/
def popWord (fifos : Table (List Vec)) : AWord → Option AWord
  | .port c => (tget fifos [] c).head?.map AWord.val
  | w => some w

/-- A repetition, by its number, reads a register that the check at `repend` found good (R355): a word that has gone bad since is
repaired from a duplicate, or else reported with P = 0 for that repetition and used as read. -/
def lateRead (s : State) (own : Owner) (rep : Option Nat) (w : AWord) : State × AWord :=
  match w, s.actAt own.act with
  | .reg n i v, some (c, x) =>
    let (s, v) := (x.bad.filter fun b => b.reg == n && b.inst == i).foldl (fun (q : State × Vec) (b : BadWord) =>
      if x.repairs b then
        ((q.1.modCore c fun k => { k with rpr := k.rpr + 1 }).modAct own.act fun x =>
          { x with bad := x.bad.filter fun e => e != b }, q.2)
      else
        ((q.1.modCore c fun k => { k with rnr := k.rnr + 1 }).report own cRFPAR b.lane (wd n) false false rep,
          q.2 ^^^ BitVec.ofNat 1024 (b.mask.toNat * 2 ^ (32 * b.lane)))) (s, v)
    (s, .val v)
  | .reg _ _ v, none => (s, .val v)
  | w, _ => (s, w)

/-- The register words of a pass as it enters the queue. -/
def lateReads (own : Owner) (rep : Option Nat) : List (AWord × AWord) → State → State × List (AWord × AWord)
  | [], s => (s, [])
  | (a, b) :: rest, s =>
    let (s, a) := lateRead s own rep a
    let (s, b) := lateRead s own rep b
    let (s, ws) := lateReads own rep rest s
    (s, (a, b) :: ws)

/-- A pass with its registers read. -/
def MCmd.readLate (own : Owner) (rep : Option Nat) (s : State) : MCmd → State × MCmd
  | .pass mul c ws pb k0 =>
    let (s, ws) := lateReads own rep ws s
    (s, .pass mul c ws pb k0)
  | cmd => (s, cmd)

/-- The vector registers a pass of a repetition reads. -/
def MCmd.regs : MCmd → List Nat
  | .pass _ _ ws _ _ => ((ws.map fun (p : AWord × AWord) => [p.1, p.2].filterMap fun (x : AWord) => match x with
      | .reg n _ _ => some n
      | _ => none).flatten).eraseDups
  | _ => []

/-- The links a pass still has to pop. -/
def MCmd.ports : MCmd → List Nat
  | .pass _ _ ws _ _ => ((ws.map fun (p : AWord × AWord) => [p.1, p.2].filterMap fun (x : AWord) => match x with
      | .port c => some c
      | _ => none).flatten).eraseDups
  | _ => []

/-- A pass as it enters the queue: each link it names supplies its oldest entry (R44, R355). -/
def MCmd.fillPorts (fifos : Table (List Vec)) : MCmd → MCmd
  | .pass mul c ws pb k0 =>
    .pass mul c (ws.map fun (p : AWord × AWord) => ((popWord fifos p.1).getD p.1, (popWord fifos p.2).getD p.2)) pb k0
  | c => c

/-- Accepted repetitions enter the queue as it has room and their links hold entries (R336, R355). -/
def refill (o m : Nat) : Nat → State → State
  | 0, s => s
  | fuel + 1, s =>
    let x := (s.octet o).member m
    let c := coreOf o m
    match x.backlog with
    | [] => s
    | e :: es =>
      let fifos := (s.core c).fifos
      if 16 ≤ x.queue.length || e.cmd.ports.any fun p => (tget fifos [] p).isEmpty then s
      else
        let (s, cmd) := (e.cmd.fillPorts fifos).readLate e.own e.rep s
        let s := s.modOctet o fun t => t.modMember m fun x => { x with queue := x.queue ++ [{ e with cmd := cmd }], backlog := es }
        refill o m fuel (s.modCore c fun k =>
          { k with fifos := e.cmd.ports.foldl (fun (f : Table (List Vec)) (p : Nat) => tput f p ((tget f [] p).drop 1)) k.fifos })

/-- Accept the passes of a body: they stand behind the queue and enter it in order (R355). -/
def acceptAll (s : State) (ps : List (RepPass × MCmd)) : State :=
  let s := ps.foldl (fun (s : State) (p : RepPass × MCmd) =>
    let w := if p.1.mul then wordMmmul p.1.a p.1.b else wordMmcnt p.1.a p.1.b
    let e : MEntry := ⟨p.2, { s.owner w with pc := p.1.pc }, s.unit.seq, some p.1.j⟩
    s.modOctet (octetOf s.cur) fun o =>
      { o.modMember (memberOf s.cur) (fun m => { m with backlog := m.backlog ++ [e] }) with seq := o.seq + 1 }) s
  refill (octetOf s.cur) (memberOf s.cur) 16 s

/-- `repend` (R355): the next repetition, or the end of the body; a body of passes is checked and accepted as a whole. -/
def execRepend (s : State) : Host.Outcome State Fault Refusal :=
  let r := s.ctx.rep
  let last := match r with
    | some r => decide (r.n ≤ r.j + 1)
    | none => true
  let mat := match r with
    | some r => r.matrix == some true
    | none => false
  execute { word := wordRepend, ends := last && mat, ill := r.isNone }
    (fun s => do
      let r := r.getD { n := 1, step := 0, j := 0, start := 0, words := 0, matrix := none, passes := [] }
      if last then
        let out (s : State) : State := s.modCtx fun x => { x with rep := none }
        if mat then
          let (s, m, cmds) ← repPasses r.step r.passes s s.me
          waitFor s.me.backlog.isEmpty
          let s := cmds.foldl (fun (s : State) (c : RepPass × MCmd) => s.countReads c.2.regs) s
          let s := out (acceptAll (s.modMe fun _ => m) cmds)
          pure (s, pc4 s)
        else pure (out s, pc4 s)
      else pure (s.modCtx fun x => { x with rep := some { r with j := r.j + 1, words := 0 } }, r.start)) s

/-! ## Elements (R85, R86, R340, R341) -/

/-- The code of k-step t of row r of a pass with `P` A instances. -/
def aCode (c : Word) (ws : List (AWord × AWord)) (r t : Nat) : Nat :=
  let rows := mM c / max ws.length 1
  match nth ws (r / rows) with
  | some (x, y) =>
    match (if r % rows < 32 then x else y) with
    | .val v => bits (lane v (r % rows % 32)).toNat (t * mBits (mMode c)) (mBits (mMode c))
    | .reg _ _ v => bits (lane v (r % rows % 32)).toNat (t * mBits (mMode c)) (mBits (mMode c))
    | .port _ => 0
  | none => 0

/-- The code of k-step k, column n of the B tile with `pb` instances. -/
def bCode (bb : Memory) (c : Word) (pb k n : Nat) : Nat :=
  let cols := mN c / max pb 1
  let w := mBits (mMode c)
  let bit := n % cols * w
  let row := mBase c + n / cols * (mK c * mRow c) + k * mRow c
  mreadNat bb (row + bit / 8) (max 1 (w / 8)) / 2 ^ (bit % 8) % 2 ^ w

/-- The integer an A code of a mode stands for. -/
def aVal (mode x : Nat) : Int := if mode = 1 then l4Value x else if mode = 2 || mode == 4 then sxt 8 x else x
/-- The integer a B code of a mode stands for. -/
def bVal (mode x : Nat) : Int := if mode = 1 then l4Value x else if mode = 2 || mode == 5 then sxt 8 x else x

/-- The distinct products of two codes from 1 to 15, rising (R342). -/
def n4Products : List Nat :=
  (List.range 226).filter fun p => (List.range 16).any fun a => a != 0 && p != 0 && p % a == 0 && decide (p / a ≤ 15)

/-- The class of a code pair of a count mode, none for a zero product (R342). -/
def classOf (mode x y : Nat) : Option Nat :=
  if mode = 1 then
    (if x % 8 = 0 ∨ y % 8 = 0 then none
     else some ((if bitOf x 3 != bitOf y 3 then 13 else 0) + x % 8 + y % 8 - 2))
  else if x * y = 0 then none
  else some (n4Products.filter fun p => decide (p < x * y)).length

/-- The value of a class (R342). -/
def classValue (mode k : Nat) : Int :=
  if mode = 1 then (if k < 13 then (2 ^ k : Nat) else -(2 ^ (k - 13) : Nat))
  else ((nth n4Products k).getD 0 : Nat)

/-- An integer in s32 and whether it wrapped (R346). -/
def wrap32 (z : Int) : Int × Nat :=
  let w := sxt 32 (wrapN 32 z)
  (w, if w = z then 0 else 16)

/-! ## What commands do when they execute -/

/-- The bit CNTOV of `acst`. -/
def aCNTOV : Nat := 32
/-- The bits of `acst` for status flags (R352). -/
def acstOf (flags : Nat) : Nat := flags % 8 + (if bitOf flags 4 then 8 else 0)

/-- The pairs of rows and columns of a tile. -/
def cells (c : Word) : List (Nat × Nat) :=
  ((List.range (mM c)).map fun m => (List.range (mN c)).map fun n => (m, n)).flatten

/-- One k-step of a pass in a count mode or an integer multiply mode (R343, R346). -/
def passStep (c : Word) (a b : Nat → Nat) (p : BankSet × Nat) : BankSet × Nat :=
  let (g, fl) := p
  let mode := mMode c
  if g.kd = 4095 then (g, fl ||| aCNTOV) else
    let g := { g with
      kd := g.kd + 1
      railA := (List.range (mM c)).foldl (fun (t : Table Int) (m : Nat) => tmod t 0 m (· + aVal mode (a m))) g.railA
      railB := (List.range (mN c)).foldl (fun (t : Table Int) (n : Nat) => tmod t 0 n (· + bVal mode (b n))) g.railB }
    if mode < 2 then
      (cells c).foldl (fun (q : BankSet × Nat) (e : Nat × Nat) =>
        match classOf mode (a e.1) (b e.2) with
        | none => q
        | some k =>
          let i := (e.1 * 64 + e.2) * 96 + k
          let v := tget q.1.counts 0 i
          if v = 4095 then (q.1, q.2 ||| aCNTOV) else ({ q.1 with counts := tput q.1.counts i (v + 1) }, q.2)) (g, fl)
    else
      (cells c).foldl (fun (q : BankSet × Nat) (e : Nat × Nat) =>
        let i := e.1 * 64 + e.2
        let r := wrap32 (tget q.1.sums 0 i + aVal mode (a e.1) * bVal mode (b e.2))
        ({ q.1 with sums := tput q.1.sums i r.1 }, q.2 ||| r.2)) (g, fl)

/-- A pass on a bank set: its k-steps in ascending k (R343). -/
def passSet (bb : Memory) (c : Word) (ws : List (AWord × AWord)) (pb k0 : Nat) (g : BankSet) : BankSet × Nat :=
  (List.range (mSteps (mMode c))).foldl (fun (q : BankSet × Nat) (t : Nat) =>
    passStep c (fun m => aCode c ws m t) (fun n => bCode bb c pb (k0 + t) n) q) (g, 0)

/-- A pass in bf16 or f16 mode on the tile (R98, R346). -/
def passTile (bb : Memory) (c : Word) (ws : List (AWord × AWord)) (pb k0 : Nat) (tile : Table Nat) : Table Nat × Nat :=
  let f := if mMode c = 6 then bf16 else f16
  (cells c).foldl (fun (q : Table Nat × Nat) (e : Nat × Nat) =>
    let a (t : Nat) : FVal := f.read (aCode c ws e.1 t)
    let b (t : Nat) : FVal := f.read (bCode bb c pb (k0 + t) e.2)
    let p0 := (a 0).times (b 0)
    let p1 := (a 1).times (b 1)
    let i := e.1 * 64 + e.2
    let r := sumRound f32 rne [f32.read (tget q.1 0 i), p0.1, p1.1] 1 1
    (tput q.1 i r.bits, q.2 ||| acstOf (r.flags ||| p0.2 ||| p1.2 ||| snanFlag [a 0, b 0, a 1, b 1]))) (tile, 0)

/-- The partial of each cell (R344, R346): the class sums or S, with the zero-point terms. -/
def drainSet (c : Word) (za zb : List Int) (g : BankSet) : BankSet × Nat :=
  let mode := mMode c
  let base := if mode < 2 then
      g.counts.foldl (fun (t : Table Int) (e : Nat × Nat) => tmod t 0 (e.1 / 96) (· + e.2 * classValue mode (e.1 % 96))) []
    else g.sums
  let r := (cells c).foldl (fun (q : Table Int × Nat) (e : Nat × Nat) =>
    let i := e.1 * 64 + e.2
    let x := (nth za e.1).getD 0
    let y := (nth zb e.2).getD 0
    let p := wrap32 (tget base 0 i - y * tget g.railA 0 e.1 - x * tget g.railB 0 e.2 + g.kd * x * y)
    (tput q.1 i p.1, q.2 ||| p.2)) ([], 0)
  ({ g with drained := true, parts := r.1, counts := [], sums := [] }, r.2)

/-- A set with a source set added (R348): the outcome d and the bits for `acst`. -/
def mergeSets (g src : BankSet) : BankSet × Nat × Nat :=
  let ovf := decide (4095 < g.kd + src.kd)
  let counts := src.counts.foldl (fun (q : Table Nat × Nat) (e : Nat × Nat) =>
    let v := tget q.1 0 e.1 + e.2
    (tput q.1 e.1 (min v 4095), q.2 ||| (if 4095 < v then aCNTOV else 0))) (g.counts, 0)
  let sums := src.sums.foldl (fun (q : Table Int × Nat) (e : Nat × Int) =>
    let r := wrap32 (tget q.1 0 e.1 + e.2)
    (tput q.1 e.1 r.1, q.2 ||| r.2)) (g.sums, 0)
  let add (x y : Table Int) : Table Int := y.foldl (fun (t : Table Int) (e : Nat × Int) => tmod t 0 e.1 (· + e.2)) x
  ({ g with kd := min (g.kd + src.kd) 4095, counts := counts.1, sums := sums.1, railA := add g.railA src.railA,
            railB := add g.railB src.railB },
    counts.2 ||| sums.2 ||| (if ovf then aCNTOV else 0), if ovf then 3 else 0)

/-- `sacc` on the tile (R350): the product of two scales and an integer is exact. -/
def saccTile (c : Word) (sa sb : List Nat) (rnd : Nat) (g : BankSet) (tile : Table Nat) : Table Nat × Nat :=
  (cells c).foldl (fun (q : Table Nat × Nat) (e : Nat × Nat) =>
    let i := e.1 * 64 + e.2
    let x := f16.read ((nth sa e.1).getD 0)
    let y := f16.read ((nth sb e.2).getD 0)
    let p := tget g.parts 0 i
    let p1 := x.times y
    let p2 := p1.1.times (.fin (p < 0) p.natAbs 0)
    let r := sumRound f32 rnd [f32.read (tget q.1 0 i), p2.1] 1 1
    (tput q.1 i r.bits, q.2 ||| acstOf (r.flags ||| p1.2 ||| p2.2 ||| snanFlag [x, y]))) (tile, 0)

/-- The bytes of row r of a tile, as `mmst` stores them (R351). -/
def tileRow (c : Word) (tile : Table Nat) (r : Nat) : List Byte :=
  ((List.range (mN c)).map fun n => leBytes 4 (tget tile 0 (r * 64 + n))).flatten

/-- A member's set freed (R347). -/
def Octet.freeBank (o : Octet) (m : Nat) : Octet :=
  match (o.member m).set with
  | some i => (o.putBank i {}).modMember m fun x => { x with set := none }
  | none => o

/-- The set a pass works on: the one held, or the lower-numbered free one, cleared (R347). -/
def Octet.takeBank (o : Octet) (m : Nat) (c : Word) : Octet × Nat :=
  match (o.member m).set with
  | some i => (o, i)
  | none =>
    let i := o.freeSet.getD 0
    ((o.putBank i { member := some m, mode := mMode c, M := mM c, N := mN c }).modMember m fun x => { x with set := some i }, i)

/-- The counting set a member holds (R348). -/
def Octet.counting (o : Octet) (m : Nat) : Option BankSet :=
  match o.held m with
  | some g => if g.drained then none else some g
  | none => none

/-- A merge runs on the target member's set (R348): the octet, the bits for `acst`, and d. -/
def Octet.merge (o : Octet) (m : Nat) (src : Option BankSet) : Octet × Nat × Nat :=
  match (o.member m).set, src with
  | some i, some g =>
    let t := o.bank i
    if g.mode ≠ t.mode ∨ g.M ≠ t.M ∨ g.N ≠ t.N then (o, 0, 2)
    else
      let (t, fl, d) := mergeSets t g
      (o.putBank i t, fl, d)
  | _, _ => (o, 0, 1)

/-- Bits enter `acst`; each new bit with its trap enabled makes a trap pending for the issuing activation (R352). -/
def raiseAcst (s : State) (o m : Nat) (fl : Nat) (own : Owner) : State :=
  let x := (s.octet o).member m
  let fresh := (List.range 6).filter fun i => bitOf fl i && !bitOf x.acst i
  let s := s.modOctet o fun t => t.modMember m fun x => { x with acst := x.acst ||| fl }
  match fresh.filter fun i => bitOf (fld x.xcfg 29 24) i with
  | [] => s
  | new => s.modAct own.act fun y => { y with accf := new.foldl (fun l i => insertUp i l) y.accf }

/-- The outcome of a merge reaches its register, which the open region latches (R357). -/
def deliverMerge (s : State) (own : Owner) (d v : Nat) : State :=
  if d = 0 then s else s.modAct own.act fun x => (x.putS d (plain (wd v))).latch (sCode d)

/-- The head command of a member leaves the queue. -/
def popHead (s : State) (o m : Nat) : State :=
  refill o m 1 (s.modOctet o fun t => t.modMember m fun x => { x with queue := x.queue.drop 1, moving := false })

/-- A command executes (R343 to R351): the state with its effect and the bits for `acst`. -/
def runCmd (s : State) (o m : Nat) (e : MEntry) : State × Nat :=
  let u := s.octet o
  let x := u.member m
  let c := coreOf o m
  let mod (f : Member → Member) : State := s.modOctet o fun t => t.modMember m f
  match e.cmd with
  | .cfg v => (mod fun x => { x with xcfg := v, za := [], zb := [] }, 0)
  | .ldb srcs dst n =>
    let bs := (srcs.map fun (a : Nat) => s.spadRead c a n).flatten
    (s.modOctet o fun t => { t with bbuf := mwrite t.bbuf dst bs }, 0)
  | .wsldb die job _ _ =>
    match (s.die die).job job with
    | some j => (moveBlocks s die j j.unmoved, 0)
    | none => (s, 0)
  | .zp za zb => (mod fun x => { x with za := za, zb := zb }, 0)
  | .pass _ cf ws pb k0 =>
    if 6 ≤ mMode cf then
      let (t, fl) := passTile u.bbuf cf ws pb k0 x.tile
      (mod fun x => { x with tile := t }, fl)
    else
      let (u, i) := u.takeBank m cf
      let (g, fl) := passSet u.bbuf cf ws pb k0 (u.bank i)
      (s.modOctet o fun _ => u.putBank i g, fl)
  | .drn =>
    match x.set with
    | some i =>
      let (g, fl) := drainSet x.xcfg x.za x.zb (u.bank i)
      (s.modOctet o fun t => t.putBank i g, fl)
    | none => (s, 0)
  | .mrg d so sm =>
    let (u, fl, v) := u.merge m ((s.octet so).counting sm)
    (deliverMerge (s.modOctet o fun _ => u) e.own d v, fl)
  | .sacc sa sb rnd =>
    match x.set with
    | some i =>
      let (t, fl) := saccTile x.xcfg sa sb rnd (u.bank i) x.tile
      (s.modOctet o fun t' => (t'.modMember m fun x => { x with tile := t }).freeBank m, fl)
    | none => (s, 0)
  | .mst a p wid =>
    let s := (List.range (mM x.xcfg)).foldl (fun (s : State) (r : Nat) => s.landSpad c (a + r * p) (tileRow x.xcfg x.tile r)) s
    ({ s with writes := tdel s.writes wid }, 0)
  | .clr k =>
    let s := if bitOf k 0 then mod fun x => { x with tile := [] } else s
    let s := if bitOf k 1 then s.modOctet o fun t => t.freeBank m else s
    (if bitOf k 2 then s.modOctet o fun t => t.modMember m fun x => { x with acst := 0 } else s, 0)

/-! ## The engines (R337, R338) -/

/-- Every command of a unit that is accepted and not executed. -/
def Octet.accepted (o : Octet) : List MEntry :=
  (o.members.map fun (m : Nat × Member) => m.2.queue ++ m.2.backlog).flatten

/-- Whether a load or pass must wait for an earlier-accepted one on a block of the B buffer (R338). -/
def Octet.blocked (o : Octet) (e : MEntry) : Bool :=
  o.accepted.any fun f => f.seq < e.seq && (f.cmd.loads || e.cmd.loads) && f.cmd.blocks.any fun b => e.cmd.blocks.contains b

/-- Whether the head command of a member can proceed on an engine (R337, R338, R347). -/
def eligible (s : State) (o : Nat) (count : Bool) (m : Nat) : Bool :=
  let u := s.octet o
  let x := u.member m
  match x.queue with
  | [] => false
  | e :: _ =>
    let own := e.cmd.isPass == count
    let can := match e.cmd with
      | .pass _ c _ _ _ => !u.blocked e && (6 ≤ mMode c || x.set.isSome || u.freeSet.isSome)
      | .ldb .. => !u.blocked e
      | .wsldb die job _ _ =>
        match (s.die die).job job with
        | some j => !u.blocked e && j.ready s die == j.unmoved
        | none => true
      | .mrg .. => !x.moving
      | _ => true
    own && can

/-- The member an engine takes, given its pointer and how many commands of that member it has executed in its turn (R337): the
member and the commands executed before this one. -/
def arbitrate (s : State) (o : Nat) (count : Bool) (ptr run : Nat) : Option (Nat × Nat) :=
  if 0 < run && eligible s o count ptr then some (ptr, run) else
    let start := if 0 < run then (ptr + 1) % 8 else ptr
    (((List.range 8).map fun i => (start + i) % 8).find? fun m => eligible s o count m).map fun m => (m, 0)

/-- The pointer of an engine that has executed one more command of a member in its turn (R337): it moves on after w commands, or when
the member's next command cannot proceed. -/
def advance (s : State) (o : Nat) (count : Bool) (w m run : Nat) : Nat × Nat :=
  if w ≤ run + 1 || !eligible s o count m then ((m + 1) % 8, 0) else (m, run + 1)

/-- Set an engine's pointer. -/
def State.point (s : State) (o : Nat) (count : Bool) (p : Nat × Nat) : State :=
  s.modOctet o fun u => if count then { u with cptr := p.1, crun := p.2 } else { u with sptr := p.1, srun := p.2 }

/-- The head of a member's queue executes and leaves it. -/
def runHead (s : State) (o m : Nat) (e : MEntry) : State :=
  let (s, fl) := runCmd s o m e
  popHead (raiseAcst s o m fl e.own) o m

/-- The source set of a merge from another octet sets out over the die network (R348). -/
def sendMerge (s : State) (o m d so sm : Nat) (own : Owner) : State :=
  (s.modOctet o fun u => u.modMember m fun x => { x with moving := true }).post
    ⟨0, coreOf so sm, own.core, .mergeReq d o m so ((s.octet so).counting sm) own⟩

/-- A load from the weight store at the head of a member's queue moves the blocks it can, before it can complete (R214, R338). -/
def preload (o : Nat) (s : State) (m : Nat) : State :=
  let u := s.octet o
  match (u.member m).queue with
  | e :: _ =>
    match e.cmd with
    | .wsldb die job _ _ =>
      match (s.die die).job job with
      | some j => if u.blocked e then s else moveBlocks s die j (j.ready s die)
      | none => s
    | _ => s
  | [] => s

/-- One command on an engine of an octet; where none can proceed the service engine works on loads from the weight store; its clock stands
unless its die runs (R435). -/
def engineStep (count : Bool) (o : Nat) (s : State) : State :=
  let u := s.octet o
  let ptr := if count then u.cptr else u.sptr
  let run := if count then u.crun else u.srun
  if (s.die (o / 32)).pw.state ≠ .run then s else
  match arbitrate s o count ptr run with
  | none =>
    let s := (List.range 8).foldl (fun (s : State) (m : Nat) => refill o m 16 s) s
    let s := if count then s else (List.range 8).foldl (preload o) s
    if run = 0 then s else s.point o count ((ptr + 1) % 8, 0)
  | some (m, run) =>
    match (u.member m).queue with
    | [] => s
    | e :: _ =>
      let t := match e.cmd with
        | .mrg d so sm => if so = o then runHead s o m e else sendMerge s o m d so sm e.own
        | _ => runHead s o m e
      t.point o count (advance t o count (mWeight (u.member m).xcfg) m run)

/-- The count engine takes the next eligible member and executes one of its passes (R337). -/
def execCountEngineStep (o : Nat) (s : State) : Host.Outcome State Fault Refusal := .next (engineStep true o s)
/-- The service engine takes the next eligible member and executes one of its other commands (R337). -/
def execServiceEngineStep (o : Nat) (s : State) : Host.Outcome State Fault Refusal := .next (engineStep false o s)

/-- A source bank set from another octet arrives and is merged (R348), once the clocks of the target's die are not held (R435). -/
def execMergeSetArrival (k : Nat) (s : State) : Host.Outcome State Fault Refusal :=
  match s.flight k with
  | some ⟨_, _, _, .mergeReq d o m _ set own⟩ =>
    if s.clocksHeld (dieOfOctet o) then .next s else
    let s := s.dropFlight k
    if !((s.octet o).member m).moving then .next s else
    let (u, fl, v) := (s.octet o).merge m set
    let s := deliverMerge (s.modOctet o fun _ => u) own d v
    .next (popHead (raiseAcst s o m fl own) o m)
  | _ => .next s

end Sys2Proof.Machine
end

