-- ==== Sys2Proof/Machine/Seam.lean ====
section
/-!
DEFINITION. Seams: pushes and accumulates of major 0x36, copy records, and the seam unit's own turns (R311 to R320, R376); the start of
activations and the restore of contexts, whose registers early arrivals may meet (R315).
-/

namespace Sys2Proof.Machine

/-! ## Arrivals (R314, R315, R317, R318) -/

/-- Put an element into a list by rising key. -/
def insertBy {α : Type} (key : α → Nat) (x : α) : List α → List α
  | [] => [x]
  | y :: ys => if key x < key y then x :: y :: ys else y :: insertBy key x ys
/-- A list by rising key, equal keys in their order. -/
def sortBy {α : Type} (key : α → Nat) (xs : List α) : List α := xs.foldl (fun acc x => insertBy key x acc) []

/-- The extents of the axes of a tag set. -/
def extsOf (l : Lift) (tags : Nat) : List Nat := (List.range 4).map fun ax => if bitOf tags ax then extOf l ax else 1

/-- Replace cochain register n of a context, with no tracking (R314). -/
def Ctx.setK (x : Ctx) (n : Nat) (k : KReg) : Ctx := { x with regs := { x.regs with k := tput x.regs.k n k } }

/-- Whether an arrival matches a register of its number and kind in a context of its slice (R315, R331). -/
def seamMatches (k : Core) (r : SeamRow) (x : Ctx) : Bool :=
  let a := x.kreg r.reg
  x.status != .free && x.id.slice == r.dst && a.defined && a.slot == r.slot && a.pushed && a.kind == r.kind
    && k.bindState a == .live

/-- Whether an arrival agrees with the register it matches (R315, R376). -/
def seamAgrees (r : SeamRow) (l : Lift) (a : KReg) : Bool :=
  a.deg == r.deg && a.fmt == r.fmt && a.chm == r.chm && (a.fmt != 0 || a.exp == r.E) && a.tags == r.tags
    && extsOf l a.tags == r.exts

/-- The owned row a partial is for, by the copy records the accumulate began with; none when it is for a later one (R318, R332). -/
def partialRow (r : SeamRow) (a : KReg) : Option Nat :=
  match a.recs.find? fun e => e.1 == r.src && e.2.1 == r.ord with
  | some e => if a.parts.any fun p => p.slice == r.src && p.row == e.2.2 && p.inst == r.inst then none else some e.2.2
  | none => none

/-- Merge partials, in ascending holder slice, into one element of an owned row (R318). -/
def mergeElem (a : KReg) (v : Nat) (ps : List Nat) : FR :=
  if a.fmt = 0 then
    let e := bxElem (ps.foldl (fun (z : Int) p => z + sxt 32 p) (sxt 32 v))
    ⟨e.bits, e.fl⟩
  else ps.foldl (fun acc p => let r := fAdd (kFmt a.fmt) a.rnd acc.bits p; ⟨r.bits, r.flags ||| acc.flags⟩) ⟨v, 0⟩

/-- The merge of an accumulate on a register with n rows of which `own` are owned: the memory and the flags (R318). A record whose local
index names no owned row merges nothing. -/
def mergeRows (a : KReg) (own n insts : Nat) (m : Memory) : Memory × Nat :=
  let rows := ((a.recs.map fun e => e.2.2).filter fun c => decide (c < own)).eraseDups
  ((List.range insts).map fun i => rows.map fun c => (i, c)).flatten.foldl (fun (acc : Memory × Nat) (e : Nat × Nat) =>
    let hs := sortBy (fun (h : Nat) => h) ((a.recs.filter fun q => q.2.2 == e.2).map fun q => q.1)
    let ps := hs.filterMap fun h => (a.parts.find? fun p => p.slice == h && p.row == e.2 && p.inst == e.1).map fun p => p.vals
    let out := (kRow acc.1 a n e.1 e.2).mapIdx fun j v => mergeElem a v (ps.map fun p => at0 p j)
    (kPutRow a n e.1 e.2 (out.map fun r => r.bits) acc.1, out.foldl (fun f r => f ||| r.flags) acc.2)) (m, 0)

/-- One arrival less for a register; at the last one the register is ready, its merge made, and its waiters go on. The merge's flags join
`sr.fst` at that moment: a `rdsr` or `wrsr` of `sr.fst` does not wait for a merge still to come, on which the spec is silent (L76). -/
def seamCount (s : State) (c i n : Nat) (a : KReg) : State :=
  let a := { a with count := a.count - 1 }
  if a.count ≠ 0 then s.modCtxAt c i fun x => x.setK n a
  else
    let x := s.ctxAt c i
    let cx := (s.core c).cplxOf a
    let (m, fl) := if a.kind = 1 then mergeRows a (nat4 cx.own a.deg) (cx.cells a.deg) (instCount x.lift a.tags) (s.core c).spad
      else ((s.core c).spad, 0)
    let fl := fl &&& (fOF + fNV + fNX)
    let done := { a with w0 := setFld a.w0 43 42 2, kind := 0, recs := [], parts := [] }
    (s.modCore c fun k => { k with spad := m }).modCtxAt c i fun x =>
      { (x.setK n (done.orStatus fl)) with
        sp := { x.sp with fst := x.sp.fst ||| wd fl }
        wait := if x.wait = .seam n then .ready else x.wait }

/-- Apply an arrival at its core: discarded for a register that stopped being pushed, taken by the register it matches, or
discarded with a report where it disagrees; none when it matches nothing yet (R314, R315). -/
def applySeam (s : State) (c : Nat) (r : SeamRow) : Option State :=
  let k := s.core c
  let isGone (g : SeamGone) : Bool := g.slice == r.dst && g.slot == r.slot && g.reg == r.reg && g.kind == r.kind
  match findIdx isGone k.seam.gone 0 with
  | some (j, g) =>
    let gone := if g.n ≤ 1 then dropAt k.seam.gone j else lset k.seam.gone j { g with n := g.n - 1 }
    some ((s.modCore c fun k => { k with seam := { k.seam with gone := gone } }).ackTo c r.own r.wid)
  | none =>
    match k.ctxs.find? fun e => seamMatches k r e.2 with
    | none => none
    | some (i, x) =>
      let a := x.kreg r.reg
      if !seamAgrees r x.lift a then some ((s.report r.own cKTYPE 0 0 false false).ackTo c r.own r.wid)
      else if r.kind = 0 then
        let cx := k.cplxOf a
        let s := s.modCore c fun k =>
          { k with spad := kPutRow a (cx.cells a.deg) r.inst (nat4 cx.own a.deg + r.ord) r.vals k.spad }
        some ((seamCount s c i r.reg a).ackTo c r.own r.wid)
      else
        match partialRow r a with
        | some row =>
          some ((seamCount s c i r.reg { a with parts := a.parts ++ [⟨r.src, row, r.inst, r.vals⟩] }).ackTo c r.own r.wid)
        | none => none

/-- Match the early arrivals of a core again, oldest first (R315). -/
def rematch (s : State) (c : Nat) : State :=
  ((s.core c).seam.early).foldl (fun s r =>
    match applySeam s c r with
    | some s' => s'.modCore c fun k => { k with seam := { k.seam with early := k.seam.early.erase r } }
    | none => s) s

/-! ## Instructions (R316 to R319) -/

/-- The copy records of a degree that a core holds for a slot, by owned row and then by holder (R317). -/
def recordsOf (k : Core) (slot deg : Nat) : List CopyRec :=
  sortBy CopyRec.loc (sortBy CopyRec.holder (k.seam.recs.filter fun r => r.slot == slot && r.deg == deg))

/-- The checks and waits that begin a seam instruction (R316, R376). -/
def seamStart (s : State) (k : Nat) : Act Unit := do
  unitTurn s
  kLive s [k]
  let a := s.ctx.kreg k
  kSpan s a ((s.core s.cur).cplxOf a) a.tags
  if a.tags ≠ 0 ∧ !s.ctx.lift.frames.isEmpty then fault s cLJOIN 2
  seamWait s [k]

/-- The copy records of a register's degree as a push or accumulate uses them: those held when it started (R312), as holder slice, ghost
ordinal and owned row. -/
def startRecs (s : State) (a : KReg) : List (Nat × Nat × Nat) :=
  (s.ctx.held.bind Held.recs).getD ((recordsOf (s.core s.cur) a.slot a.deg).map fun r => (r.holder, r.ord, r.loc))

/-- A push or accumulate that takes more than one turn on the unit keeps the records it started with. -/
def State.keepRecs (s : State) (recs : List (Nat × Nat × Nat)) : State :=
  if (s.core s.cur).pace = 0 then s else s.onUnit true fun h => { h with recs := some recs }

/-- The spans of rows of a register at its active instances. -/
def rowSpans (s : State) (a : KReg) (rows : List Nat) : List (Nat × Nat) :=
  let n := ((s.core s.cur).cplxOf a).cells a.deg
  ((activeOf s.ctx.lift a.tags).map fun i =>
    rows.map fun c => (a.rowAt n (instNumber s.ctx.lift a.tags i) c, a.es * (a.chm + 1))).flatten

/-- Hand rows to the seam unit: (slice, ghost ordinal, row of the register) at every instance, each a write of the context. -/
def handRows (s : State) (word k kind : Nat) (m : Memory) (outs : List (Nat × Nat × Nat)) : State :=
  let x := s.ctx
  let a := x.kreg k
  let n := ((s.core s.cur).cplxOf a).cells a.deg
  let own := s.owner word
  ((activeOf x.lift a.tags).map fun i => outs.map fun o => (instNumber x.lift a.tags i, o)).flatten.foldl
    (fun s (e : Nat × Nat × Nat × Nat) =>
      let (slice, ord, row) := e.2
      let (wid, s) := s.addWrite own ((s.coreOfSlice own.launch slice).getD 4095) []
      let r : SeamRow :=
        { src := x.id.slice, dst := slice, slot := a.slot, reg := k, kind := kind, deg := a.deg, fmt := a.fmt, chm := a.chm,
          E := a.exp, inst := e.1, tags := a.tags, exts := extsOf x.lift a.tags, ord := ord, vals := kRow m a n e.1 row, own := own,
          wid := wid }
      s.modCore s.cur fun c => { c with seam := { c.seam with out := c.seam.out ++ [r] } }) s

/-- The register becomes pushed, or ready when nothing is expected (R314). -/
def KReg.push (a : KReg) (kind count rnd : Nat) (recs : List (Nat × Nat × Nat)) : KReg :=
  { w0 := setFld a.w0 43 42 (if count = 0 then 2 else 1), w1 := a.w1, kind := if count = 0 then 0 else kind, count := count,
    rnd := rnd, recs := if count = 0 then [] else recs, parts := [] }

/-- `kspush` (R317): the owned rows that have copy records, one whose record names no owned row excepted. -/
def execKspush (k : Nat) (s : State) : Host.Outcome State Fault Refusal :=
  let w := wordKspush k
  onward { word := w, reads := [kCode k], ends := true }
    (fun s => do
      seamStart s k
      spadWait s true
      let a := s.ctx.kreg k
      let c := s.core s.cur
      let n := (activeOf s.ctx.lift a.tags).length
      let all := startRecs s a
      let recs := all.filter fun r => decide (r.2.2 < nat4 (c.cplxOf a).own a.deg)
      let s := s.keepRecs all
      let m ← unitRead s (rowSpans s a (recs.map fun r => r.2.2)) true
      let s := handRows s w k 0 m recs
      let s := s.modCtx fun x => x.setK k (a.push 0 (nat4 (c.cplxOf a).gh a.deg * n) 0 [])
      pure (rematch s s.cur)) s

/-- `kacc` (R318). -/
def execKacc (k r : Nat) (s : State) : Host.Outcome State Fault Refusal :=
  let w := wordKacc k r
  onward { word := w, reads := [kCode k], ends := true }
    (fun s => do
      seamStart s k
      let a := s.ctx.kreg k
      let c := s.core s.cur
      let x := c.cplxOf a
      let recs := startRecs s a
      let n := (activeOf s.ctx.lift a.tags).length
      let bytes := recs.length * n * (a.es * (a.chm + 1))
      if Config.complexBytes < c.storeUsed + bytes then fault s cBOUNDS 3 (wd bytes)
      spadWait s true
      let s := s.keepRecs recs
      let m ← unitRead s (rowSpans s a ((List.range (nat4 x.gh a.deg)).map fun g => nat4 x.own a.deg + g)) true
      let s := handRows s w k 1 m ((x.ghostOwners a.deg).mapIdx fun g o => (o.1, g, nat4 x.own a.deg + g))
      let s := s.modCtx fun y =>
        y.setK k (a.push 1 (recs.length * n) (roundOf y r) recs)
      pure (rematch s s.cur)) s

/-- `kswait` (R319). -/
def execKswait (k : Nat) (s : State) : Host.Outcome State Fault Refusal :=
  onward { word := wordKswait k, reads := [kCode k] } (fun s => do seamStart s k; pure s) s

/-! ## The seam unit's turns (R312, R313, R315, R319) -/

/-- A copy record reaches the owner's core (R312): kept, or discarded and reported when 8,192 are held; acknowledged. -/
def execCopyRecordArrival (k : Nat) (s : State) : Host.Outcome State Fault Refusal :=
  match s.flight k with
  | some ⟨_, _, c, .copyRec r _ own wid⟩ =>
    if s.isRunning c && (s.core c).preempted then .next s else
    let s := (s.dropFlight k).ackTo c own wid
    if !s.isRunning c then .next (s.lost c)
    else if 8192 ≤ ((s.core c).seam.recs.filter fun e => e.slot == r.slot).length then
      .next (s.report own cBOUNDS 3 0 false false)
    else .next (s.modCore c fun x => { x with seam := { x.seam with recs := x.seam.recs ++ [r] } })
  | _ => .next s

/-- A withdrawal reaches the owner's core (R312). -/
def execCopyRecordWithdrawal (k : Nat) (s : State) : Host.Outcome State Fault Refusal :=
  match s.flight k with
  | some ⟨_, _, c, .withdraw slot holder own wid⟩ =>
    if s.isRunning c && (s.core c).preempted then .next s else
    let s := (s.dropFlight k).ackTo c own wid
    .next (s.modCore c fun x =>
      { x with seam := { x.seam with recs := x.seam.recs.filter fun r => !(r.slot == slot && r.holder == holder) } })
  | _ => .next s

/-- Send a row to a core: its ledger entry names the core now. -/
def sendRow (s : State) (c d : Nat) (r : SeamRow) : State :=
  let s := match tlook s.writes r.wid with
    | some w => { s with writes := tput s.writes r.wid { w with home := d } }
    | none => s
  s.post ⟨seamChan c d, c, d, .seam r⟩

/-- The seam unit sends the oldest row whose slice has a core (R313, R317). -/
def execSeamSend (c : Nat) (s : State) : Host.Outcome State Fault Refusal :=
  if !s.isRunning c then .next s else
  match findIdx (fun (r : SeamRow) => (s.coreOfSlice r.own.launch r.dst).isSome) (s.core c).seam.out 0 with
  | some (i, r) =>
    match s.coreOfSlice r.own.launch r.dst with
    | some d => .next (sendRow (s.modCore c fun x => { x with seam := { x.seam with out := dropAt x.seam.out i } }) c d r)
    | none => .next s
  | none => .next s

/-- A row arrives (R315): applied, kept early, or refused internally for a resend when 32 are kept. At a pre-empted core it waits
(R266); at one that is not running it is answered as `mput.r` is, the record naming the core (R153, L72). -/
def execSeamArrival (k : Nat) (s : State) : Host.Outcome State Fault Refusal :=
  match s.flight k with
  | some ⟨_, src, c, .seam r⟩ =>
    if s.isRunning c && (s.core c).preempted then .next s else
    let s := s.dropFlight k
    if !s.isRunning c then .next ((s.ackTo c r.own r.wid).report r.own cMNODE 1 (wd (c * 2 ^ 32)) true true)
    else
      match applySeam s c r with
      | some s' => .next s'
      | none =>
        if (s.core c).seam.early.length < 32 then
          .next (s.modCore c fun x => { x with seam := { x.seam with early := x.seam.early ++ [r] } })
        else .next (s.modCore src fun x => { x with seam := { x.seam with resend := x.seam.resend ++ [r] } })
  | _ => .next s

/-- A core that runs resends the oldest refused row (R315, R435). -/
def execSeamArrivalResend (c : Nat) (s : State) : Host.Outcome State Fault Refusal :=
  match (if s.isRunning c then (s.core c).seam.resend else []) with
  | r :: rest =>
    match s.coreOfSlice r.own.launch r.dst with
    | some d => .next (sendRow (s.modCore c fun x => { x with seam := { x.seam with resend := rest } }) c d r)
    | none => .next s
  | [] => .next s

/-- The timeout of a context's seam wait passes, in cycles of a core that runs (R283, R319, R435): the instruction faults when it tries again. -/
def execSeamTimeout (c x : Nat) (s : State) : Host.Outcome State Fault Refusal :=
  let y := s.ctxAt c x
  match y.wait with
  | .seam _ =>
    if s.isRunning c ∧ y.status = .running ∧ fld y.sp.kmode 31 8 ≠ 0 then
      .next (s.modCtxAt c x fun y => { y with tmo := true, wait := .ready })
    else .next s
  | _ => .next s

/-! ## What brings registers to a core (R155, R263, R265, R315) -/

/-- The core starts one activation from its mailbox, or a saved one is resumed (R155, R263); early seam arrivals are matched with what a
resumed one brings back (R315). -/
def execActivationStart (c : Nat) (s : State) : Host.Outcome State Fault Refusal :=
  if s.isRunning c && !(s.core c).preempted then
    match s.startOne c with
    | some t => .next (if (t.core c).savedParks.length < (s.core c).savedParks.length then rematch t c else t)
    | none => .next (s.retryPending c)
  else .next s

/-- Restore a context, or a whole core, to where it was (R265, R266); early seam arrivals are matched again (R315). -/
def execContextRestore (c : Nat) (x : Option Nat) (s : State) : Host.Outcome State Fault Refusal :=
  let k := s.core c
  match x with
  | some i =>
    match findIdx (fun (e : Nat × Ctx) => e.1 == i) k.savedCtxs 0 with
    | some (j, (_, y)) =>
      if k.preempted || (s.ctxAt c i).status != .free || s.poolFree c < y.id.nv + y.instRegs then .next s
      else .next (rematch (((s.setCtxAt c i y.restored).modCore c fun k => { k with savedCtxs := dropAt k.savedCtxs j }).trim c) c)
    | none => .next s
  | none =>
    if k.preempted && s.isRunning c then
      .next (rematch (s.modCore c Core.restoreAll) c)
    else .next s

end Sys2Proof.Machine
end

