-- ==== Sys2Proof/Machine/Remesh.lean ====
section
/-!
DEFINITION. Major 0x3A: the pending complex and its operations, commit, and transfer (R321 to R332).
-/

namespace Sys2Proof.Machine

/-! ## The pending complex (R321, R325) -/

/-- The pending complex as a copy of the current one. -/
def Cplx.pending (x : Cplx) : PendCplx :=
  { nv := x.cells 0, deadV := [], edges := ((nth x.verts 0).getD []).mapIdx fun i v => (i, v),
    tris := ((nth x.verts 1).getD []).mapIdx fun i v => (i, v), ne := x.cells 1, nt := x.cells 2, ops := [] }

/-- Whether a vertex index names a vertex. -/
def PendCplx.hasV (p : PendCplx) (v : Nat) : Bool := decide (v < p.nv) && !p.deadV.contains v

/-- The edge with a vertex set: index and vertex list. -/
def PendCplx.edgeOf (p : PendCplx) (u v : Nat) : Option (Nat × List Nat) := p.edges.find? fun e => sameSet e.2 [u, v]

/-- The triangles that contain an edge's vertices, ascending, each with its third vertex. -/
def PendCplx.cofacesOf (p : PendCplx) (a b : Nat) : List (Nat × List Nat × Nat) :=
  p.tris.filterMap fun (t : Nat × List Nat) =>
    if t.2.contains a && t.2.contains b then (t.2.find? fun v => v != a && v != b).map fun c => (t.1, t.2, c) else none

/-- A vertex list with a vertex replaced. -/
def swapV (vs : List Nat) (old new : Nat) : List Nat := vs.map fun v => if v = old then new else v

/-- Add an edge. -/
def PendCplx.addE (p : PendCplx) (vs : List Nat) : PendCplx := { p with edges := tput p.edges p.ne vs, ne := p.ne + 1 }
/-- Add a triangle. -/
def PendCplx.addT (p : PendCplx) (vs : List Nat) : PendCplx := { p with tris := tput p.tris p.nt vs, nt := p.nt + 1 }

/-- Endpoints of a vertex list of two. -/
def endsOf (vs : List Nat) : Nat × Nat := (at0 vs 0, at0 vs 1)

/-- The survivor and the removed endpoint of a collapse. -/
def clpsEnds (vs : List Nat) (keepB : Bool) : Nat × Nat :=
  let (a, b) := endsOf vs
  if keepB then (b, a) else (a, b)

/-- Apply one operation (R325). -/
def PendCplx.apply (p : PendCplx) (op : RmOp) : PendCplx :=
  let p := { p with ops := p.ops ++ [op] }
  match op with
  | .poke t _ _ _ =>
    let v := tget p.tris [] t
    let m := p.nv
    let q := v.foldl (fun q x => PendCplx.addE q [x, m]) { p with nv := m + 1, tris := tdel p.tris t }
    v.foldl (fun q x => q.addT (swapV v x m)) q
  | .split e _ _ =>
    let (a, b) := endsOf (tget p.edges [] e)
    let m := p.nv
    let cs := p.cofacesOf a b
    let q := { p with nv := m + 1, edges := tdel p.edges e, tris := p.tris.filter fun t => !(cs.any fun c => c.1 == t.1) }
    let q := (q.addE [a, m]).addE [m, b]
    cs.foldl (fun q c => ((q.addE [c.2.2, m]).addT (swapV c.2.1 b m)).addT (swapV c.2.1 a m)) q
  | .flip e =>
    let (a, b) := endsOf (tget p.edges [] e)
    match p.cofacesOf a b with
    | (t, vt, c) :: (t', vt', d) :: _ =>
      let q := { p with edges := tdel p.edges e, tris := tdel (tdel p.tris t) t' }
      ((q.addE [c, d]).addT (swapV vt b d)).addT (swapV vt' a c)
    | _ => p
  | .clps e keepB =>
    let vs := tget p.edges [] e
    let (sv, r) := clpsEnds vs keepB
    let cs := p.cofacesOf sv r
    let gone (f : Nat × List Nat) : Bool := f.1 == e || cs.any fun c => sameSet f.2 [r, c.2.2]
    { p with
      deadV := p.deadV ++ [r]
      edges := (p.edges.filter fun f => !gone f).map fun (f : Nat × List Nat) => (f.1, swapV f.2 r sv)
      tris := (p.tris.filter fun t => !(cs.any fun c => c.1 == t.1)).map fun (t : Nat × List Nat) => (t.1, swapV t.2 r sv) }

/-- The principal cell of an operation about to be applied (R325). -/
def PendCplx.principal (p : PendCplx) (op : RmOp) : Nat :=
  match op with
  | .poke _ _ _ _ => p.nv
  | .split _ _ _ => p.nv
  | .flip _ => p.ne
  | .clps e keepB => (clpsEnds (tget p.edges [] e) keepB).2

/-- The cells an operation touches (R322), removed ones first, as (degree, index). -/
def PendCplx.touched (p : PendCplx) (op : RmOp) : List (Nat × Nat) :=
  let around (e : Nat) : List (Nat × Nat) :=
    let (a, b) := endsOf (tget p.edges [] e)
    (1, e) :: (p.cofacesOf a b).map fun c => (2, c.1)
  match op with
  | .poke t _ _ _ => [(2, t)]
  | .split e _ _ => around e
  | .flip e => around e
  | .clps e keepB =>
    let r := (clpsEnds (tget p.edges [] e) keepB).2
    [(1, e), (0, r)] ++ (around e).drop 1 ++ ((p.edges.filter fun f => f.2.contains r).map fun f => (1, f.1))
      ++ (p.tris.filter fun t => t.2.contains r).map fun t => (2, t.1)

/-- The geometry that `rmflip` and `rmclps` need (reasons 4 and 5 of R324). -/
def PendCplx.geometry (p : PendCplx) (op : RmOp) : Option Nat :=
  match op with
  | .flip e =>
    let (a, b) := endsOf (tget p.edges [] e)
    match p.cofacesOf a b with
    | [(_, _, c), (_, _, d)] => if c = d ∨ (p.edgeOf c d).isSome then some 4 else none
    | _ => some 4
  | .clps e _ =>
    let (a, b) := endsOf (tget p.edges [] e)
    let opp := (p.cofacesOf a b).map fun c => c.2.2
    let near (v : Nat) : List Nat :=
      (p.edges.filterMap fun (f : Nat × List Nat) => if f.2.contains v then f.2.find? fun u => u != v else none)
    if (near a).any fun u => (near b).contains u && !opp.contains u then some 5 else none
  | _ => none

/-- The result of a failed operation (R324). -/
def rmFail (reason : Nat) : Word := wd (2 ^ 63 + reason)

/-- Whether a pending cell is a seam cell: 1 a ghost, 2 an owned cell with records (R311, R322). -/
def seamCell (k : Core) (slot : Nat) (x : Cplx) (c : Nat × Nat) : Option Nat :=
  if nat4 x.own c.1 ≤ c.2 ∧ c.2 < x.cells c.1 then some 1
  else if c.2 < nat4 x.own c.1 ∧ (k.seam.recs.any fun r => r.slot == slot && r.deg == c.1 && r.loc == c.2) then some 2
  else none

/-- The body of a remeshing operation: `parse` gives the operation, or reason 2 or 3, for the pending complex (R322, R324). -/
def rmBody (d slot : Nat) (parse : PendCplx → Except Nat RmOp) (s : State) : Act State := do
  let k := s.core s.cur
  let sl := k.slot slot
  let fail (r : Nat) : Act State := writeS s d 0 fun _ => rmFail r
  let _ ← takePool s d 0
  unitTurn s
  match sl.cur with
  | none => fail 1
  | some x =>
    if x.dim ≠ 2 ∨ !x.simp then fail 1 else
    let p := sl.pend.getD x.pending
    match parse p with
    | .error r => fail r
    | .ok op =>
      match (p.touched op).find? fun c => (seamCell k slot x c).isSome with
      | some c => fault s cSEAMRM ((seamCell k slot x c).getD 0) (wd (c.2 + c.1 * 65536))
      | none =>
        match p.geometry op with
        | some r => fail r
        | none =>
          let q := p.apply op
          let full : Bool := decide (Config.complexBytes < k.storeUsed - sl.store + ({ sl with pend := some q } : Slot).store)
          if 65535 < q.nv ∨ 65535 < q.ne ∨ 65535 < q.nt ∨ full ∨ 1024 ≤ p.ops.length then fail 6
          else writeS (s.putSlot s.cur slot { sl with pend := some q }) d 0 fun _ => wd (p.principal op)

/-- Weights of n 16-bit fields, the rest zero; reason 3 where one is 0 or a bit above is set. -/
def rmWeights (b : Word) (n : Nat) : Except Nat (List Nat) :=
  let ws := (List.range n).map fun i => fld b (16 * i + 15) (16 * i)
  if ws.contains 0 ∨ 2 ^ (16 * n) ≤ b.toNat then .error 3 else .ok ws

/-- A live index: reason 2 otherwise. -/
def rmIndex (t : Table (List Nat)) (a : Word) : Except Nat Nat :=
  if 65535 < a.toNat ∨ (tlook t a.toNat).isNone then .error 2 else .ok a.toNat

/-- `rmpoke`. -/
def execRmpoke (d a b x : Nat) (s : State) : Host.Outcome State Fault Refusal :=
  onward { word := wordRmpoke d a b x, reads := [a, b], writes := [d], ends := true, once := true }
    (fun s => rmBody d x (fun p => do
      let t ← rmIndex p.tris (s.sv a)
      let ws ← rmWeights (s.sv b) 3
      pure (.poke t (at0 ws 0) (at0 ws 1) (at0 ws 2))) s) s
/-- `rmsplit`. -/
def execRmsplit (d a b x : Nat) (s : State) : Host.Outcome State Fault Refusal :=
  onward { word := wordRmsplit d a b x, reads := [a, b], writes := [d], ends := true, once := true }
    (fun s => rmBody d x (fun p => do
      let e ← rmIndex p.edges (s.sv a)
      let ws ← rmWeights (s.sv b) 2
      pure (.split e (at0 ws 0) (at0 ws 1))) s) s
/-- `rmflip`. -/
def execRmflip (d a x : Nat) (s : State) : Host.Outcome State Fault Refusal :=
  onward { word := wordRmflip d a x, reads := [a], writes := [d], ends := true, once := true }
    (fun s => rmBody d x (fun p => do pure (.flip (← rmIndex p.edges (s.sv a)))) s) s
/-- `rmclps`. -/
def execRmclps (d a b x : Nat) (s : State) : Host.Outcome State Fault Refusal :=
  onward { word := wordRmclps d a b x, reads := [a, b], writes := [d], ends := true, once := true }
    (fun s => rmBody d x (fun p => do
      let e ← rmIndex p.edges (s.sv a)
      if 2 ≤ (s.sv b).toNat then .error 3 else pure (.clps e (s.sv b == 1))) s) s

/-! ## Commit (R326) -/

/-- The pending indices of one degree in the order of the new complex: surviving owned cells, new cells, ghosts. -/
def commitOrder (own n next : Nat) (live : Nat → Bool) : List Nat :=
  (List.range own).filter live ++ ((List.range (next - n)).map (n + ·)).filter live ++ (List.range (n - own)).map (own + ·)

/-- The orders of the three degrees. -/
def PendCplx.orders (p : PendCplx) (x : Cplx) : List (List Nat) :=
  [commitOrder (nat4 x.own 0) (x.cells 0) p.nv p.hasV,
   commitOrder (nat4 x.own 1) (x.cells 1) p.ne fun i => (tlook p.edges i).isSome,
   commitOrder (nat4 x.own 2) (x.cells 2) p.nt fun i => (tlook p.tris i).isSome]

/-- New cells in the order of the weight list: degree, index. -/
def PendCplx.newCells (p : PendCplx) (x : Cplx) : List (Nat × Nat) :=
  ((p.orders x).mapIdx fun k o => (o.filter fun i => decide (x.cells k ≤ i)).map fun i => (k, i)).flatten

/-- The place of an index in an order. -/
def placeIn (o : List Nat) (i : Nat) : Nat := o.findIdx fun j => j == i

/-- The faces of a cell from its vertex list, among cells given by their vertex lists (R277). -/
def facesFrom (faces : List (List Nat)) (v : List Nat) : List (Nat × Int) :=
  (List.range v.length).map fun j =>
    let want := dropAt v j
    match findIdx (fun f => sameSet f want) faces 0 with
    | some (i, f) => (i, if (j % 2 == 1) != oddTo f want then (-1 : Int) else 1)
    | none => (0, 1)

/-- The renumbered complex (R326). -/
def PendCplx.commit (p : PendCplx) (x : Cplx) (gen : Nat) (ws : List Nat) : Cplx :=
  let os := p.orders x
  let o (k : Nat) : List Nat := (nth os k).getD []
  let edges := (o 1).map fun e => (tget p.edges [] e).map (placeIn (o 0))
  let tris := (o 2).map fun t => (tget p.tris [] t).map (placeIn (o 0))
  let verts0 := (List.range (o 0).length).map fun v => [v]
  let new := p.newCells x
  let weight (k i : Nat) : Nat :=
    if i < x.cells k then (nth ((nth x.weights k).getD []) i).getD 0 else at0 ws (new.findIdx fun c => c == (k, i))
  let cells := os.map List.length
  { x with
    gen := gen
    own := (List.range 4).map fun k => nat4 cells k - nat4 x.gh k
    len := imageLen 2 true cells x.nf (x.gh.foldl (fun a b => a + b) 0)
    faces := [edges.map (facesFrom verts0), tris.map (facesFrom edges)]
    verts := [edges, tris]
    weights := os.mapIdx fun k l => l.map (weight k) }

/-- Whether a register of some context bound to a slot is pushed (reason 7 of R324). -/
def Core.slotPushed (k : Core) (slot : Nat) : Bool :=
  ((k.ctxs.map fun e => e.2) ++ k.savedParks ++ k.savedCtxs.map fun e => e.2).any fun x =>
    x.status != .free && x.regs.k.any fun e => e.2.defined && e.2.slot == slot && e.2.pushed

/-- Whether a weight is finite and nonzero (R277). -/
def goodWeight (w : Nat) : Bool :=
  match f32.read w with
  | .fin _ n _ => n != 0
  | _ => false

/-- A commit (R326): the new tables, the previous ones with the log, the copy records renumbered. -/
def commitSlot (s : State) (x : Nat) (c : Cplx) (p : PendCplx) (ws : List Nat) : State :=
  let sl := (s.core s.cur).slot x
  let g := nextGen sl.ctr
  let os := p.orders c
  let s := s.putSlot s.cur x
    { sl with ctr := g, cur := some (p.commit c g ws), prev := some c, pend := none, log := some ⟨p.ops, os⟩ }
  s.modCore s.cur fun k =>
    { k with seam := { k.seam with recs := k.seam.recs.map fun (r : CopyRec) =>
      if r.slot = x then { r with loc := placeIn ((nth os r.deg).getD []) r.loc } else r } }

/-- `rmcmit` (R324, R326): the address of the weight list, reason 1, then reasons 9, 7 and 8 in the order of R326, where R324 lists them
as 7, 8, 9 (L48). -/
def execRmcmit (d a x : Nat) (s : State) : Host.Outcome State Fault Refusal :=
  onward { word := wordRmcmit d a x, reads := [a], writes := [d], ends := true, once := true }
    (fun s => do
      let k := s.core s.cur
      let sl := k.slot x
      let fail (r : Nat) : Act State := writeS s d 0 fun _ => rmFail r
      let _ ← takePool s d 0
      unitTurn s
      let n := match sl.cur, sl.pend with
        | some c, some p => (p.newCells c).length
        | _, _ => 0
      let v := s.sv a
      if !isSpad v then faultAt s cBOUNDS 1 v
      if v.toNat % 4 ≠ 0 then faultAt s cALIGN 0 v
      if Config.spadBytes < v.toNat + 4 * n then faultAt s cBOUNDS 1 v
      match sl.cur with
      | none => fail 1
      | some c =>
        if c.dim ≠ 2 ∨ !c.simp then fail 1 else
        match sl.pend with
        | none => fail 9
        | some p =>
          if k.slotPushed x then fail 7 else
          spadWait s false
          let m ← unitRead s [(v.toNat, 4 * n)] true
          let ws := (List.range n).map fun i => mreadNat m (v.toNat + 4 * i) 4
          if !(ws.all goodWeight) then fail 8 else
          writeS (commitSlot s x c p ws) d 0 fun _ => wd (nextGen sl.ctr)) s

/-! ## Transfer (R327 to R329) -/

/-- Rows under transfer: by pending index. -/
abbrev Rows := Table (List KElem)

/-- A combination of rows with integer coefficients over a denominator, rounded once (R328). -/
def mixRows (a : KReg) (mode W : Nat) (terms : List (Int × List KElem)) : List KElem :=
  (List.range (a.chm + 1)).map fun j =>
    let el (r : List KElem) : Nat := ((nth r j).getD ⟨0, 0, false⟩).bits
    if a.fmt = 0 then
      let z := terms.foldl (fun (acc : Int) t => acc + t.1 * sxt 32 (el t.2)) 0
      let (q, ix) := toIntRound mode z W
      ⟨q, if ix then fNX else 0, true⟩
    else
      let ts := terms.map fun t => prodTerm (.fin (t.1 < 0) t.1.natAbs 0) ((kFmt a.fmt).read (el t.2))
      let r := sumRound (kFmt a.fmt) mode (ts.map fun t => t.1) 1 W
      ⟨r.bits, ts.foldl (fun f t => f ||| t.2) r.flags, false⟩

/-- The bx row of a parent less the rows of its other children (R329). -/
def lessRows (parent : List KElem) (others : List (List KElem)) : List KElem :=
  parent.mapIdx fun j e =>
    ⟨others.foldl (fun (z : Int) r => z - sxt 32 ((nth r j).getD ⟨0, 0, false⟩).bits) (sxt 32 e.bits), 0, true⟩

/-- The shares of a parent's row among its children, lowest index first, by weights over W (R328, R329). -/
def shares (a : KReg) (mode W : Nat) (parent : List KElem) (ws : List Nat) : List (List KElem) :=
  if a.fmt = 0 then
    let rest := (ws.drop 1).map fun w => mixRows a rtz W [((w : Int), parent)]
    lessRows parent rest :: rest
  else ws.map fun w => mixRows a mode W [((w : Int), parent)]

/-- The signed row of the edge from one vertex to another. -/
def edgeRow (p : PendCplx) (vals : Rows) (u v : Nat) (c : Int) : List (Int × List KElem) :=
  match p.edgeOf u v with
  | some (e, vs) => [(if vs = [u, v] then c else -c, tget vals [] e)]
  | none => []

/-- List rows for consecutive new indices. -/
def addRows (vals : Rows) (i : Nat) (rows : List (List KElem)) : Rows :=
  (rows.mapIdx fun j r => (i + j, r)).foldl (fun v (e : Nat × List KElem) => tput v e.1 e.2) vals

/-- What one operation does to rows of degree 0. -/
def transfer0 (a : KReg) (mode : Nat) (p : PendCplx) (vals : Rows) (op : RmOp) : Rows :=
  match op with
  | .poke t w0 w1 w2 =>
    tput vals p.nv (mixRows a mode (w0 + w1 + w2)
      (List.zipWith (fun (w : Nat) v => ((w : Int), tget vals [] v)) [w0, w1, w2] (tget p.tris [] t)))
  | .split e wa wb =>
    let (u, v) := endsOf (tget p.edges [] e)
    tput vals p.nv (mixRows a mode (wa + wb) [((wa : Int), tget vals [] u), ((wb : Int), tget vals [] v)])
  | .flip _ => vals
  | .clps e keepB => tdel vals (clpsEnds (tget p.edges [] e) keepB).2

/-- The row of the spoke from vertex `v` of a parent triangle to the new vertex, whose barycentric weights are given by vertex. -/
def spoke (a : KReg) (mode W : Nat) (p : PendCplx) (vals : Rows) (ws : List (Nat × Nat)) (v : Nat) : List KElem :=
  mixRows a mode W ((ws.filter fun e => e.1 != v).map fun e => edgeRow p vals v e.1 e.2).flatten

/-- What one operation does to rows of degree 1. -/
def transfer1 (a : KReg) (mode : Nat) (p : PendCplx) (vals : Rows) (op : RmOp) : Rows :=
  match op with
  | .poke t w0 w1 w2 =>
    let v := tget p.tris [] t
    addRows vals p.ne (v.map (spoke a mode (w0 + w1 + w2) p vals (v.zip [w0, w1, w2])))
  | .split e wa wb =>
    let (u, v) := endsOf (tget p.edges [] e)
    let halves := shares a mode (wa + wb) (tget vals [] e) [wb, wa]
    let spokes := (p.cofacesOf u v).map fun c => spoke a mode (wa + wb) p vals [(u, wa), (v, wb)] c.2.2
    tdel (addRows vals p.ne (halves ++ spokes)) e
  | .flip e =>
    let (u, v) := endsOf (tget p.edges [] e)
    match p.cofacesOf u v with
    | (_, _, c) :: (_, _, d) :: _ =>
      let path (m : Nat) : List (Int × List KElem) := edgeRow p vals c m 1 ++ edgeRow p vals m d 1
      tdel (tput vals p.ne (mixRows a mode 2 (path u ++ path v))) e
    | _ => vals
  | .clps e keepB =>
    let (sv, r) := clpsEnds (tget p.edges [] e) keepB
    let vals' := (p.cofacesOf sv r).foldl (fun (acc : Rows) c =>
      match p.edgeOf sv c.2.2, p.edgeOf r c.2.2 with
      | some (i, vs), some (j, us) =>
        let sign : Int := if swapV us r sv = vs then 1 else -1
        tdel (tput acc i (mixRows a mode 2 [(1, tget acc [] i), (sign, tget acc [] j)])) j
      | _, _ => acc) vals
    tdel vals' e

/-- What one operation does to rows of degree 2. -/
def transfer2 (a : KReg) (mode : Nat) (p : PendCplx) (vals : Rows) (op : RmOp) : Rows :=
  match op with
  | .poke t w0 w1 w2 => tdel (addRows vals p.nt (shares a mode (w0 + w1 + w2) (tget vals [] t) [w0, w1, w2])) t
  | .split e wa wb =>
    let (u, v) := endsOf (tget p.edges [] e)
    let cs := p.cofacesOf u v
    let rows := (cs.map fun c => shares a mode (wa + wb) (tget vals [] c.1) [wb, wa]).flatten
    cs.foldl (fun (acc : Rows) c => tdel acc c.1) (addRows vals p.nt rows)
  | .flip e =>
    let (u, v) := endsOf (tget p.edges [] e)
    match p.cofacesOf u v with
    | (t, _, _) :: (t', _, _) :: _ =>
      let row := mixRows a mode 2 [(1, tget vals [] t), (1, tget vals [] t')]
      tdel (tdel (addRows vals p.nt [row, row]) t) t'
    | _ => vals
  | .clps e keepB =>
    let (sv, r) := clpsEnds (tget p.edges [] e) keepB
    let cs := p.cofacesOf sv r
    let rest := p.tris.filter fun t => !(cs.any fun c => c.1 == t.1)
    let into := cs.filterMap fun c =>
      (match rest.find? fun (t : Nat × List Nat) => t.2.contains r && t.2.contains c.2.2 with
        | some t => some t
        | none => rest.find? fun (t : Nat × List Nat) => t.2.contains sv || t.2.contains r).map fun (t : Nat × List Nat) => (t.1, c.1)
    let sums := (into.map fun e => e.1).eraseDups.foldl (fun (acc : Rows) i =>
      tput acc i (mixRows a mode 1 (((1 : Int), tget vals [] i) ::
        (into.filter fun e => e.1 == i).map fun e => ((1 : Int), tget vals [] e.2)))) vals
    cs.foldl (fun (acc : Rows) c => tdel acc c.1) sums

/-- A replay under way: the rows by pending index, the flags raised, and the elements R297 applied to, by pending index and channel. -/
structure Replayed where
  rows : Rows
  flags : Nat
  excess : List (Nat × Nat)
  deriving DecidableEq, Repr

/-- Rows after an operation, counted in (R328, R329). -/
def Replayed.after (r : Replayed) (v : Rows) : Replayed :=
  { rows := v
    flags := v.foldl (fun f e => e.2.foldl (fun f x => f ||| x.fl) f) r.flags
    excess := r.excess ++ (v.map fun e => (e.2.mapIdx fun j x => (e.1, j, x)).filterMap fun p =>
      if p.2.2.over31 then some (p.1, p.2.1) else none).flatten }

/-- Replay the operation log on rows of a degree; the flags raised on the way are kept (R328). -/
def replay (a : KReg) (mode deg : Nat) : List RmOp → PendCplx → Replayed → Replayed
  | [], _, r => r
  | op :: ops, p, r =>
    let v := match deg with
      | 0 => transfer0 a mode p r.rows op
      | 1 => transfer1 a mode p r.rows op
      | _ => transfer2 a mode p r.rows op
    replay a mode deg ops (p.apply op) (r.after v)

/-- The rows of the new complex after a replay. With kof = 1 an element that R297 applied to on the way makes its cell's element fault; one
whose cell is not in the new complex counts as of the cell after the last (L73). -/
def Replayed.result (r : Replayed) (kof : Bool) (order : List Nat) (chm : Nat) : List (List KElem) :=
  let bad : KElem := bxElem (2 ^ 31 : Nat)
  let mark (i : Nat) (row : List KElem) : List KElem :=
    if kof then row.mapIdx fun j e => if r.excess.contains (i, j) then bad else e else row
  let gone := r.excess.filter fun o => !order.contains o.1
  (order.map fun i => mark i (tget r.rows [] i)) ++
    if kof && !gone.isEmpty then
      [(List.range (chm + 1)).map fun j => if gone.any fun o => o.2 == j then bad else ⟨0, 0, false⟩]
    else []

/-- The checks of `kxfer` (R327): the complexes and the log. -/
def kxferChecks (s : State) (d a : Nat) : Act (Cplx × Cplx × CommitLog) := do
  let k := s.core s.cur
  let kd := s.ctx.kreg d
  let ka := s.ctx.kreg a
  if !ka.defined || !kd.defined then fault s cKTYPE 1
  if k.bindState kd != .live then fault s cSTALE 1 (wd d)
  let sl := k.slot ka.slot
  match sl.prev, sl.log with
  | some old, some log =>
    if k.bindState ka == .dead then fault s cSTALE 1 (wd a)
    if 2 < ka.deg then fault s cKTYPE 2 (wd a)
    if kd.deg ≠ ka.deg then fault s cKTYPE 2 (wd d)
    if kd.fmt ≠ ka.fmt ∨ (ka.fmt = 0 ∧ kd.exp ≠ ka.exp) then fault s cKTYPE 3 (wd d)
    if kd.chm ≠ ka.chm then fault s cKTYPE 4 (wd d)
    if kd.slot ≠ ka.slot then fault s cKTYPE 5 (wd d)
    pure (k.cplxOf kd, old, log)
  | _, _ => fault s cSTALE 1 (wd a)

/-- `kxfer` (R327 to R329, R373). -/
def execKxfer (d a r : Nat) (s : State) : Host.Outcome State Fault Refusal :=
  onward { word := wordKxfer d a r, reads := [kCode a], writes := [kCode d] }
    (fun s => do
      unitTurn s
      let (new, old, log) ← kxferChecks s d a
      let c := s.ctx
      let l := c.lift
      let kd := c.kreg d
      let ka := c.kreg a
      let S := ka.tags
      let T := destTags l S kd.tags
      if kOverlaps l kd new T ka old then fault s cALIAS 0 (wd d)
      kSpan s ka old ka.tags
      kSpan s kd new T true
      seamWait s [a, d]
      spadWait s true
      let m ← unitRead s (kReads s [(ka, old)] d T)
      let n := old.cells ka.deg
      let order := (nth log.map ka.deg).getD []
      let out : Table Replayed := (activeOf l S).map fun i =>
        let rows : Rows := (kRows m ka n (instNumber l ka.tags i)).mapIdx fun j row =>
          (j, row.map fun v => ⟨if ka.fmt = 0 then sxt 32 v else v, 0, false⟩)
        (i, replay ka (roundOf c r) ka.deg log.ops old.pending ⟨rows, 0, []⟩)
      let fl := (out.foldl (fun f e => f ||| e.2.flags) 0) &&& (fOF + fNV + fNX)
      kDeliver s d S kd m (out.map fun e => (e.1, e.2.result (fld c.sp.kmode 0 0 == 1) order ka.chm)) fl) s

end Sys2Proof.Machine
end

