-- ==== Sys2Proof/Machine/Shake.lean ====
section
/-!
DEFINITION. SHAKE256, the extendable-output function of the firmware's hashes and signatures (R429, R430, R437, R439), as FIPS 202
defines it (L81).
-/

namespace Sys2Proof.Machine

/-! ## Keccak-f[1600]: the state is one number, lane i = x + 5 y at bits 64 i and up -/

/-- The state with the given lanes. -/
def kState (f : Nat → Nat) : Nat := (List.range 25).foldr (fun i a => f i + 2 ^ 64 * a) 0

/-- The state whose lanes are all ones where a test holds. -/
def kMask (p : Nat → Bool) : Nat := kState fun i => if p i then 2 ^ 64 - 1 else 0

/-- Every lane of a state of one plane turned left by 1, given the two masks of its high and low bits. -/
def kTurnOne (c : Nat) : Nat :=
  ((c.shiftLeft 1).land (kState fun i => if i < 5 then 2 ^ 64 - 2 else 0)).lor
    ((c.shiftRight 63).land (kState fun i => if i < 5 then 1 else 0))

/-- The parities of the five columns, one plane. -/
def kColumns (a : Nat) : Nat :=
  ((((a.xor (a.shiftRight 320)).xor (a.shiftRight 640)).xor (a.shiftRight 960)).xor (a.shiftRight 1280)).mod (2 ^ 320)

/-- A plane whose lane x is the given plane's lane x + n. -/
def kShift (n c : Nat) : Nat := (c.shiftRight (Nat.mul 64 n)).lor ((c.shiftLeft (Nat.mul 64 (Nat.sub 5 n))).mod (2 ^ 320))

/-- What theta adds to each plane. -/
def kMix (c : Nat) : Nat := (kShift 4 c).xor (kTurnOne (kShift 1 c))

/-- Theta. -/
def kTheta (a : Nat) : Nat := a.xor ((kMix (kColumns a)).mul (kState fun i => if i % 5 = 0 then 1 else 0))

/-- How far rho turns each lane. -/
def kTurns : List Nat := [0, 1, 62, 28, 27, 36, 44, 6, 55, 20, 3, 10, 43, 25, 39, 41, 45, 15, 21, 8, 18, 2, 61, 56, 14]

/-- The lanes whose turn has bit k are turned by 2^k. -/
def kTurnBit (k a : Nat) : Nat :=
  ((a.land (kMask fun i => !bitOf (kTurns.getD i 0) k)).lor
    ((a.shiftLeft (2 ^ k)).land (kState fun i => if bitOf (kTurns.getD i 0) k then 2 ^ 64 - 2 ^ 2 ^ k else 0))).lor
    ((a.shiftRight (64 - 2 ^ k)).land (kState fun i => if bitOf (kTurns.getD i 0) k then 2 ^ 2 ^ k - 1 else 0))

/-- Rho. -/
def kRho (a : Nat) : Nat := kTurnBit 5 (kTurnBit 4 (kTurnBit 3 (kTurnBit 2 (kTurnBit 1 (kTurnBit 0 a)))))

/-- The place to which pi brings lane i = x + 5 y: column y, row 2 x + 3 y. -/
def kPlace (i : Nat) : Nat := i / 5 + 5 * ((2 * (i % 5) + 3 * (i / 5)) % 5)

/-- The lanes that pi brings n places up. -/
def kUp (n a : Nat) : Nat := (a.land (kMask fun i => kPlace i == i + n)).shiftLeft (Nat.mul 64 n)

/-- The lanes that pi brings n places down. -/
def kDown (n a : Nat) : Nat := (a.land (kMask fun i => kPlace i + n == i)).shiftRight (Nat.mul 64 n)

/-- Pi: every lane goes to its place; lanes that go equally far go together. -/
def kPi (a : Nat) : Nat :=
  (((((kUp 0 a).lor (kUp 1 a)).lor (kUp 2 a)).lor (((kUp 3 a).lor (kUp 4 a)).lor (kUp 6 a))).lor ((((kUp 8 a).lor (kUp 9
    a)).lor (kUp 11 a)).lor ((kUp 13 a).lor (kUp 18 a)))).lor (((((kDown 1 a).lor (kDown 3 a)).lor (kDown 4 a)).lor
    ((kDown 5 a).lor (kDown 6 a))).lor ((((kDown 8 a).lor (kDown 10 a)).lor (kDown 13 a)).lor ((kDown 15 a).lor (kDown 20
    a))))

/-- Each row turned: lane x becomes lane x + n of the same row. -/
def kTurnRows (n b : Nat) : Nat :=
  ((b.shiftRight (Nat.mul 64 n)).land (kMask fun i => decide (i % 5 + n < 5))).lor
    ((b.shiftLeft (Nat.mul 64 (Nat.sub 5 n))).land (kMask fun i => !decide (i % 5 + n < 5)))

/-- Chi. -/
def kChi (b : Nat) : Nat := b.xor (((kTurnRows 1 b).xor (2 ^ 1600 - 1)).land (kTurnRows 2 b))

/-- The constants of iota. -/
def kConsts : List Nat :=
  [0x0000000000000001, 0x0000000000008082, 0x800000000000808A, 0x8000000080008000, 0x000000000000808B, 0x0000000080000001,
   0x8000000080008081, 0x8000000000008009, 0x000000000000008A, 0x0000000000000088, 0x0000000080008009, 0x000000008000000A,
   0x000000008000808B, 0x800000000000008B, 0x8000000000008089, 0x8000000000008003, 0x8000000000008002, 0x8000000000000080,
   0x000000000000800A, 0x800000008000000A, 0x8000000080008081, 0x8000000000008080, 0x0000000080000001, 0x8000000080008008]

/-- The rounds with the given constants. -/
def kRounds : List Nat → Nat → Nat
  | [], a => a
  | c :: cs, a => kRounds cs ((kChi (kPi (kRho (kTheta a)))).xor c)

/-- Keccak-f[1600]. -/
def keccak (a : Nat) : Nat := kRounds kConsts a

/-! ## The sponge: byte strings are little-endian numbers -/

/-- Absorb blocks of 136 bytes into a state. -/
def absorb : Nat → Nat → Nat → Nat
  | 0, a, _ => a
  | n + 1, a, x => absorb n (keccak (a.xor (x.mod (2 ^ 1088)))) (x.shiftRight 1088)

/-- The first 32 bytes of SHAKE256 of a string of n bytes, as a number in memory order. -/
def shakeNat (n x : Nat) : Nat :=
  (absorb (n / 136 + 1) 0 (x + 0x1F * 2 ^ (8 * n) + 2 ^ (1088 * (n / 136 + 1) - 1))).mod (2 ^ 256)

/-- SHAKE256-256 of a byte string (R439). -/
def shake256 (bs : List Byte) : BitVec 256 := BitVec.ofNat 256 (shakeNat bs.length (leNat bs))

end Sys2Proof.Machine
end

