-- ==== Sys2Proof/Machine/Xmss.lean ====
section
/-!
DEFINITION. XMSS-SHAKE256_20_256, the signature of the firmware image (R430), as NIST SP 800-208 and RFC 8391 define it (L82): the
verification only. Values of 32 bytes are numbers in memory order.
-/

namespace Sys2Proof.Machine

/-- Four bytes, most significant first. -/
def beWord (w : Nat) : Nat := w / 2 ^ 24 % 256 + 2 ^ 8 * (w / 2 ^ 16 % 256) + 2 ^ 16 * (w / 2 ^ 8 % 256) + 2 ^ 24 * (w % 256)

/-- A hash address: layer and tree 0, the type, three words of the type, and the key and mask word. -/
def hashAdrs (ty a b c k : Nat) : Nat :=
  beWord ty * 2 ^ 96 + beWord a * 2 ^ 128 + beWord b * 2 ^ 160 + beWord c * 2 ^ 192 + beWord k * 2 ^ 224

/-- A keyed hash: the function's number in 32 bytes, the key, the message of n bytes. -/
def keyedHash (f key n m : Nat) : Nat := shakeNat (64 + n) (f * 2 ^ 248 + key * 2 ^ 256 + m * 2 ^ 512)

/-- The pseudo-random function of a seed and an address. -/
def xPrf (seed adrs : Nat) : Nat := keyedHash 3 seed 32 adrs

/-- One step of a chain: F under the key and mask of its address. -/
def chainStep (seed leaf chain pos x : Nat) : Nat :=
  keyedHash 0 (xPrf seed (hashAdrs 0 leaf chain pos 0)) 32 (x.xor (xPrf seed (hashAdrs 0 leaf chain pos 1)))

/-- `n` steps of a chain from a position. -/
def chainFrom (seed leaf chain : Nat) : Nat → Nat → Nat → Nat
  | 0, _, x => x
  | n + 1, pos, x => chainFrom seed leaf chain n (pos + 1) (chainStep seed leaf chain pos x)

/-- The hash of two nodes: H under the key and the two masks of an address of type ty. -/
def nodeHash (seed ty a height index l r : Nat) : Nat :=
  keyedHash 1 (xPrf seed (hashAdrs ty a height index 0)) 64
    (l.xor (xPrf seed (hashAdrs ty a height index 1)) + 2 ^ 256 * (r.xor (xPrf seed (hashAdrs ty a height index 2))))

/-- The base-16 digits of the digest: 64, high half of each byte first, and three of the checksum. -/
def chainDigits (digest : Nat) : List Nat :=
  let ds := (List.range 64).map fun i => digest / 2 ^ (8 * (i / 2) + 4 * (1 - i % 2)) % 16
  let sum := ds.foldl (fun n d => n + (15 - d)) 0
  ds ++ [sum / 256 % 16, sum / 16 % 16, sum % 16]

/-- The ends of the chains, from chain k on: each signature value taken on from its digit to 15. -/
def chainEnds (seed leaf : Nat) : Nat → List Nat → List Nat → List Nat
  | k, d :: ds, x :: xs => chainFrom seed leaf k (15 - d) d x :: chainEnds seed leaf (k + 1) ds xs
  | _, _, _ => []

/-- One level of the L-tree: pairs are hashed, an odd last node moves up. -/
def leafLevel (seed leaf height : Nat) : Nat → List Nat → List Nat
  | i, l :: r :: rest => nodeHash seed 1 leaf height i l r :: leafLevel seed leaf height (i + 1) rest
  | _, rest => rest

/-- The leaf of a one-time key: seven levels over its 67 chain ends. -/
def leafOf (seed leaf : Nat) (ends : List Nat) : Nat :=
  ((List.range 7).foldl (fun xs h => leafLevel seed leaf h 0 xs) ends).headD 0

/-- The root that an authentication path gives, from a height on. -/
def pathRoot (seed leaf : Nat) : Nat → List Nat → Nat → Nat
  | _, [], x => x
  | h, p :: ps, x =>
    let i := leaf / 2 ^ (h + 1)
    pathRoot seed leaf (h + 1) ps (if bitOf leaf h then nodeHash seed 2 0 h i p x else nodeHash seed 2 0 h i x p)

/-- Bytes cut out of a string. -/
def cut (bs : List Byte) (a n : Nat) : List Byte := (bs.drop a).take n

/-- Values of 32 bytes in a row. -/
def values32 (bs : List Byte) (a n : Nat) : List Nat := (List.range n).map fun i => leNat (cut bs (a + 32 * i) 32)

/-- The digest that is signed: H_msg of the randomiser, the root, the index in 32 bytes and the message. -/
def signedDigest (r root leaf : Nat) (m : List Byte) : Nat :=
  shakeNat (128 + m.length) (2 * 2 ^ 248 + r * 2 ^ 256 + root * 2 ^ 512 + beWord leaf * 2 ^ (768 + 224) + leNat m * 2 ^ 1024)

/-- Whether a signature of 2,820 bytes over a message verifies under a public key: its object identifier, root and seed. -/
def xmssVerifies (key sig m : List Byte) : Bool :=
  let root := leNat (cut key 4 32)
  let seed := leNat (cut key 36 32)
  let leaf := beWord (leNat (cut sig 0 4))
  let ds := chainDigits (signedDigest (leNat (cut sig 4 32)) root leaf m)
  let x := leafOf seed leaf (chainEnds seed leaf 0 ds (values32 sig 36 67))
  sig.length == 2820 && key.length == 68 && beWord (leNat (cut key 0 4)) == 0x12
    && pathRoot seed leaf 0 (values32 sig 2180 20) x == root

end Sys2Proof.Machine
end

