-- ==== Sys2Proof/Machine/Device.lean ====
section
/-!
DEFINITION. The device as the host and the board drive it: staged start, firmware, power states and thermal events, resets, host
messages, virtual functions, attestation quotes (R11, R12, R153, R200, R425 to R439).
-/

namespace Sys2Proof.Machine

/-- Change the power part of a die. -/
def State.modPw (s : State) (d : Nat) (f : DiePower → DiePower) : State := s.modDie d fun x => { x with pw := f x.pw }

/-! ## Staged start (R425, R426) -/

/-- A port as a start loads it: its kind from the port-mode register, untrained. -/
def freshPort (mode : BitVec 16) (p : Nat) : Port := { ue := bitOf mode.toNat p }

/-- A die starts from level 1, with the firmware accepted: its ports take their kinds; a stack that KEEP has kept up stays up. -/
def State.startDie (s : State) (d : Nat) (keep : Bool) : State :=
  let mode := s.fw.portMode
  (s.modDie d fun x =>
    { x with pw := { x.pw with level := 1, state := .run, stopped := false, trans := none, calibrated := false,
                               memUp := if keep then x.pw.memUp else true, trained := keep && x.pw.trained,
                               stackFailed := keep && x.pw.stackFailed }
             port0 := freshPort mode (2 * d), port1 := freshPort mode (2 * d + 1) }).pfEvent (.level d 1)

/-- The public key an image carries (R430). -/
def Firmware.keyOf (fw : Firmware) (img : List Byte) : List Byte := cut img fw.layout.key 68

/-- The security version of an image (R430). -/
def Firmware.versionOf (fw : Firmware) (img : List Byte) : Nat := leNat (cut img fw.layout.version 2)

/-- The signature of an image, and the bytes it signs: all the others (R430, L67). -/
def Firmware.sigOf (fw : Firmware) (img : List Byte) : List Byte × List Byte :=
  (cut img fw.layout.sig 2820, img.take fw.layout.sig ++ img.drop (fw.layout.sig + 2820))

/-- Whether an image has a length that the window holds and that holds its own fields (R431, L67). -/
def Firmware.fits (fw : Firmware) (n : Nat) : Bool :=
  decide (n ≤ 2 ^ 26) && decide (fw.layout.version + 2 ≤ n) && decide (fw.layout.key + 68 ≤ n) && decide (fw.layout.sig + 2820 ≤ n)

/-- Why the boot ROM refuses an image (R430, R431): a length that does not hold the fields first, then signature, key and version (L67). -/
def imageFault (fw : Firmware) (img : List Byte) : Option Nat :=
  if !fw.fits img.length then some 4
  else if !xmssVerifies (fw.keyOf img) (fw.sigOf img).1 (fw.sigOf img).2 then some 1
  else if shake256 (fw.keyOf img) ≠ fw.romKey then some 2
  else if fw.versionOf img < fw.fused then some 3
  else none

/-- The package enters recovery (R431): the status register holds the reason, the die waits. -/
def State.recover (s : State) (die r : Nat) : State :=
  { s with fw := { s.fw with recovery := true, status := r, waiting := addOnce s.fw.waiting die } }.pfEvent (.recovery r)

/-- Power-good on a die: the boot ROM checks the package's one image (R429, R430), which the first power-good names (L67); a refusal
enters recovery, in which the die waits. A package that runs a recovered image starts the die with that one (R431, L30). -/
def execPowerGood (die : Nat) (img : List Byte) (s : State) : Host.Outcome State Fault Refusal :=
  let p := (s.die die).pw
  let img := s.fw.stored.getD img
  if 8 ≤ die || p.level ≠ 0 || p.state ≠ .run || s.fw.waiting.contains die then .next s
  else if s.fw.recovery then .next { s with fw := { s.fw with waiting := addOnce s.fw.waiting die } }
  else if s.fw.recovered then .next (s.startDie die false)
  else
    match imageFault s.fw img with
    | none => .next ({ s with fw := { s.fw with stored := some img, image := some img } }.startDie die false)
    | some r => .next ({ s with fw := { s.fw with stored := some img } }.recover die r)

/-- The recovery doorbell: the image of the given length that the host has written into the window is checked by R430 and loaded;
nothing non-volatile is written (R431). -/
def execRecoveryDoorbell (length : Nat) (s : State) : Host.Outcome State Fault Refusal :=
  if !s.fw.recovery then .next s
  else
    let img := mread s.fw.window 0 (min length (2 ^ 26 + 1))
    match imageFault s.fw img with
    | some r => .next ({ s with fw := { s.fw with status := r } }.pfEvent (.recovery r))
    | none =>
      let ds := s.fw.waiting
      let s := { s with fw := { s.fw with status := 0, image := some img, recovered := true, recovery := false, waiting := [] } }
      .next (ds.foldl (fun s d => s.startDie d false) s)

/-- The stack trains: level 2 (R425). -/
def execStackTrained (die : Nat) (s : State) : Host.Outcome State Fault Refusal :=
  let p := (s.die die).pw
  if p.level ≠ 1 || p.state ≠ .run || p.stackFailed then .next s
  else .next ((s.modPw die fun p => { p with level := 2, trained := true }).pfEvent (.level die 2))

/-- The stack has not trained in time: it has failed (R425). -/
def execStackTrainTimeout (die : Nat) (s : State) : Host.Outcome State Fault Refusal :=
  let p := (s.die die).pw
  if p.level ≠ 1 || p.state ≠ .run || p.stackFailed then .next s
  else .next ((s.modPw die fun p => { p with stackFailed := true, trained := false }).pfEvent (.stackFailed die))

/-- Whether a port has trained or failed training. -/
def Port.settled (q : Port) : Bool := q.trained || q.failed

/-- Level 3 once the matrix units are calibrated and both ports have trained or failed (R425). -/
def State.climb (s : State) (d : Nat) : State :=
  let x := s.die d
  if x.pw.level = 2 ∧ x.pw.calibrated ∧ x.port0.settled ∧ x.port1.settled then
    (s.modPw d fun p => { p with level := 3 }).pfEvent (.level d 3)
  else s

/-- The matrix units finish calibration. -/
def execMatrixCalibrated (die : Nat) (s : State) : Host.Outcome State Fault Refusal :=
  let p := (s.die die).pw
  if p.level ≠ 2 || p.state ≠ .run then .next s
  else .next ((s.modPw die fun p => { p with calibrated := true }).climb die)

/-- A port finishes or fails training; a trained Lace port has the credits its peer advertises (R417). -/
def execPortTrainingDone (port : Nat) (ok : Bool) (s : State) : Host.Outcome State Fault Refusal :=
  let p := (s.die (port / 2)).pw
  if 16 ≤ port || p.level ≠ 2 || p.state ≠ .run || (s.portAt port).settled then .next s
  else
    .next ((s.modPort port fun q =>
      if ok then { ue := q.ue, trained := true, credits := (List.range 3).map (Config.advertised port) }
      else { q with failed := true }).climb (port / 2))

/-! ## What a shut-down or a reset takes along -/

/-- The ledger entry of writes an operation carries. -/
def RemoteOp.wid : RemoteOp → Nat
  | .put _ _ _ w => w
  | .amo _ _ _ _ _ _ _ w => w
  | .swadd _ _ _ w => w
  | .jset _ _ _ _ => 0
  | .arrive _ _ _ w => w
  | .fabPut _ _ _ => 0
  | .fabRaise _ _ _ _ => 0
  | .fabAmo _ _ _ _ _ => 0
  | .fabGet _ _ _ => 0

/-- The ledger entry of writes an item of traffic carries. -/
def Body.wid : Body → Nat
  | .remote op => op.wid
  | .write _ _ w => w
  | .amo _ _ _ _ _ _ _ w => w
  | .reply _ _ _ _ _ _ w => w
  | .ack w _ => w
  | .copyRec _ _ _ w => w
  | .withdraw _ _ _ w => w
  | .seam r => r.wid
  | _ => 0

/-- The ledger entries that something still carries. -/
def State.carried (s : State) : List Nat :=
  s.net.map (fun f => f.body.wid)
    ++ (s.cores.map fun c => c.2.q.ropq.map RemoteOp.wid ++ (c.2.seam.out ++ c.2.seam.resend ++ c.2.seam.early).map SeamRow.wid).flatten
    ++ (s.dies.map fun d => (d.2.jobs.map fun (j : Job) => (List.range j.entries).map (j.wid + ·)).flatten).flatten
    ++ (s.octets.map fun o => (o.2.members.map fun m => m.2.queue.map fun e => match e.cmd with
        | .mst _ _ w => w
        | _ => 0).flatten).flatten

/-- Writes of the given cores that nothing carries any more leave the ledger. -/
def State.dropUncarried (s : State) (mine : Nat → Bool) : State :=
  let live := s.carried
  { s with writes := s.writes.filter fun (w : Nat × WriteRec) => !mine w.2.own.core || live.contains w.1 }

/-- What a core's port answers for the core when the core loses its queues (R153): remote operations as at a core that is not
running; raises and firings are lost and counted. -/
def flushCore (s : State) (c : Nat) : State :=
  let q := (s.core c).q
  let s := q.ropq.foldl (fun s op => downOp s c op) s
  let lost := q.raises.length + q.joinq.length + q.fires.foldl (fun n f => n + f.left) 0
  s.modDie (dieOf c) fun d => { d with tele := { d.tele with discardedLandings := d.tele.discardedLandings + lost } }

/-- The launches whose activations a core carries. -/
def Core.launchesOf (k : Core) : List Nat :=
  (k.ctxs.filterMap fun e => if e.2.status == .free then none else e.2.id.launch)
    ++ (k.savedParks.filterMap fun x => x.id.launch) ++ (k.savedCtxs.filterMap fun e => e.2.id.launch)

/-- Nodes placed on cores that are lost: their activations are gone, so that they never complete. -/
def cutNodes (mine : Nat → Bool) (d : Die) : Die :=
  { d with nodes := d.nodes.map fun (n : Nat × Node) =>
      (n.1, if mine n.2.core && (n.2.state == NodeState.bound || n.2.state == NodeState.running) then
              { n.2 with state := .done, completing := none, marks := none } else n.2) }

/-- The launches that have an unfinished node in a die's node SRAM or on given cores. -/
def State.launchesOn (s : State) (die : Option Nat) (mine : Nat → Bool) : List Nat :=
  (s.dies.map fun d => d.2.nodes.filterMap fun n =>
    if n.2.state != NodeState.done && (die == some d.1
        || (mine n.2.core && (n.2.state == NodeState.bound || n.2.state == NodeState.running)))
    then n.2.launch else none).flatten

/-- Launches that lost an unfinished node are never complete. -/
def State.breakLaunches (s : State) (ls : List Nat) : State :=
  { s with launches := s.launches.map fun (l : Nat × Launch) =>
      (l.1, if ls.contains l.1 then { l.2 with broken := true } else l.2) }

/-! ## Core reset (R124, R153, R234, R258, R274) -/

/-- A core is held in reset: everything it holds returns to its reset value, its matrix member and the bank set it held too. -/
def execCoreReset (c : Nat) (s : State) : Host.Outcome State Fault Refusal :=
  if 2048 ≤ c then .next s
  else
    let ls := (s.core c).launchesOf
    let s := s.breakLaunches (s.launchesOn none fun x => x == c)
    let s := { s with dies := s.dies.map fun (d : Nat × Die) => (d.1, cutNodes (fun x => x == c) d.2) }
    let s := (flushCore s c).setCore c { inReset := true }
    let free (b : BankSet) : BankSet := if b.member = some (memberOf c) then {} else b
    let s := s.modOctet (octetOf c) fun o =>
      { o with members := tput o.members (memberOf c) {}, set0 := free o.set0, set1 := free o.set1 }
    .next (ls.foldl (fun s l => s.checkAborted (some l)) (s.dropUncarried fun x => x == c))

/-- A core held in reset is released: it is running again where its die is in RUN (R153). -/
def execCoreResetRelease (c : Nat) (s : State) : Host.Outcome State Fault Refusal :=
  .next (s.modCore c fun k => { k with inReset := false })

/-! ## Power (R435) -/

/-- A power command while a transition of the die is under way, or from a state it cannot start from, is answered busy. -/
def State.busy (s : State) (d : Nat) : State := s.pfEvent (.busy d)

/-- Begin a transition. -/
def State.beginTransition (s : State) (d : Nat) (goal : Power) (clk : Clock) : State :=
  s.modPw d fun p => { p with trans := some ⟨goal, clk, goal == .run⟩, stopped := p.stopped || goal != .run }

/-- RUN from any state, or another RUN clock (R435). -/
def execRunClockCommand (die : Nat) (clk : Clock) (s : State) : Host.Outcome State Fault Refusal :=
  if (s.die die).pw.trans.isSome then .next (s.busy die) else .next (s.beginTransition die .run clk)

/-- HOLD, from RUN. -/
def execHoldCommand (die : Nat) (s : State) : Host.Outcome State Fault Refusal :=
  let p := (s.die die).pw
  if p.trans.isSome || p.state != .run then .next (s.busy die) else .next (s.beginTransition die .hold p.clk)

/-- Whether a node is bound or running on a die. -/
def State.nodesBusy (s : State) (d : Nat) : Bool :=
  s.dies.any fun x => x.2.nodes.any fun n =>
    dieOf n.2.core == d && (n.2.state == NodeState.bound || n.2.state == NodeState.running)

/-- KEEP, from RUN, only while no node is bound or running on the die. -/
def execKeepCommand (die : Nat) (s : State) : Host.Outcome State Fault Refusal :=
  let p := (s.die die).pw
  if p.trans.isSome || p.state != .run || s.nodesBusy die then .next (s.busy die)
  else .next (s.beginTransition die .keep p.clk)

/-- OFF, from RUN, HOLD or KEEP. -/
def execOffCommand (die : Nat) (s : State) : Host.Outcome State Fault Refusal :=
  let p := (s.die die).pw
  if p.trans.isSome || p.state == .off then .next (s.busy die) else .next (s.beginTransition die .off p.clk)

/-- The self-refresh of a stack (R435). -/
def execStackSelfRefreshCommand (die : Nat) (on : Bool) (s : State) : Host.Outcome State Fault Refusal :=
  .next (s.modPw die fun p => { p with selfRefresh := on })

/-- Whether everything that the cores of a die issued has returned or been acknowledged (R435). -/
def State.drained (s : State) (d : Nat) : Bool :=
  (s.reads.all fun r => dieOf r.2.core != d) && (s.mgets.all fun r => dieOf r.2.own.core != d)
    && (s.writes.all fun w => dieOf w.2.own.core != d) && (s.die d).jobs.isEmpty
    && (s.dies.all fun x => x.2.flows.all fun f => dieOf f.2.core != d || f.2.ops.isEmpty)
    && (s.cores.all fun c => dieOf c.1 != d || c.2.q.ropq.all fun op => op.wid != 0 || match op with
        | .jset _ _ _ _ => false
        | _ => true)
    && (s.net.all fun f => match f.body with
        | .remote op => !(dieOf f.src == d && f.src < 4096 && !op.isArrive)
        | .amo _ _ _ _ own _ _ _ => dieOf own.core != d
        | _ => true)

/-- The drain of a die is over: its transition may finish (R435). -/
def execDieDrainDone (die : Nat) (s : State) : Host.Outcome State Fault Refusal :=
  match (s.die die).pw.trans with
  | some t =>
    if t.drained || !s.drained die then .next s
    else .next (s.modPw die fun p => { p with trans := some { t with drained := true } })
  | none => .next s

/-- A core whose die enters KEEP: scratchpad and complex store stay. -/
def Core.kept (k : Core) : Core := { spad := k.spad, slots := k.slots, inReset := k.inReset }

/-- Packets of other packages' flows that wait at a die's ports are lost with them. -/
def TargetFlow.lost (d : Nat) (f : TargetFlow) : TargetFlow :=
  let there (p : FabPacket) : Bool := p.port / 2 == d
  { f with waiting := f.waiting.filter fun p => !there p, flagged := f.flagged.filter fun p => !there p }

/-- A die loses what KEEP or OFF does not keep, die 0 with it the buffer of held ring entries. Its causal clock and count, and the markers
it has received, stand until package reset (R224); what its ports to the die network still owe is answered. -/
def State.shutDie (s : State) (d : Nat) (keep : Bool) : State :=
  let mine (c : Nat) : Bool := dieOf c == d
  let cs := (s.cores.map fun e => e.1).filter mine
  let ls := (cs.map fun c => (s.core c).launchesOf).flatten
  let s := s.breakLaunches (s.launchesOn (some d) mine)
  let s := { s with dies := s.dies.map fun (x : Nat × Die) => (x.1, cutNodes mine x.2) }
  let s := cs.foldl flushCore s
  let s := { s with
    cores := s.cores.map fun (e : Nat × Core) =>
      (e.1, if mine e.1 then (if keep then e.2.kept else { inReset := e.2.inReset }) else e.2)
    octets := s.octets.filter fun o => o.1 / 32 != d
    targets := s.targets.map fun (f : Nat × TargetFlow) => (f.1, f.2.lost d)
    host := if d = 0 then { s.host with heldEntries := [], pfHeld := [] } else s.host }
  let s := s.modDie d fun x =>
    { pw := { x.pw with level := 0, state := if keep then .keep else .off, trans := none, stopped := true, calibrated := false,
                        trained := keep && x.pw.trained, stackFailed := keep && x.pw.stackFailed, memUp := keep && x.pw.memUp,
                        selfRefresh := keep && x.pw.selfRefresh, cycle := 0 }
      outCount := x.outCount, clock := x.clock, waiting := x.waiting, nextJob := x.nextJob, tele := x.tele, answers := x.answers
      port0 := { ue := x.port0.ue }, port1 := { ue := x.port1.ue } }
  let s := if keep then s else
    { s with hbm := s.hbm.filter fun (e : Nat × Byte) => e.1 / 2 ^ 36 != d, poison := s.poison.filter fun g => g / 2 ^ 30 != d }
  ls.foldl (fun s l => s.checkAborted (some l)) (s.dropUncarried mine)

/-- A transition finishes (R435): from then on commands are no longer answered busy. Leaving KEEP or OFF starts the die from
level 1, once an image is accepted. -/
def execPowerTransitionDone (die : Nat) (s : State) : Host.Outcome State Fault Refusal :=
  let p := (s.die die).pw
  match p.trans with
  | none => .next s
  | some t =>
    if !t.drained then .next s
    else
      match t.goal with
      | .hold => .next (s.modPw die fun p => { p with state := .hold, trans := none })
      | .keep => .next (s.shutDie die true)
      | .off => .next (s.shutDie die false)
      | .run =>
        let s := s.modPw die fun p => { p with state := .run, clk := t.clk, trans := none, stopped := false }
        if p.state == .keep || p.state == .off then
          (if s.fw.image.isSome then .next (s.startDie die (p.state == .keep)) else .next s)
        else .next s

/-! ## Thermal events (R436) -/

/-- 95 °C: an event, nothing else. -/
def execThermalWarning (die : Nat) (s : State) : Host.Outcome State Fault Refusal := .next (s.pfEvent (.thermal die 0))

/-- 105 °C: an event, nothing else. -/
def execThermalAlert (die : Nat) (s : State) : Host.Outcome State Fault Refusal := .next (s.pfEvent (.thermal die 1))

/-- Whether a node has been placed on a core (R167). -/
def Node.placed (n : Node) : Bool := n.state != NodeState.pending && n.state != NodeState.ready

/-- The launches that have a node on a die, in its node SRAM or placed on one of its cores, finished or not. -/
def State.launchesWithNode (s : State) (d : Nat) : List Nat :=
  (s.dies.map fun x => x.2.nodes.filterMap fun n =>
    if x.1 = d ∨ n.2.placed ∧ dieOf n.2.core = d then n.2.launch else none).flatten

/-- 115 °C: the die trips into OFF; launches with a node on it are aborted; a command under way is answered busy (R436). -/
def execThermalTrip (die : Nat) (s : State) : Host.Outcome State Fault Refusal :=
  let ls := s.launchesWithNode die
  let s := if (s.die die).pw.trans.isSome then s.busy die else s
  let s := ls.foldl State.abortLaunch s
  let s := s.shutDie die false
  .next (ls.foldl (fun s l => s.checkAborted (some l)) s)

/-! ## Package reset and power loss (R224, R426, R438) -/

/-- What survives a loss of power: the non-volatile store, and what is made into the package. -/
def Firmware.nonVolatile (f : Firmware) : Firmware :=
  { portMode := f.portMode, pkg := f.pkg, romKey := f.romKey, fused := f.fused, layout := f.layout, stored := f.stored
    attest := f.attest }

/-- Package reset: every die's count and clock, and all else, at its reset value; the non-volatile state and the host's memory
stand. -/
def execPackageReset (s : State) : Host.Outcome State Fault Refusal :=
  .next { State.reset with agenda := s.agenda, serial := s.serial, host := s.host, fw := s.fw.nonVolatile }

/-- The host's side after a loss of the package's power: the entries held on die 0 and the device's registers are lost. -/
def HostSide.powerLost (h : HostSide) : HostSide :=
  let reset (e : Nat × Ring) : Nat × Ring := (e.1, { e.2 with count := 64 })
  { h with heldEntries := [], pfHeld := [], regs := [], bases := [], commandCounts := [], traceCounts := [], pfCount := 64
           events := h.events.map reset, replies := h.replies.map reset }

/-- Power loss: all volatile state of the package is lost (R438). -/
def execPowerLoss (s : State) : Host.Outcome State Fault Refusal :=
  .next { State.reset with agenda := s.agenda, serial := s.serial, fw := s.fw.nonVolatile, host := s.host.powerLost }

/-! ## The host port (R11, R432, R433) -/

/-- A message of a command ring travels from die 0's port to its core. -/
def execHostMessage (m : HostMsg) (s : State) : Host.Outcome State Fault Refusal :=
  match s.takeCommand (.msg m), s.enumerated m.vf with
  | some s, some v =>
    if 240 ≤ m.type || 2 ^ 24 ≤ m.tag || 6 < m.words.length || !inQuads v m.core then .next s
    else
      let x : Msg := { type := m.type, tag := m.tag, words := m.words, vec := m.vec, src := 0x10000, dst := m.core, vf := m.vf }
      .next (s.post ⟨0, hostNode, m.core, .msg x⟩)
  | _, _ => .next s

/-- The fabric tables of a virtual function hold 1,024 peers, 8 paths and 256 windows, with ports 0 to 15 (R399). -/
def tablesOk (v : VfSpec) : Bool :=
  (v.peers.all fun e => decide (e.1 < 1024))
    && (v.paths.all fun e => decide (e.1 < 8) && decide (e.2.port < 16) && decide (e.2.entropy < 65536))
    && v.windows.all fun e => decide (e.1 < 256)

/-- The host creates a virtual function on quads that no other has (R15, R432). -/
def execVfCreate (v : VfSpec) (s : State) : Host.Outcome State Fault Refusal :=
  let taken := s.vfs.any fun w => v.quads.any fun q => w.2.quads.contains q
  if s.fw.recovery || 384 ≤ v.vf || (tlook s.vfs v.vf).isSome || !tablesOk v || taken || v.quads.isEmpty || v.quads.any (fun q => 512 ≤ q) then .next s
  else
    let x : Vf :=
      { quads := v.quads, root := v.root, key := v.key, ws := v.ws, peers := v.peers, paths := v.paths, windows := v.windows }
    .next { s with vfs := tput s.vfs v.vf x }

/-- Whether an entry count is a power of two from 64 to 65,536 (R433). -/
def ringCountOk (v : Nat) : Bool := (List.range 11).any fun i => v == 64 * 2 ^ i

/-- The place of a ring's base: four rings of each virtual function, then the physical function's. -/
def ringKey (vf ring : Nat) : Nat := if ring = 4 then 4 else vf * 8 + ring

/-- The base of a ring: 0 command, 1 reply, 2 event, 3 trace, 4 the physical function's; there are no others. -/
def setBase (s : State) (vf ring v : Nat) : State :=
  if 4 < ring then s else { s with host := { s.host with bases := tput s.host.bases (ringKey vf ring) v } }

/-- The entry count of a ring; other counts are ignored. A ring that grows takes the entries held for it first (R433). -/
def setCount (s : State) (vf ring v : Nat) : State :=
  if !ringCountOk v then s else
  let h := s.host
  match ring with
  | 0 => { s with host := { h with commandCounts := tput h.commandCounts vf v } }
  | 1 => { s with host := { h with replies := tmod h.replies {} vf fun r => { r with count := v } } }.refillRings
  | 2 => { s with host := { h with events := tmod h.events {} vf fun r => { r with count := v } } }.refillRings
  | 3 => { s with host := { h with traceCounts := tput h.traceCounts vf v } }
  | 4 => { s with host := { h with pfCount := v } }.refillRings
  | _ => s

/-- A host write to a register of the physical function (R433, R434). -/
def execRegisterWrite (r : PfReg) (v : Nat) (s : State) : Host.Outcome State Fault Refusal :=
  match r with
  | .ringBase vf ring => .next (setBase s vf ring v)
  | .ringCount vf ring => .next (setCount s vf ring v)
  | .traceEnable vf =>
    (match s.enumerated vf with
     | some x => .next { s with vfs := tput s.vfs vf { x with trace := bitOf v 0 } }
     | none => .next s)
  | .debugEnable vf =>
    (match s.enumerated vf with
     | some x => .next { s with vfs := tput s.vfs vf { x with debug := bitOf v 0 } }
     | none => .next s)
  | .other n => .next { s with host := { s.host with regs := tput s.host.regs n v } }

/-- The port-mode register, kept in non-volatile storage; a die's ports take it when it next starts from level 1 (R426). -/
def execPortModeWrite (v : BitVec 16) (s : State) : Host.Outcome State Fault Refusal :=
  .next { s with fw := { s.fw with portMode := v } }

/-! ## Attestation (R437 to R439) -/

/-- The bytes of a quote before its signature (R439); the signature index used is the counter before the commit. -/
def quoteBytes (s : State) (who : Nat) (nonce : BitVec 256) (img : List Byte) : List Byte :=
  [0x4B, 0x51, 0x54, 0x31] ++ leBytes 32 nonce.toNat ++ leBytes 32 (shake256 img).toNat ++ leBytes 2 (s.fw.versionOf img) ++ leBytes 2 s.fw.fused
    ++ leBytes 2 (s.fw.pkg % 1024) ++ leBytes 2 who
    ++ ((List.range 8).map fun d => (leBytes 1 (s.die d).pw.level)).flatten ++ [if s.fw.recovered then 1 else 0] ++ [0, 0, 0]
    ++ leBytes 8 s.fw.attest

/-- A signature (R437, R438): the index used in 5 bytes, the randomiser, and four layers of 67 chains and 10 path nodes, which depend on
the vendor's secret key (L13). -/
def quoteSignature (i : Nat) (q : List Byte) : List Byte :=
  leBytes 5 i ++ leBytes 32 (Config.quoteRandomiser i q).toNat
    ++ ((List.range 4).map fun l => ((List.range 67).map fun k => leBytes 32 (Config.quoteChain i q l k).toNat).flatten
      ++ ((List.range 10).map fun k => leBytes 32 (Config.quotePath i q l k).toNat).flatten).flatten

/-- The firmware commits the next signature index, then signs (R438); an exhausted counter answers status 2. -/
def execAttestationQuote (who : Nat) (nonce : BitVec 256) (s : State) : Host.Outcome State Fault Refusal :=
  let p := (s.die 0).pw
  match s.fw.image with
  | some img =>
    if p.level = 0 || p.state ≠ .run || !(who == 0xFFFF || (s.enumerated who).isSome) then .next s
    else if 2 ^ 40 ≤ s.fw.attest then .next (s.pfEvent (.quoteRefused 2))
    else
      let q := quoteBytes s who nonce img
      let i := s.fw.attest
      let s := { s with fw := { s.fw with attest := i + 1 } }
      .next (s.pfEvent (.quote (q ++ quoteSignature i q)))
  | none => .next s

end Sys2Proof.Machine
end

