-- ==== Sys2Proof/Machine/Hints.lean ====
section
/-!
DEFINITION. Major 0x01: the scheduling hints (R50 to R55).
-/

namespace Sys2Proof.Machine

/-- The frame of a hint word (R52, R355): it advances the pc and may change the context; `none` is ILL at the hint. A 17th word of a
repetition body is ILL, but for an `hres`, which R60 says never is (L75). -/
def hint (w : Nat) (f : Ctx → Option Ctx) (s : State) (reserved : Bool := false) : Host.Outcome State Fault Refusal :=
  let x := s.ctx
  if x.status = .running then
    let full := match x.rep with
      | some r => !reserved && decide (16 ≤ r.words)
      | none => false
    match if full then none else f x with
    | some y => .next (s.setCtx { y with pc := pc4 s, wait := .ready, rep := stepRep w y.rep })
    | none => .next (settle w s (.trap { code := cILL } s))
  else .fault .noActivation

/-- An attaching hint joins the pending set unless one of its kind is pending (R52). -/
def attach (free : Pending → Bool) (add : Pending → Pending) (x : Ctx) : Option Ctx :=
  if free x.hints then some { x with hints := add x.hints } else none

/-- `hnop` (R51). -/
def execHnop (s : State) := hint wordHnop some s
/-- `hext` (R50, R52): up to two pend. -/
def execHext (i : Nat) (s : State) :=
  hint (wordHext i) (attach (fun h => h.ext.length < 2) fun h => { h with ext := h.ext ++ [i] }) s
/-- `hjoin` (R51, R119). -/
def execHjoin (o : Nat) (s : State) := hint (wordHjoin o) (attach (fun h => h.join.isNone) fun h => { h with join := some o }) s
/-- `hbank` (R51): affects timing only. -/
def execHbank (b : Nat) (s : State) := hint (wordHbank b) (attach (fun h => h.bank.isNone) fun h => { h with bank := some b }) s
/-- `htake` (R51). -/
def execHtake (f n : Nat) (s : State) :=
  hint (wordHtake f n) (attach (fun h => h.take.isNone) fun h => { h with take := some (f, n) }) s
/-- `hlay` (R51, R338). -/
def execHlay (i : Nat) (s : State) := hint (wordHlay i) (attach (fun h => h.lay.isNone) fun h => { h with lay := some i }) s
/-- `hflag` (R51, R410). -/
def execHflag (s : State) := hint wordHflag (attach (fun h => !h.flag) fun h => { h with flag := true }) s
/-- `hlsend` (R51, R375). -/
def execHlsend (m : Nat) (s : State) :=
  hint (wordHlsend m) (attach (fun h => h.lsend.isNone) fun h => { h with lsend := some m }) s
/-- `hprio` (R54). -/
def execHprio (n : Nat) (s : State) := hint (wordHprio n) (fun x => some { x with prio := n }) s
/-- `hstall` (R53). -/
def execHstall (n : Nat) (s : State) := hint (wordHstall n) (fun x => some { x with stall := n }) s
/-- `hres` (R51, R60). -/
def execHres (k p : Nat) (s : State) := hint (wordHres k p) some s true

/-- `hreg` (R32, R52, R355): ILL while a hint pends or inside a repetition body. -/
def execHreg (s : State) : Host.Outcome State Fault Refusal :=
  hint wordHreg
    (fun x =>
      if x.hints = {} ∧ x.rep.isNone then some { ({ x with pc := pc4 s }).endRegion [] with pc := x.pc } else none) s

/-- The record of `htrace` (R55). -/
def traceRecord (s : State) (id : Nat) : List Byte :=
  leBytes 6 (s.die s.myDie).pw.cycle
    ++ [BitVec.ofNat 8 (dieOf s.cur), BitVec.ofNat 8 (rowOf s.cur), BitVec.ofNat 8 (colOf s.cur), BitVec.ofNat 8 s.curCtx]
    ++ leBytes 2 id ++ leBytes 4 0

/-- Append a trace record when capture is enabled; a full ring drops and counts (R55). -/
def traceAppend (s : State) (id : Nat) : State :=
  let vf := s.ctx.id.vf
  if (s.vf vf).trace then
    let ring := tget s.host.traces [] vf
    if ring.length < tget s.host.traceCounts 64 vf then
      { s with host := { s.host with traces := tput s.host.traces vf (ring ++ [traceRecord s id]) } }
    else { s with host := { s.host with traceDrops := tmod s.host.traceDrops 0 vf (· + 1) } }
  else s

/-- `htrace` (R55). -/
def execHtrace (i : Nat) (s : State) : Host.Outcome State Fault Refusal :=
  match hint (wordHtrace i) some s with
  | .next s' =>
    if s'.ctx.status = .running then .next ({ traceAppend s i with cores := s'.cores }) else .next s'
  | o => o

end Sys2Proof.Machine
end

