-- ==== Sys2Proof/Machine/Lift.lean ====
section
/-!
DEFINITION. Major 0x3D: the lift instructions (R382 to R391).
-/

namespace Sys2Proof.Machine

/-! ## Levels (R383, R384) -/

/-- The index of axis n in a packed index. -/
def axisIx (n i : Nat) : Nat := i / 2 ^ (10 * n) % 1024
/-- A packed index with the index of axis n replaced. -/
def setAxis (n i k : Nat) : Nat := i - axisIx n i * 2 ^ (10 * n) + k * 2 ^ (10 * n)

/-- The product of the extents of the levels. -/
def extProduct (ls : List Level) : Nat := ls.foldl (fun p v => p * v.ext) 1

/-- The lift state with one more level: every active instance with every index of the new axis (R383). -/
def pushLevel (l : Lift) (v : Level) : Lift :=
  { l with levels := l.levels ++ [v]
           active := ((List.range v.ext).map fun k => l.active.map fun i => i + k * 2 ^ (10 * l.levels.length)).flatten }

/-- `lcall` (R383). -/
def execLcall (o g : Nat) (s : State) : Host.Outcome State Fault Refusal :=
  execute { word := wordLcall o g, ends := true }
    (fun s => do
      let x := s.ctx
      let t ← relTarget s (extS x.hints 18 o)
      checkTarget s t
      let e := (nth x.sp.gauge g).getD 1
      if !x.lift.frames.isEmpty then fault s cLJOIN 2
      if 4 ≤ x.lift.levels.length then fault s cAXOVF 1
      if e = 0 ∨ 1024 < e then fault s cAXOVF 2
      if 4096 < extProduct x.lift.levels * e then fault s cAXOVF 3
      pure (s.modCtx fun x => { x with lift := pushLevel x.lift ⟨e, g, pc4 s⟩ }, t)) s

/-- Reset every register that is tagged on an axis (R384). -/
def dropTagged (n : Nat) (r : Regs) : Regs :=
  { s := r.s.filter fun (e : Nat × Tagged Word) => !bitOf e.2.tags n
    v := r.v.filter fun (e : Nat × Tagged Vec) => !bitOf e.2.tags n
    p := r.p.filter fun (e : Nat × Tagged Lane) => !bitOf e.2.tags n
    k := r.k.filter fun (e : Nat × KReg) => !bitOf e.2.tags n }

/-- `lret` (R384). -/
def execLret (s : State) : Host.Outcome State Fault Refusal :=
  execute { word := wordLret, ends := true }
    (fun s => do
      let x := s.ctx
      match x.lift.levels.getLast? with
      | none => fault s cLJOIN 4
      | some v =>
        if !x.lift.frames.isEmpty then fault s cLJOIN 2
        let n := x.lift.levels.length - 1
        let ls := x.lift.levels.dropLast
        let gone := x.regs.k.filter fun (e : Nat × KReg) => bitOf e.2.tags n
        let s := s.modCore s.cur fun k => gone.foldl (fun (k : Core) (e : Nat × KReg) => k.forget x.id.slice e.1 e.2) k
        pure (s.modCtx fun x =>
          let l : Lift := { x.lift with levels := ls }
          let stays (r : Nat) : Bool := !bitOf (x.vreg r).tags n
          { x with regs := dropTagged n x.regs, bad := x.bad.filter fun b => stays b.reg, dups := x.dups.filter fun d => stays d.reg
                   lift := { l with active := instances l (2 ^ n - 1) } }, v.ret)) s

/-- An axis that is not pushed (R382). -/
def needAxis (s : State) (n : Nat) : Act Unit := need (n < s.ctx.lift.levels.length) s cAXOVF 6

/-! ## Reading the lift (R385, R390) -/

/-- `laxis` (R385). -/
def execLaxis (d n : Nat) (s : State) : Host.Outcome State Fault Refusal :=
  onward { word := wordLaxis d n, writes := [d] }
    (fun s => do
      needAxis s n
      let l := s.ctx.lift
      let g := match nth l.levels n with
        | some v => v.gauge
        | none => 0
      writeS s d 0 fun _ =>
        wd (extOf l n + g * 2 ^ 16 + extProduct (l.levels.take (n + 1)) * 2 ^ 32 + l.active.length * 2 ^ 48)) s

/-- `laxis.tag` (R385): it reads a tag set, not a register, and never faults. -/
def execLaxisTag (d r f : Nat) (s : State) : Host.Outcome State Fault Refusal :=
  onward { word := wordLaxisTag d r f, writes := [d] }
    (fun s => writeS s d 0 fun _ => wd (s.ctx.tagsOf (64 * f + r))) s

/-- `lidx` (R390). -/
def execLidx (d n : Nat) (s : State) : Host.Outcome State Fault Refusal :=
  onward { word := wordLidx d n, writes := [d] }
    (fun s => do
      needAxis s n
      writeS s d (2 ^ n) fun i => wd (axisIx n i)) s

/-- `ltag` (R389). -/
def execLtag (k n : Nat) (s : State) : Host.Outcome State Fault Refusal :=
  onward { word := wordLtag k n, writes := [kCode k] }
    (fun s => do
      needAxis s n
      if !s.ctx.lift.frames.isEmpty then fault s cLJOIN 2
      kLive s [k]
      let r := s.ctx.kreg k
      let T := r.tags ||| 2 ^ n
      kSpan s r ((s.core s.cur).cplxOf r) T
      pure (if bitOf r.tags n then s else s.modCtx fun x => x.putK k (r.withTags T))) s

/-! ## Registers of any file -/

/-- The value of a scalar, vector or predicate register at an instance, as a number. -/
def Ctx.fileVal (x : Ctx) (f r i : Nat) : Nat :=
  match f with
  | 0 => (atInst (x.sreg r) i).toNat
  | 1 => (atInst (x.vreg r) i).toNat
  | _ => (atInst (x.preg r) i).toNat

/-- Write a scalar, vector or predicate register from numbers by instance of `S` (R370). -/
def fileWrite (s : State) (f r S : Nat) (res : Nat → Nat) : Act State :=
  match f with
  | 0 => writeS s r S fun i => wd (res i)
  | 1 => vwrite s (.vec r) S fun i => { v := BitVec.ofNat 1024 (res i) }
  | _ => vwrite s (.pred r) S fun i => { p := BitVec.ofNat 32 (res i) }

/-- The parity reads of a register of a file. -/
def fileRead (s : State) (f r : Nat) : Act State := if f = 1 then readRegs s (s.ctx.vreg r).tags [r] else .ok s

/-- A cochain instruction that moves or combines instances of a into d (R386 to R388): the checks of R292, R294 and R369, and the
rows of d by active instance of S from the rows of a by instance. `fill` allows d = a. -/
def kLift (s : State) (d a S : Nat) (fill : Bool) (res : KReg → Nat → (Nat → List (List Nat)) → Nat → List (List KElem)) :
    Act State := do
  let ns := [a, d]
  unitTurn s
  kLive s ns
  kAgree s ns specSame
  let c := s.ctx
  let l := c.lift
  let k := c.kreg d
  let r := c.kreg a
  let x := (s.core s.cur).cplxOf k
  let T := destTags l S k.tags
  if !fill && kOverlaps l k x T r x then fault s cALIAS 0 (wd d)
  kSpan s r x r.tags
  kSpan s k x T true
  seamWait s ns
  spadWait s true
  let m ← unitRead s (kReads s [(r, x)] d T)
  let rowsAt (i : Nat) : List (List Nat) := kRows m r (x.cells r.deg) (instNumber l r.tags i)
  let out : Table (List (List KElem)) := (activeOf l S).map fun i => (i, res r (drm c.sp.fst) rowsAt i)
  kDeliver s d S (if k.fmt = 0 then { k with w0 := setFld k.w0 31 24 r.exp } else k) m out (kFlags out)

/-- Rows as elements that are delivered unchanged. -/
def rawRows (rows : List (List Nat)) : List (List KElem) := rows.map fun r => r.map fun v => ⟨v, 0, false⟩

/-- The frame of `lred`, `lsel` and `lbc`: the axis is pushed, other operands pass their checks; d takes what `body` gives from a by file. -/
def liftOp (w d a f n : Nat) (more : List Nat) (body : State → Act State) (s : State) (checks : State → Act Unit := fun _ => .ok ()) :
    Host.Outcome State Fault Refusal :=
  onward { word := w, reads := (64 * f + a) :: more, writes := [64 * f + d] }
    (fun s => do
      needAxis s n
      checks s
      let s ← fileRead s f a
      body s) s

/-! ## Reduction (R386) -/

/-- Combine two values of a file as a node of `lred`. -/
def lredNode (f op t mode : Nat) (x y : Nat) : FR :=
  match f with
  | 0 =>
    let val (v : Nat) : Int := if t = 4 then sxt 64 v else (v : Int)
    match op with
    | 0 => ⟨(x + y) % 2 ^ 64, 0⟩
    | 1 => ⟨if val x < val y then y else x, 0⟩
    | 2 => ⟨if val y < val x then y else x, 0⟩
    | _ => ⟨x &&& y, 0⟩
  | 1 =>
    let ty := tyOf t
    let g : Nat → Nat → FR := match op with
      | 0 => arith fAdd (fun p q => p + q) ty mode
      | 1 => minMax true ty mode
      | 2 => minMax false ty mode
      | _ => fun p q => ⟨p &&& q, 0⟩
    let rs := List.zipWith g (unpack ty.width ty.count x) (unpack ty.width ty.count y)
    ⟨pack ty.width (rs.map fun r => r.bits), joinFlags rs⟩
  | _ => ⟨if op = 0 then x ||| y else x &&& y, 0⟩

/-- What an inactive instance enters as (R98, R138, R386). -/
def lredIdent (f op t : Nat) : Nat :=
  match f with
  | 0 =>
    match op with
    | 0 => 0
    | 1 => if t = 4 then 2 ^ 63 else 0
    | 2 => if t = 4 then 2 ^ 63 - 1 else 2 ^ 64 - 1
    | _ => 2 ^ 64 - 1
  | 1 =>
    let ty := tyOf t
    let e := match op with
      | 0 => if ty.fmt.isSome then 2 ^ (ty.width - 1) else 0
      | 1 => lowest ty
      | 2 => highest ty
      | _ => 2 ^ ty.width - 1
    pack ty.width (List.replicate ty.count e)
  | _ => if op = 0 then 0 else 2 ^ 32 - 1

/-- The values along axis n at instance j, inactive ones replaced by the identity. -/
def alongAxis {α : Type} (l : Lift) (tags n : Nat) (ident : α) (val : Nat → α) (j : Nat) : List α :=
  let act := activeOf l tags
  (List.range (extOf l n)).map fun k => let i := setAxis n j k; if act.contains i then val i else ident

/-- A bx node: an exact sum that saturates (R297, R386). -/
def bxNode (x y : Nat) : FR := let e := bxElem (sxt 32 x + sxt 32 y); ⟨e.bits, e.fl⟩

/-- A cochain element reduced node by node: floats round in drm; a bx node saturates, or with kof = 1 makes the element one that
faults (R297). -/
def lredElem (k : KReg) (mode : Nat) (kof : Bool) (xs : List Nat) : KElem :=
  if k.fmt = 0 then
    let r := treeReduce bxNode 13 xs
    if kof && r.flags != 0 then bxElem (2 ^ 31 : Nat) else r.elem
  else (treeReduce (fun x y => fAdd (kFmt k.fmt) mode x y) 13 xs).elem

/-- A cochain result of `lred` at instance j. -/
def lredRows (l : Lift) (n : Nat) (k : KReg) (mode : Nat) (kof : Bool) (rowsAt : Nat → List (List Nat)) (j : Nat) : List (List KElem) :=
  let unit : Nat := if k.fmt = 0 then 0 else (kFmt k.fmt).signBit
  let shape := rowsAt (setAxis n j 0)
  let all := alongAxis l k.tags n none (fun i => some (rowsAt i)) j
  shape.mapIdx fun c row => row.mapIdx fun ch _ =>
    lredElem k mode kof (all.map fun (r : Option (List (List Nat))) => match r with
      | some rows => at0 ((nth rows c).getD []) ch
      | none => unit)

/-- `lred` (R386): a copy when a is not tagged on n. -/
def execLred (d a o n f t : Nat) (s : State) : Host.Outcome State Fault Refusal :=
  liftOp (wordLred d a o n f t) d a f n []
    (fun s => do
      let x := s.ctx
      let l := x.lift
      let tags := x.tagsOf (64 * f + a)
      let S := if bitOf tags n then tags - 2 ^ n else tags
      if f = 3 then
        kLift s d a S false (fun k mode rowsAt j => if bitOf tags n then lredRows l n k mode (fld x.sp.kmode 0 0 == 1) rowsAt j else rawRows (rowsAt j))
      else if !bitOf tags n then fileWrite s f d S fun i => x.fileVal f a i
      else
        let node := lredNode f o t (drm x.sp.fst)
        let rs : Table FR := (activeOf l S).map fun j =>
          (j, treeReduce node 13 (alongAxis l tags n (lredIdent f o t) (fun i => x.fileVal f a i) j))
        let fl := rs.foldl (fun (acc : Nat) (p : Nat × FR) => acc ||| p.2.flags) 0
        let s ← fileWrite s f d S fun i => (tget rs ⟨0, 0⟩ i).bits
        pure (s.modCtx fun y => { y with sp := { y.sp with fst := y.sp.fst ||| wd fl } })) s

/-! ## Selection and broadcast (R387, R388) -/

/-- `lsel` (R387). -/
def execLsel (d a b f n : Nat) (s : State) : Host.Outcome State Fault Refusal :=
  liftOp (wordLsel d a b f n) d a f n [b]
    (fun s => do
      let x := s.ctx
      let ix := (x.sv b).toNat
      let tags := x.tagsOf (64 * f + a)
      let S := if bitOf tags n then tags - 2 ^ n else tags
      let src (j : Nat) : Nat := if bitOf tags n then setAxis n j ix else j
      if f = 3 then kLift s d a S false (fun _ _ rowsAt j => rawRows (rowsAt (src j)))
      else fileWrite s f d S fun j => x.fileVal f a (src j)) s
    (fun s => do
      if (s.ctx.sreg b).tags ≠ 0 then lwrite s 2 [64 * f + a, b]
      if extOf s.ctx.lift n ≤ (s.sv b).toNat then fault s cBOUNDS 3 (s.sv b))

/-- `lbc` (R388): with d = a a cochain register gains the axis only above all its others. -/
def execLbc (d a f n : Nat) (s : State) : Host.Outcome State Fault Refusal :=
  liftOp (wordLbc d a f n) d a f n []
    (fun s => do
      let x := s.ctx
      let tags := x.tagsOf (64 * f + a)
      let S := tags ||| 2 ^ n
      if f = 3 then kLift s d a S (d == a && decide (tags < 2 ^ n)) (fun _ _ rowsAt j => rawRows (rowsAt j))
      else fileWrite s f d S fun j => x.fileVal f a j) s

end Sys2Proof.Machine
end

