-- ==== Sys2Proof/Machine/Objects.lean ====
section
/-!
DEFINITION. The loader: object images, their checks, placement in segments, relocation and sealing; unloading and replacement of a
pointer key (R67 to R76, R428).
-/

namespace Sys2Proof.Machine

/-- `n` little-endian bytes of an image from an offset. -/
def at_ (bs : List Byte) (off n : Nat) : Nat := leNat ((bs.drop off).take n)

/-- A section record (R67). -/
structure Sect where
  kind : Nat
  slice : Nat
  size : Nat
  off : Nat
  align : Nat
  deriving DecidableEq, Repr

/-- A relocation record (R75). -/
structure Reloc where
  sect : Nat
  off : Nat
  kind : Nat
  perm : Nat
  sym : Nat
  deriving DecidableEq, Repr

/-- A symbol (R68): its section, its offset there, its name's offset in the strings section, its kind. -/
structure Sym where
  sect : Nat
  off : Nat
  name : Nat
  kind : Nat
  pad : Nat
  deriving DecidableEq, Repr

/-- Counts of section and relocation records, as the header gives them. -/
def imgSects (img : List Byte) : Nat := at_ img 24 4
/-- Relocation records. -/
def imgRelocs (img : List Byte) : Nat := at_ img 28 4

/-- Section record i. -/
def sectAt (img : List Byte) (i : Nat) : Sect :=
  let o := 64 + 16 * i
  ⟨at_ img o 2, at_ img (o + 2) 2, at_ img (o + 4) 4, at_ img (o + 8) 4, at_ img (o + 12) 4⟩

/-- Relocation record i. -/
def relocAt (img : List Byte) (i : Nat) : Reloc :=
  let o := 64 + 16 * imgSects img + 16 * i
  ⟨at_ img o 4, at_ img (o + 4) 4, at_ img (o + 8) 2, at_ img (o + 10) 2, at_ img (o + 12) 4⟩

/-- The section records. -/
def sectsOf (img : List Byte) : List Sect := (List.range (imgSects img)).map (sectAt img)
/-- The relocation records. -/
def relocsOf (img : List Byte) : List Reloc := (List.range (imgRelocs img)).map (relocAt img)
/-- The bytes of a section. -/
def Sect.bytes (x : Sect) (img : List Byte) : List Byte := (img.drop x.off).take x.size

/-- The first section of a kind. -/
def sectOfKind (img : List Byte) (k : Nat) : Option Sect := (sectsOf img).find? fun x => x.kind == k
/-- Its bytes, none of them when there is none. -/
def bytesOfKind (img : List Byte) (k : Nat) : List Byte := ((sectOfKind img k).map fun x => x.bytes img).getD []

/-- Symbol i (R68). -/
def symAt (img : List Byte) (i : Nat) : Sym :=
  let t := bytesOfKind img 7
  ⟨at_ t (16 * i) 4, at_ t (16 * i + 4) 4, at_ t (16 * i + 8) 4, at_ t (16 * i + 12) 2, at_ t (16 * i + 14) 2⟩
/-- The number of symbols. -/
def symCount (img : List Byte) : Nat := (bytesOfKind img 7).length / 16

/-- The permissions of a segment of a kind (R69, R113): code X and R, global W, R and A, const and a pointer table R; nothing else is a
segment. -/
def kindPerm (kind : Nat) : Nat :=
  match kind with
  | 1 => permX + permR
  | 3 => permW + permR + permA
  | 4 => permR
  | 8 => permR
  | _ => 0

/-- The kind of the section a symbol lies in. -/
def symKind (img : List Byte) (i : Nat) : Nat := (sectAt img (symAt img i).sect).kind

/-- Characters up to the first NUL, if there is one. -/
def upToNul (bs : List Byte) : List Byte := bs.takeWhile fun b => b != 0

/-- The header table (R67): the class name is followed by NULs alone; the entry index names a graph section when the object has one, and
is not read when it has none (L70). -/
def headerOk (img : List Byte) : Bool :=
  let flags := at_ img 6 2
  let cls := (img.drop 8).take 16
  decide (64 + 16 * (imgSects img + imgRelocs img) ≤ img.length) && at_ img 0 4 == 0x314E454B && at_ img 4 2 == 1
    && (flags == 1 || flags == 2) && (flags == 2 || cls.all fun b => b == 0)
    && (cls.drop (upToNul cls).length).all (fun b => b == 0) && decide (at_ img 32 4 ≤ 2 ^ 20)
    && ((sectsOf img).all (fun x => x.kind != 5)
        || (decide (at_ img 36 4 < imgSects img) && (sectAt img (at_ img 36 4)).kind == 5))

/-- A name (R68): none, or a string of at most 63 characters that begins in the strings section and ends there with a NUL. -/
def nameOk (strings : List Byte) (off : Nat) : Bool :=
  let n := upToNul (strings.drop off)
  off == 0xFFFFFFFF || (decide (off + n.length < strings.length) && decide (n.length ≤ 63)
    && (off == 0 || (strings.drop (off - 1)).head? == some 0))

/-- Strings of at most 63 characters, each ended by a NUL (R68), the first with n characters behind it. -/
def stringsFrom : Nat → List Byte → Bool
  | n, [] => n == 0
  | n, b :: bs => if b = 0 then stringsFrom 0 bs else decide (n < 63) && stringsFrom (n + 1) bs

/-- The strings section (R68): every string in it, named by a symbol or not, has at most 63 characters and is ended by a NUL. -/
def stringsOk (strings : List Byte) : Bool := stringsFrom 0 strings

/-- A node's descriptor in an image (R68): the flags above bit 1, the initial count and bytes 24 to 31 are zero, and so are the payload
words where `.node` gave none. -/
def imageDescOk (d : List Byte) : Bool :=
  decide (at_ d 19 1 < 4) && at_ d 20 4 == 0 && at_ d 24 8 == 0 && (bitOf (at_ d 19 1) 1 || (d.drop 32).all fun b => b == 0)

/-- The symbol of a graph's name (R68). -/
def graphSymOk (img : List Byte) (j i : Nat) : Bool :=
  decide (i < symCount img) && (symAt img i).kind == 2 && (symAt img i).sect == j

/-- A graph section (R68). -/
def graphOk (bs : List Byte) : Bool :=
  let n := at_ bs 0 4
  let e := at_ bs 4 4
  bs.length == 16 + 80 * n + 8 * e && at_ bs 12 4 == 0
    && (List.range n).all (fun i => imageDescOk ((bs.drop (16 + 80 * i)).take 80))
    && (List.range e).all fun i => decide (at_ bs (16 + 80 * n + 8 * i) 4 < n) && decide (at_ bs (16 + 80 * n + 8 * i + 4) 4 < n)

/-- A handler-table entry (R68). -/
def handlerOk (img : List Byte) (t : List Byte) (i : Nat) : Bool :=
  let ty := at_ t (8 * i + 4) 1
  let conc := at_ t (8 * i + 5) 1
  decide (at_ t (8 * i) 4 < symCount img) && symKind img (at_ t (8 * i) 4) == 1 && (symAt img (at_ t (8 * i) 4)).kind == 1
    && (decide (ty < 240) || decide (253 ≤ ty))
    && (conc == 1 || conc == 8) && decide (at_ t (8 * i + 6) 1 ≤ 48) && at_ t (8 * i + 7) 1 == 0

/-- The sections and their layouts (R67, R68). -/
def sectionsOk (img : List Byte) : Bool :=
  let ss := sectsOf img
  let count (k : Nat) : Nat := (ss.filter fun x => x.kind == k).length
  ss.all (fun x => decide (1 ≤ x.kind) && decide (x.kind ≤ 9) && decide (x.off + x.size ≤ img.length))
    && [6, 7, 8, 9].all (fun k => decide (count k ≤ 1))
    && (bytesOfKind img 8).length == 8 * at_ img 32 4 && (bytesOfKind img 8).all (fun b => b == 0)
    && (bytesOfKind img 7).length % 16 == 0 && (bytesOfKind img 6).length % 8 == 0
    && (List.range (symCount img)).all (fun i =>
        let y := symAt img i
        decide (y.sect < imgSects img) && decide (y.off ≤ (sectAt img y.sect).size) && decide (y.kind ≤ 2) && y.pad == 0
          && nameOk (bytesOfKind img 9) y.name)
    && stringsOk (bytesOfKind img 9)
    && (List.range ((bytesOfKind img 6).length / 8)).all (fun i => handlerOk img (bytesOfKind img 6) i)
    && (List.range (imgSects img)).all fun j =>
      let x := sectAt img j
      x.kind != 5 || (graphOk (x.bytes img) && graphSymOk img j (at_ (x.bytes img) 8 4))

/-- A relocation record (R75): its field lies in its section, its symbol exists, a PTR record grants no permission that the symbol's
segment lacks; no relocation patches an instruction word. -/
def relocOk (img : List Byte) (r : Reloc) : Bool :=
  let k := symKind img r.sym
  decide (r.sect < imgSects img) && decide (r.off + 8 ≤ (sectAt img r.sect).size) && (sectAt img r.sect).kind != 1
    && decide (r.sym < symCount img)
    && (match r.kind with
        | 1 => (k == 1 || k == 3 || k == 4) && decide (r.perm < 16) && r.perm &&& kindPerm k == r.perm
        | 2 => k == 2
        | 3 => k == 1
        | _ => false)

/-- A record of a graph section (R68): an ENTRY record that fills a node's entry pointer, or one that lies in the payload words that
`.node` gave. -/
def graphRecordOk (bs : List Byte) (r : Reloc) : Bool :=
  let i := (r.off - 16) / 80
  let o := (r.off - 16) % 80
  decide (16 ≤ r.off) && decide (i < at_ bs 0 4)
    && ((r.kind == 3 && o == 0) || (decide (32 ≤ o) && decide (o ≤ 72) && bitOf (at_ bs (16 + 80 * i + 19) 1) 1))

/-- Every pointer-table entry is filled by one record, every node's entry pointer by one ENTRY record; no record of a graph section lies
elsewhere than R68 lets it. -/
def filledOk (img : List Byte) : Bool :=
  let rs := relocsOf img
  (List.range (imgSects img)).all fun j =>
    let x := sectAt img j
    if x.kind = 8 then
      (List.range (x.size / 8)).all fun i => (rs.filter fun r => r.sect == j && r.off / 8 == i).map (fun r => r.off) == [8 * i]
    else if x.kind = 5 then
      (rs.all fun r => r.sect != j || graphRecordOk (x.bytes img) r)
        && (List.range (at_ (x.bytes img) 0 4)).all fun i => (rs.filter fun r => r.sect == j && r.off == 16 + 80 * i).length == 1
    else true

/-- Whether an object keeps R67, R68 and R75. -/
def objectOk (img : List Byte) : Bool :=
  headerOk img && sectionsOk img && (relocsOf img).all (relocOk img) && filledOk img

/-! ## Placement and relocation (R69, R74, R75) -/

/-- Where a section was placed. -/
def sectPlace (place : List SegPlace) (i : Nat) : Option SegPlace := place.find? fun p => p.sect == i

/-- What the loader writes for a record (R75). -/
def relocValue (img : List Byte) (place : List SegPlace) (key : BitVec 128) (r : Reloc) : Word :=
  let y := symAt img r.sym
  match sectPlace place y.sect with
  | some p =>
    (match r.kind with
     | 1 => mkPtr key r.perm p.slot y.off
     | 2 => wd (p.base + y.off)
     | _ => mkPtr key (permX + permR) p.slot y.off)
  | none => 0

/-- Overwrite bytes of a list. -/
def patch (bs : List Byte) (off : Nat) (xs : List Byte) : List Byte := bs.take off ++ xs ++ bs.drop (off + xs.length)

/-- The bytes of section i after relocation. -/
def relocated (img : List Byte) (place : List SegPlace) (key : BitVec 128) (i : Nat) : List Byte :=
  (relocsOf img).foldl (fun bs r => if r.sect = i then patch bs r.off (leBytes 8 (relocValue img place key r).toNat) else bs)
    ((sectAt img i).bytes img)

/-- The numbers of the sections of given kinds. -/
def sectsOfKinds (img : List Byte) (ks : List Nat) : List Nat :=
  (List.range (imgSects img)).filter fun i => ks.contains (sectAt img i).kind

/-- The kinds of section that get a segment of their own (R69, R113). -/
def segKinds : List Nat := [1, 3, 4, 8]

/-- Virtual ranges (base, length) that share no address. -/
def apart (a b : Nat × Nat) : Bool := a.2 == 0 || b.2 == 0 || decide (a.1 + a.2 ≤ b.1) || decide (b.1 + b.2 ≤ a.1)

/-- Whether the ranges of a list are pairwise apart. -/
def allApart : List (Nat × Nat) → Bool
  | [] => true
  | a :: as => as.all (apart a) && allApart as

/-- The virtual ranges that other packages may write: the HBM windows that grant W or A (R399). -/
def writtenRanges (v : Vf) : List (Nat × Nat) :=
  v.windows.filterMap fun e => match e.2.home with
    | .hbm base => if e.2.w || e.2.a then some (base, e.2.length) else none
    | .spad _ _ => none

/-- Whether a placement fits a virtual function (R69, R76): every code, global, const and pointer-table section at a slot of its own that
is neither in use nor freed under the present key, and in a virtual range that no other segment names and, where the segment grants no
W, no exported window that grants W or A, so that no pointer and no packet writes what is sealed; scratchpad sections within scratchpad;
alignment kept. -/
def placeOk (v : Vf) (img : List Byte) (place : List SegPlace) : Bool :=
  let segs := (sectsOfKinds img segKinds).map fun i => (sectAt img i, sectPlace place i)
  let slots := segs.filterMap fun e => e.2.map fun p => p.slot
  segs.all (fun e => match e.2 with
      | some p => decide (1 ≤ p.slot) && decide (p.slot ≤ 4095) && (tlook v.segs p.slot).isNone && !v.retired.contains p.slot
                    && decide (p.base + e.1.size ≤ 2 ^ 52) && p.base % max e.1.align 1 == 0 && (e.1.kind != 8 || p.base % 8 == 0)
      | none => false)
    && slots.eraseDups.length == slots.length
    && allApart (segs.filterMap (fun e => e.2.map fun p => (p.base, e.1.size)) ++ v.segs.map fun (g : Nat × Segment) => (g.2.base, g.2.len))
    && segs.all (fun e => e.1.kind == 3 || match e.2 with
      | some p => (writtenRanges v).all (apart (p.base, e.1.size))
      | none => true)
    && (sectsOfKinds img [2]).all fun i => match sectPlace place i with
      | some p => decide (p.base + (sectAt img i).size ≤ Config.spadBytes) && p.base % max (sectAt img i).align 1 == 0
      | none => false

/-- Write bytes at a virtual address through a virtual function's page table, none where a page is not mapped or its memory node is
down. -/
def virtualWrite (s : State) (vf : Nat) : List (Nat × Nat) → List Byte → Option State
  | [], _ => some s
  | (va, n) :: rest, bs =>
    match walk s vf va with
    | .leaf e lg =>
      let pa := bits e.toNat lg (41 - lg) * 2 ^ lg + va % 2 ^ lg
      if s.memUp (homeDie pa) then virtualWrite (s.hbmWrite pa (bs.take n)) vf rest (bs.drop n) else none
    | _ => none

/-- Write the segments of an object to memory. -/
def writeSegments (s : State) (vf : Nat) (img : List Byte) (place : List SegPlace) (key : BitVec 128) : List Nat → Option State
  | [] => some s
  | i :: rest =>
    match sectPlace place i with
    | some p =>
      let bs := relocated img place key i
      (virtualWrite s vf (cutAt 4096 (bs.length / 4096 + 2) p.base bs.length) bs).bind fun s => writeSegments s vf img place key rest
    | none => none

/-- The segment-table entries of an object. -/
def segmentsOf (img : List Byte) (place : List SegPlace) : List (Nat × Segment) :=
  (sectsOfKinds img segKinds).filterMap fun i =>
    (sectPlace place i).map fun p => (p.slot, ⟨p.base, (sectAt img i).size, kindPerm (sectAt img i).kind⟩)

/-- Whether a word makes a launch need level 3 (R428): majors 0x3B, 0x3C, 0x3E, and `wsld` with m[0] = 1. -/
def needsLevel3 (w : Nat) : Bool :=
  let op := bits w 26 6
  op == 0x3B || op == 0x3C || op == 0x3E || (op == 0x1E && bits w 24 2 == 0 && bitOf w 0)

/-- The words of a list of bytes. -/
def wordsOf : Nat → List Byte → List Nat
  | 0, _ => []
  | n + 1, bs => leNat (bs.take 4) :: wordsOf n (bs.drop 4)

/-- The handlers of an object (R68): type, entry, concurrency, registers. -/
def handlersOf (img : List Byte) (place : List SegPlace) (key : BitVec 128) : List (Nat × Word × Nat × Nat) :=
  let t := bytesOfKind img 6
  (List.range (t.length / 8)).map fun i =>
    (at_ t (8 * i + 4) 1, relocValue img place key ⟨0, 0, 3, 0, at_ t (8 * i) 4⟩, at_ t (8 * i + 5) 1, at_ t (8 * i + 6) 1)

/-- The object of an image that keeps the rules. -/
def buildObj (img : List Byte) (place : List SegPlace) (key : BitVec 128) : Obj :=
  let g := if (sectsOfKinds img [5]).isEmpty then [] else relocated img place key (at_ img 36 4)
  let n := at_ g 0 4
  { slots := (segmentsOf img place).map fun e => e.1
    nptr := at_ img 32 4
    table := ((sectsOfKinds img [8]).head?.bind fun i => (sectPlace place i).map fun p => p.slot).getD 0
    floor := at_ img 6 2 == 1
    cls := (img.drop 8).take 16
    handlers := handlersOf img place key
    nodes := (List.range n).map fun i => (g.drop (16 + 80 * i)).take 80
    edges := (List.range (at_ g 4 4)).map fun i => (at_ g (16 + 80 * n + 8 * i) 4, at_ g (16 + 80 * n + 8 * i + 4) 4)
    words := (List.range 6).map fun i => wd (at_ img (40 + 4 * i) 4)
    level3 := (sectsOfKinds img [1]).any fun i =>
      let bs := (sectAt img i).bytes img
      (wordsOf (bs.length / 4) bs).any needsLevel3
    spads := (sectsOfKinds img [2]).map fun i =>
      (((sectPlace place i).map fun p => p.base).getD 0, if (sectAt img i).slice = 0xFFFF then none else some (sectAt img i).slice,
        relocated img place key i)
    wellFormed := true }

/-- What the model keeps of an image that the loader refuses: a launch of it is rejected (R171). -/
def refusedObj : Obj := ⟨[], 0, 0, true, [], [], [], [], [], false, [], false⟩

/-- An object is loaded: placed, relocated and sealed (R69, R75, R76). -/
def execObjectLoad (vf : Nat) (img : List Byte) (name : Nat) (place : List SegPlace) (s : State) :
    Host.Outcome State Fault Refusal :=
  match s.enumerated vf with
  | none => .next s
  | some v =>
    if (tlook v.objs name).isSome then .next s
    else if !objectOk img then .next { s with vfs := tput s.vfs vf { v with objs := tput v.objs name refusedObj } }
    else if !placeOk v img place then .next s
    else
      match writeSegments s vf img place v.key (sectsOfKinds img segKinds) with
      | none => .next s
      | some s' =>
        let segs := (segmentsOf img place).foldl (fun (t : Table Segment) e => tput t e.1 e.2) v.segs
        .next { s' with vfs := tput s'.vfs vf { v with segs := segs, objs := tput v.objs name (buildObj img place v.key) } }

/-- An object is unloaded: its slots are free, and not assigned again under the present key (R76). -/
def execObjectUnload (vf obj : Nat) (s : State) : Host.Outcome State Fault Refusal :=
  match s.enumerated vf with
  | none => .next s
  | some v =>
    match tlook v.objs obj with
    | none => .next s
    | some o =>
      let v' : Vf := { v with objs := tdel v.objs obj, segs := v.segs.filter (fun (g : Nat × Segment) => !o.slots.contains g.1),
                              retired := v.retired ++ o.slots }
      .next { s with vfs := tput s.vfs vf v' }

/-- The host replaces a pointer key: freed slots may be assigned again (R76). -/
def execPointerKeyReplace (vf : Nat) (key : BitVec 128) (s : State) : Host.Outcome State Fault Refusal :=
  match s.enumerated vf with
  | some v => .next { s with vfs := tput s.vfs vf { v with key := key, retired := [] } }
  | none => .next s

end Sys2Proof.Machine
end

