-- ==== Sys2Proof/Machine/Scalar.lean ====
section
/-!
DEFINITION. Majors 0x02 to 0x09: arithmetic, logic, shifts, bit fields and immediate forms (R101 to R112).
-/

namespace Sys2Proof.Machine

/-- A two-source scalar operation (R106, R109, R373). -/
def alu2 (w d a b : Nat) (f : Word → Word → Word) (s : State) : Host.Outcome State Fault Refusal :=
  onward { word := w, reads := [a, b], writes := [d] }
    (fun s =>
      let x := s.ctx
      writeS s d (x.tagUnion [a, b]) fun i => f (atInst (x.sreg a) i) (atInst (x.sreg b) i)) s

/-- A one-source scalar operation. -/
def alu1 (w d a : Nat) (f : Word → Word) (s : State) : Host.Outcome State Fault Refusal :=
  onward { word := w, reads := [a], writes := [d] }
    (fun s =>
      let x := s.ctx
      writeS s d (x.tagUnion [a]) fun i => f (atInst (x.sreg a) i)) s

/-- One bit as a word. -/
def flag (b : Bool) : Word := if b then 1 else 0

/-- The shift amount b[5:0] (R106). -/
def shamt (b : Word) : Nat := b.toNat % 64

/-- High 64 bits of the signed product (R106). -/
def mulHigh (a b : Word) : Word := BitVec.ofInt 64 (a.toInt * b.toInt / (2 ^ 64 : Nat))
/-- High 64 bits of the natural product (R106). -/
def mulHighN (a b : Word) : Word := wd (a.toNat * b.toNat / 2 ^ 64)
/-- Signed quotient (R107). -/
def divS (a b : Word) : Word := if b = 0 then BitVec.allOnes 64 else BitVec.ofInt 64 (Int.tdiv a.toInt b.toInt)
/-- Natural quotient (R107). -/
def divN (a b : Word) : Word := if b = 0 then BitVec.allOnes 64 else wd (a.toNat / b.toNat)
/-- Signed remainder (R107). -/
def remS (a b : Word) : Word := if b = 0 then a else BitVec.ofInt 64 (Int.tmod a.toInt b.toInt)
/-- Natural remainder (R107). -/
def remN (a b : Word) : Word := if b = 0 then a else wd (a.toNat % b.toNat)
/-- Rotate left (R106). -/
def rolW (a : Word) (n : Nat) : Word := if n = 0 then a else (a <<< n) ||| (a >>> (64 - n))

/-- Leading zero bits of the `n` low bits of a number. -/
def clzN : Nat → Nat → Nat
  | 0, _ => 0
  | n + 1, x => if bitOf x n then 0 else 1 + clzN n x
/-- Trailing zero bits of the `n` low bits of a number. -/
def ctzN : Nat → Nat → Nat
  | 0, _ => 0
  | n + 1, x => if x % 2 = 1 then 0 else 1 + ctzN n (x / 2)
/-- Ones among the `n` low bits of a number. -/
def popN : Nat → Nat → Nat
  | 0, _ => 0
  | n + 1, x => x % 2 + popN n (x / 2)

/-- Extract a bit field (R108): pos = b[5:0], len = b[14:8]. -/
def bitExtract (a b : Word) : Word :=
  let pos := fld b 5 0
  wd (a.toNat / 2 ^ pos % 2 ^ min (fld b 14 8) (64 - pos))
/-- Insert a bit field into the old value (R108). -/
def bitInsert (old a b : Word) : Word :=
  let pos := fld b 5 0
  let mask : Word := wd ((2 ^ min (fld b 14 8) (64 - pos) - 1) * 2 ^ pos)
  (old &&& ~~~ mask) ||| ((a <<< pos) &&& mask)

/-- `add` (R106). -/
def execAdd (d a b : Nat) (s : State) := alu2 (wordAdd d a b) d a b (fun x y => x + y) s
/-- `sub` (R106). -/
def execSub (d a b : Nat) (s : State) := alu2 (wordSub d a b) d a b (fun x y => x - y) s
/-- `mul` (R106). -/
def execMul (d a b : Nat) (s : State) := alu2 (wordMul d a b) d a b (fun x y => x * y) s
/-- `mulh` (R106). -/
def execMulh (d a b : Nat) (s : State) := alu2 (wordMulh d a b) d a b mulHigh s
/-- `mulhn` (R106). -/
def execMulhn (d a b : Nat) (s : State) := alu2 (wordMulhn d a b) d a b mulHighN s
/-- `div` (R107). -/
def execDiv (d a b : Nat) (s : State) := alu2 (wordDiv d a b) d a b divS s
/-- `divn` (R107). -/
def execDivn (d a b : Nat) (s : State) := alu2 (wordDivn d a b) d a b divN s
/-- `rem` (R107). -/
def execRem (d a b : Nat) (s : State) := alu2 (wordRem d a b) d a b remS s
/-- `remn` (R107). -/
def execRemn (d a b : Nat) (s : State) := alu2 (wordRemn d a b) d a b remN s
/-- `and` (R106). -/
def execAnd (d a b : Nat) (s : State) := alu2 (wordAnd d a b) d a b (fun x y => x &&& y) s
/-- `or` (R106). -/
def execOr (d a b : Nat) (s : State) := alu2 (wordOr d a b) d a b (fun x y => x ||| y) s
/-- `xor` (R106). -/
def execXor (d a b : Nat) (s : State) := alu2 (wordXor d a b) d a b (fun x y => x ^^^ y) s
/-- `andn` (R106). -/
def execAndn (d a b : Nat) (s : State) := alu2 (wordAndn d a b) d a b (fun x y => x &&& ~~~ y) s
/-- `orn` (R106). -/
def execOrn (d a b : Nat) (s : State) := alu2 (wordOrn d a b) d a b (fun x y => x ||| ~~~ y) s
/-- `shl` (R106). -/
def execShl (d a b : Nat) (s : State) := alu2 (wordShl d a b) d a b (fun x y => x <<< shamt y) s
/-- `shr` (R106). -/
def execShr (d a b : Nat) (s : State) := alu2 (wordShr d a b) d a b (fun x y => x >>> shamt y) s
/-- `sar` (R106). -/
def execSar (d a b : Nat) (s : State) := alu2 (wordSar d a b) d a b (fun x y => x.sshiftRight (shamt y)) s
/-- `rol` (R106). -/
def execRol (d a b : Nat) (s : State) := alu2 (wordRol d a b) d a b (fun x y => rolW x (shamt y)) s
/-- `min` (R106). -/
def execMin (d a b : Nat) (s : State) := alu2 (wordMin d a b) d a b (fun x y => if x.slt y then x else y) s
/-- `max` (R106). -/
def execMax (d a b : Nat) (s : State) := alu2 (wordMax d a b) d a b (fun x y => if x.slt y then y else x) s
/-- `minn` (R106). -/
def execMinn (d a b : Nat) (s : State) := alu2 (wordMinn d a b) d a b (fun x y => if x.ult y then x else y) s
/-- `maxn` (R106). -/
def execMaxn (d a b : Nat) (s : State) := alu2 (wordMaxn d a b) d a b (fun x y => if x.ult y then y else x) s
/-- `slt` (R106). -/
def execSlt (d a b : Nat) (s : State) := alu2 (wordSlt d a b) d a b (fun x y => flag (x.slt y)) s
/-- `sltn` (R106). -/
def execSltn (d a b : Nat) (s : State) := alu2 (wordSltn d a b) d a b (fun x y => flag (x.ult y)) s
/-- `seq` (R106). -/
def execSeq (d a b : Nat) (s : State) := alu2 (wordSeq d a b) d a b (fun x y => flag (x == y)) s
/-- `sne` (R106). -/
def execSne (d a b : Nat) (s : State) := alu2 (wordSne d a b) d a b (fun x y => flag (x != y)) s
/-- `clz` (R106). -/
def execClz (d a : Nat) (s : State) := alu1 (wordClz d a) d a (fun x => wd (clzN 64 x.toNat)) s
/-- `ctz` (R106). -/
def execCtz (d a : Nat) (s : State) := alu1 (wordCtz d a) d a (fun x => wd (ctzN 64 x.toNat)) s
/-- `popc` (R106). -/
def execPopc (d a : Nat) (s : State) := alu1 (wordPopc d a) d a (fun x => wd (popN 64 x.toNat)) s
/-- `sxb` (R106). -/
def execSxb (d a : Nat) (s : State) := alu1 (wordSxb d a) d a (fun x => sextW 8 x.toNat) s
/-- `sxh` (R106). -/
def execSxh (d a : Nat) (s : State) := alu1 (wordSxh d a) d a (fun x => sextW 16 x.toNat) s
/-- `sxw` (R106). -/
def execSxw (d a : Nat) (s : State) := alu1 (wordSxw d a) d a (fun x => sextW 32 x.toNat) s
/-- `zxb` (R106). -/
def execZxb (d a : Nat) (s : State) := alu1 (wordZxb d a) d a (fun x => wd (x.toNat % 2 ^ 8)) s
/-- `zxh` (R106). -/
def execZxh (d a : Nat) (s : State) := alu1 (wordZxh d a) d a (fun x => wd (x.toNat % 2 ^ 16)) s
/-- `zxw` (R106). -/
def execZxw (d a : Nat) (s : State) := alu1 (wordZxw d a) d a (fun x => wd (x.toNat % 2 ^ 32)) s
/-- `bfx` (R108). -/
def execBfx (d a b : Nat) (s : State) := alu2 (wordBfx d a b) d a b bitExtract s

/-- `bfi` (R108): d is a source too. -/
def execBfi (d a b : Nat) (s : State) : Host.Outcome State Fault Refusal :=
  onward { word := wordBfi d a b, reads := [d, a, b], writes := [d] }
    (fun s =>
      let x := s.ctx
      writeS s d (x.tagUnion [d, a, b]) fun i =>
        bitInsert (atInst (x.sreg d) i) (atInst (x.sreg a) i) (atInst (x.sreg b) i)) s

/-- `padd` (R110), instance by instance. -/
def execPadd (d a b : Nat) (s : State) : Host.Outcome State Fault Refusal :=
  onward { word := wordPadd d a b, reads := [a, b], writes := [d] }
    (fun s => do
      let x := s.ctx
      let S := x.tagUnion [a, b]
      let (s, vs) ← widen s S fun s i => do
        let p := atInst (x.sreg a) i
        match ptrSegment s.myVf p with
        | none => faultAt s cPERM 0 p
        | some _ =>
          match ptrMove p (atInst (x.sreg b) i).toInt with
          | some q => pure (s, q)
          | none =>
            faultAt s cBOUNDS 1 (ptrAt p (wrapN 40 ((ptrOff p : Int) + (atInst (x.sreg b) i).toInt)))
      writeS s d S (tget vs 0)) s

/-- The outcome of `pchk` (R111). -/
def pchkResult (v : Vf) (a b : Word) : Word :=
  let len := fld b 39 0
  match ptrSegment v a with
  | none => wd cPERM
  | some g =>
    let perm := fld b 63 60
    if (ptrPerm a &&& perm) ≠ perm ∨ (g.perm &&& perm) ≠ perm then wd cPERM
    else if len = 0 ∨ ptrOff a + len ≤ g.len then 0
    else wd cBOUNDS

/-- `pchk` (R111). -/
def execPchk (d a b : Nat) (s : State) : Host.Outcome State Fault Refusal :=
  alu2 (wordPchk d a b) d a b (pchkResult s.myVf) s

/-- An immediate form (R112): the immediate is known at issue. -/
def aluImm (w d a : Nat) (imm : Pending → Word) (f : Word → Word → Word) (s : State) : Host.Outcome State Fault Refusal :=
  alu1 w d a (fun x => f x (imm s.ctx.hints)) s

/-- The sign-extended imm14 with its extensions (R48, R50). -/
def immS (n v : Nat) (h : Pending) : Word := BitVec.ofInt 64 (extS h n v)
/-- The zero-extended immediate with its extensions. -/
def immZ (n v : Nat) (h : Pending) : Word := wd (extended h n v).1

/-- `addi` (R112). -/
def execAddi (d a i : Nat) (s : State) := aluImm (wordAddi d a i) d a (immS 14 i) (fun x y => x + y) s
/-- `andi` (R112). -/
def execAndi (d a i : Nat) (s : State) := aluImm (wordAndi d a i) d a (immS 14 i) (fun x y => x &&& y) s
/-- `ori` (R112). -/
def execOri (d a i : Nat) (s : State) := aluImm (wordOri d a i) d a (immZ 14 i) (fun x y => x ||| y) s
/-- `xori` (R112). -/
def execXori (d a i : Nat) (s : State) := aluImm (wordXori d a i) d a (immZ 14 i) (fun x y => x ^^^ y) s
/-- `shli` (R112). -/
def execShli (d a n : Nat) (s : State) := alu1 (wordShli d a n) d a (fun x => x <<< n) s
/-- `shri` (R112). -/
def execShri (d a n : Nat) (s : State) := alu1 (wordShri d a n) d a (fun x => x >>> n) s
/-- `sari` (R112). -/
def execSari (d a n : Nat) (s : State) := alu1 (wordSari d a n) d a (fun x => x.sshiftRight n) s
/-- `roli` (R112). -/
def execRoli (d a n : Nat) (s : State) := alu1 (wordRoli d a n) d a (fun x => rolW x n) s
/-- `slti` (R112). -/
def execSlti (d a i : Nat) (s : State) := aluImm (wordSlti d a i) d a (immS 13 i) (fun x y => flag (x.slt y)) s
/-- `sltni` (R112). -/
def execSltni (d a i : Nat) (s : State) := aluImm (wordSltni d a i) d a (immZ 13 i) (fun x y => flag (x.ult y)) s

/-- `ldhi` (R49): reads no register, gives an untagged result (R373). -/
def execLdhi (d i : Nat) (s : State) : Host.Outcome State Fault Refusal :=
  onward { word := wordLdhi d i, writes := [d] } (fun s => writeS s d 0 fun _ => sextW 20 i <<< (14 : Nat)) s

end Sys2Proof.Machine
end

