-- ==== Sys2Proof/Machine/VecConv.lean ====
section
/-!
DEFINITION. Major 0x32: the conversions of vector elements, with bx, l4 and quantised formats and the residual form (R100, R140 to
R142).
-/

namespace Sys2Proof.Machine

/-- The scale and zero point of a quantising conversion (R141): the f32 scale pattern and the zero-point byte. -/
structure Quant where
  s : Nat
  z : Nat
  deriving DecidableEq, Repr

/-- Whether a scale is zero, infinite or NaN. -/
def Quant.bad (q : Quant) : Bool :=
  match f32.read q.s with
  | .fin _ n _ => n == 0
  | _ => true

/-- The top code of a quantised type. -/
def Ty.top (t : Ty) : Nat := 2 ^ t.width - 1

/-- Whether a conversion from a float type quantises (R140). -/
def quantises (src dst : Ty) : Bool := src.fmt.isSome && (dst == .n8 || dst == .n4)

/-- A quotient of two finite values as a fraction: numerator with sign, denominator positive. -/
def ratDiv (x y : FVal) : Int × Nat :=
  let a := x.dy.rat
  let b := y.dy.rat
  (if b.1 < 0 then -(a.1 * b.2) else a.1 * b.2, a.2 * b.1.natAbs)

/-- A value into a quantised code (R140, R141). -/
def quantise (mode : Nat) (q : Quant) (top : Nat) (v : FVal) : Nat × Nat :=
  if q.bad then (q.z, fNV) else
  match v with
  | .nan _ => (q.z, fNV)
  | .inf neg => (if neg then 0 else top, fNV)
  | .fin _ _ _ =>
    let r := ratDiv v (f32.read q.s)
    let (n, ix) := toIntRound mode r.1 r.2
    let c := n + q.z
    if c < 0 then (0, fOF + fNX) else if c > top then (top, fOF + fNX) else (c.toNat, if ix then fNX else 0)

/-- The range of an integer type. -/
def Ty.lo (t : Ty) : Int := if t.signed then -(2 ^ (t.width - 1) : Nat) else 0
/-- The top of the range. -/
def Ty.hi (t : Ty) : Int := if t.signed then (2 ^ (t.width - 1) : Nat) - 1 else (2 ^ t.width : Nat) - 1

/-- A float into l4 (R140). -/
def floatToL4 (mode : Nat) (v : FVal) : Nat × Nat :=
  match v with
  | .nan _ => (0, fNV)
  | .inf neg => (if neg then 15 else 7, fNV)
  | .fin neg _ _ => let r := v.dy.rat; toL4 mode neg r.1.natAbs r.2

/-- One element from a source type into a destination type (R140): the pattern and the flags. `E` is bxe. -/
def convElem (src dst : Ty) (mode : Nat) (E : Int) (q : Quant) (x : Nat) : FR :=
  match src.fmt with
  | some f =>
    let v := f.read x
    match dst.fmt with
    | some g => sumRound g mode [v] 1 1
    | none =>
      match dst with
      | .bx => let r := convertBx mode E v; ⟨wrapN 32 r.1, r.2⟩
      | .l4 => let r := floatToL4 mode v; ⟨r.1, r.2⟩
      | .n8 => let r := quantise mode q 255 v; ⟨r.1, r.2⟩
      | .n4 => let r := quantise mode q 15 v; ⟨r.1, r.2⟩
      | _ => let r := floatToInt mode dst.lo dst.hi v; ⟨wrapN dst.width r.1, r.2⟩
  | none =>
    let z := src.int x
    match dst.fmt with
    | some g =>
      let y : Dy := ⟨z, if src = .s32 then E else 0⟩
      y.round g mode false
    | none =>
      match dst with
      | .bx => let r := intToInt (-bxMax) bxMax z; ⟨wrapN 32 r.1, r.2⟩
      | .l4 =>
        let r := toL4 mode (z < 0) z.natAbs 1
        ⟨r.1, if r.2 = fOF + fNX then fOF else r.2⟩
      | _ => let r := intToInt dst.lo dst.hi z; ⟨wrapN dst.width r.1, r.2⟩

/-- The residual x − y rounded once to f32 in the narrowing mode, an exact zero as +0 (R100); a difference that R100 calls exact and f32
cannot hold is rounded so as well (L22). -/
def residual (mode : Nat) (x y : Dy) : Nat := (roundQ f32 mode (x.add y.neg).rat.1 (x.add y.neg).rat.2 false).bits

/-- One element of `vcef` (R100): the narrowed value, the residual, the flags. -/
def cefElem (dst : Ty) (mode : Nat) (E : Int) (q : Quant) (x : Nat) : Nat × Nat × Nat :=
  let v := f32.read x
  match dst.fmt with
  | some g =>
    match v with
    | .nan sn => (g.nan, f32.nan, if sn then fNV else 0)
    | .inf neg => (g.sign neg g.infBits, 0, 0)
    | .fin neg _ _ =>
      let r := sumRound g mode [v] 1 1
      let ovf := bitOf r.flags 2
      let y := if ovf then g.sign neg (g.infBits - 1) else r.bits
      let ρ := residual mode v.dy (g.read y).dy
      let ne := !(g.read y).eqv v
      let uf := if dst = .f16 then r.flags &&& fUF else 0
      (y, ρ, if ovf then fOF + fNX else (if ne then fNX else 0) ||| uf)
  | none =>
    if dst = .bx then
      match v with
      | .nan _ => (0, f32.nan, fNV)
      | .inf neg => (wrapN 32 (if neg then -bxMax else bxMax), 0, fNV)
      | .fin _ _ _ =>
        let r := convertBx mode E v
        let ρ := residual mode v.dy ⟨r.1, E⟩
        let exact := (v.dy.add (Dy.neg ⟨r.1, E⟩)).z == 0
        (wrapN 32 r.1, ρ, if bitOf r.2 2 then fOF + fNX else if exact then 0 else fNX)
    else if q.bad then (q.z, if v.isNan then f32.nan else if x % 2 ^ 31 = 0 then 0 else x, fNV)
    else
      match v with
      | .nan _ => (q.z, f32.nan, fNV)
      | .inf neg => (if neg then 0 else 15, 0, fNV)
      | .fin _ _ _ =>
        let r := quantise mode q 15 v
        let back := (f32.read q.s).dy.mul (Dy.ofInt ((r.1 : Int) - q.z))
        let ρ := residual mode v.dy back
        let exact := (v.dy.add back.neg).z == 0
        (r.1, ρ, (if bitOf r.2 2 then fOF else 0) ||| (if exact then 0 else fNX))

/-- The bx exponent field of `sr.fst` (R92). -/
def bxe (fst : Word) : Int := sxt 8 (fld fst 23 16)

/-- The scale and zero point read from a register (R141). -/
def quantOf (v : Vec) : Quant := ⟨(lane v 0).toNat, (lane v 1).toNat % 256⟩

/-- Whether a zero-point byte is not allowed for n4 (R91). -/
def badZero (dst : Ty) (q : Quant) : Bool := dst == .n4 && decide (16 ≤ q.z)

/-- Place converted elements: `pick` gives, for a destination element, the source element that it comes from (register, element). -/
def convPlace (src dst : Ty) (mode : Nat) (E : Int) (q : Quant) (p : Lane) (pick : Nat → Option (List Nat × Nat)) : VRes :=
  let rs := (List.range dst.count).map fun i =>
    match pick i with
    | some (xs, j) => if governs p src.width j then convElem src dst mode E q (at0 xs j) else ⟨0, 0⟩
    | none => ⟨0, 0⟩
  vres dst.width rs

/-- A conversion with source register a, the next register where it also reads that, and one destination; v47 has no next register. -/
def vconv (w d a x p t : Nat) (two : Bool) (pick : Ty → Ty → List Nat → List Nat → Nat → Option (List Nat × Nat)) (s : State) :
    Host.Outcome State Fault Refusal :=
  let src := tyOf t
  let dst := tyOf x
  vexec w d a x (fun d a _ =>
      { srcs := [(1, a)] ++ (if two || quantises src dst then [(9, a + 1)] else []), pr := p, dst := .vec d })
    (fun fst vs pr _ =>
      let q := quantOf (srcAt vs 1)
      let r := convPlace src dst (drm fst) (bxe fst) q pr
        (pick src dst (elemsOf src.width (srcAt vs 0)) (elemsOf src.width (srcAt vs 1)))
      { r with layout := quantises src dst && badZero dst q }) s
    (fun _ a => (two || quantises src dst) && a == 47)

/-- `vcvt`: the low elements. -/
def execVcvt (d a x p t : Nat) (s : State) :=
  vconv (wordVcvt d a x p t) d a x p t false
    (fun src dst xs _ i => if i < min src.count dst.count then some (xs, i) else none) s

/-- `vunp`: the high elements of the source. -/
def execVunp (d a x p t : Nat) (s : State) :=
  vconv (wordVunp d a x p t) d a x p t false (fun _ dst xs _ i => some (xs, dst.count + i)) s

/-- `vpak`: two registers into one. -/
def execVpak (d a x p t : Nat) (s : State) :=
  vconv (wordVpak d a x p t) d a x p t true
    (fun src _ xs ys i => if i < src.count then some (xs, i) else some (ys, i - src.count)) s

/-- `vcef`: the narrowed value in d, the residual in d + 1. -/
def execVcef (d a x p t : Nat) (s : State) : Host.Outcome State Fault Refusal :=
  let dst := tyOf x
  vexec (wordVcef d a x p t) d a x (fun d a _ =>
      { srcs := [(1, a)] ++ (if dst = .n4 then [(9, a + 1)] else []), pr := p, dst := .pair d (d + 1) })
    (fun fst vs pr _ =>
      let q := quantOf (srcAt vs 1)
      let rs := (elemsOf 32 (srcAt vs 0)).mapIdx fun i e =>
        if governs pr 32 i then cefElem dst (drm fst) (bxe fst) q e else (0, 0, 0)
      { v := ofElems dst.width (rs.map fun r => r.1), v2 := ofLanes (rs.map fun r => r.2.1),
        flags := rs.foldl (fun acc r => acc ||| r.2.2) 0, layout := dst == .n4 && badZero dst q }) s
    (fun d a => d == 47 || (dst == .n4 && a == 47))

end Sys2Proof.Machine
end

