-- ==== Sys2Proof/Machine/Dispatch.lean ====
section
/-!
DEFINITION. The dispatcher: one arm per constructor of `Instr`.
-/

namespace Sys2Proof.Machine

/-- What an instruction or event does to the machine. -/
def exec (i : Instr) (s : State) : Host.Outcome State Fault Refusal :=
  match i with
  | .trap a => Sys2Proof.Machine.execTrap a s
  | .brk => Sys2Proof.Machine.execBrk s
  | .frec d a i0 => Sys2Proof.Machine.execFrec d a i0 s
  | .fres d a f => Sys2Proof.Machine.execFres d a f s
  | .fabt d a => Sys2Proof.Machine.execFabt d a s
  | .icinv m a b => Sys2Proof.Machine.execIcinv m a b s
  | .tlbinv m a b => Sys2Proof.Machine.execTlbinv m a b s
  | .hnop => Sys2Proof.Machine.execHnop s
  | .hext i0 => Sys2Proof.Machine.execHext i0 s
  | .hreg => Sys2Proof.Machine.execHreg s
  | .hjoin o => Sys2Proof.Machine.execHjoin o s
  | .hprio n => Sys2Proof.Machine.execHprio n s
  | .hbank b => Sys2Proof.Machine.execHbank b s
  | .hstall n => Sys2Proof.Machine.execHstall n s
  | .htake f n => Sys2Proof.Machine.execHtake f n s
  | .hlay i0 => Sys2Proof.Machine.execHlay i0 s
  | .hflag => Sys2Proof.Machine.execHflag s
  | .hlsend m => Sys2Proof.Machine.execHlsend m s
  | .htrace i0 => Sys2Proof.Machine.execHtrace i0 s
  | .hres k p => Sys2Proof.Machine.execHres k p s
  | .add d a b => Sys2Proof.Machine.execAdd d a b s
  | .sub d a b => Sys2Proof.Machine.execSub d a b s
  | .mul d a b => Sys2Proof.Machine.execMul d a b s
  | .mulh d a b => Sys2Proof.Machine.execMulh d a b s
  | .mulhn d a b => Sys2Proof.Machine.execMulhn d a b s
  | .div d a b => Sys2Proof.Machine.execDiv d a b s
  | .divn d a b => Sys2Proof.Machine.execDivn d a b s
  | .rem d a b => Sys2Proof.Machine.execRem d a b s
  | .remn d a b => Sys2Proof.Machine.execRemn d a b s
  | .and d a b => Sys2Proof.Machine.execAnd d a b s
  | .or d a b => Sys2Proof.Machine.execOr d a b s
  | .xor d a b => Sys2Proof.Machine.execXor d a b s
  | .andn d a b => Sys2Proof.Machine.execAndn d a b s
  | .orn d a b => Sys2Proof.Machine.execOrn d a b s
  | .shl d a b => Sys2Proof.Machine.execShl d a b s
  | .shr d a b => Sys2Proof.Machine.execShr d a b s
  | .sar d a b => Sys2Proof.Machine.execSar d a b s
  | .rol d a b => Sys2Proof.Machine.execRol d a b s
  | .min d a b => Sys2Proof.Machine.execMin d a b s
  | .max d a b => Sys2Proof.Machine.execMax d a b s
  | .minn d a b => Sys2Proof.Machine.execMinn d a b s
  | .maxn d a b => Sys2Proof.Machine.execMaxn d a b s
  | .slt d a b => Sys2Proof.Machine.execSlt d a b s
  | .sltn d a b => Sys2Proof.Machine.execSltn d a b s
  | .seq d a b => Sys2Proof.Machine.execSeq d a b s
  | .sne d a b => Sys2Proof.Machine.execSne d a b s
  | .clz d a => Sys2Proof.Machine.execClz d a s
  | .ctz d a => Sys2Proof.Machine.execCtz d a s
  | .popc d a => Sys2Proof.Machine.execPopc d a s
  | .sxb d a => Sys2Proof.Machine.execSxb d a s
  | .sxh d a => Sys2Proof.Machine.execSxh d a s
  | .sxw d a => Sys2Proof.Machine.execSxw d a s
  | .zxb d a => Sys2Proof.Machine.execZxb d a s
  | .zxh d a => Sys2Proof.Machine.execZxh d a s
  | .zxw d a => Sys2Proof.Machine.execZxw d a s
  | .bfx d a b => Sys2Proof.Machine.execBfx d a b s
  | .bfi d a b => Sys2Proof.Machine.execBfi d a b s
  | .padd d a b => Sys2Proof.Machine.execPadd d a b s
  | .pchk d a b => Sys2Proof.Machine.execPchk d a b s
  | .addi d a i0 => Sys2Proof.Machine.execAddi d a i0 s
  | .andi d a i0 => Sys2Proof.Machine.execAndi d a i0 s
  | .ori d a i0 => Sys2Proof.Machine.execOri d a i0 s
  | .xori d a i0 => Sys2Proof.Machine.execXori d a i0 s
  | .shli d a n => Sys2Proof.Machine.execShli d a n s
  | .shri d a n => Sys2Proof.Machine.execShri d a n s
  | .sari d a n => Sys2Proof.Machine.execSari d a n s
  | .roli d a n => Sys2Proof.Machine.execRoli d a n s
  | .slti d a i0 => Sys2Proof.Machine.execSlti d a i0 s
  | .sltni d a i0 => Sys2Proof.Machine.execSltni d a i0 s
  | .ldhi d i0 => Sys2Proof.Machine.execLdhi d i0 s
  | .lea d i0 => Sys2Proof.Machine.execLea d i0 s
  | .rdsr d r => Sys2Proof.Machine.execRdsr d r s
  | .wrsr a r => Sys2Proof.Machine.execWrsr a r s
  | .beq a b o => Sys2Proof.Machine.execBeq a b o s
  | .bne a b o => Sys2Proof.Machine.execBne a b o s
  | .blt a b o => Sys2Proof.Machine.execBlt a b o s
  | .bge a b o => Sys2Proof.Machine.execBge a b o s
  | .bltn a b o => Sys2Proof.Machine.execBltn a b o s
  | .bgen a b o => Sys2Proof.Machine.execBgen a b o s
  | .jmp o => Sys2Proof.Machine.execJmp o s
  | .jal o => Sys2Proof.Machine.execJal o s
  | .jr a => Sys2Proof.Machine.execJr a s
  | .ret => Sys2Proof.Machine.execRet s
  | .jalr d a => Sys2Proof.Machine.execJalr d a s
  | .loop a o => Sys2Proof.Machine.execLoop a o s
  | .ld d b z o => Sys2Proof.Machine.execLd d b z o s
  | .lds d b z o => Sys2Proof.Machine.execLds d b z o s
  | .st r0 b z o => Sys2Proof.Machine.execSt r0 b z o s
  | .vld v b p o => Sys2Proof.Machine.execVld v b p o s
  | .vlds v b p r0 => Sys2Proof.Machine.execVlds v b p r0 s
  | .vldb v b p o => Sys2Proof.Machine.execVldb v b p o s
  | .vst v b p o => Sys2Proof.Machine.execVst v b p o s
  | .vsts v b p r0 => Sys2Proof.Machine.execVsts v b p r0 s
  | .vgat v b i0 p => Sys2Proof.Machine.execVgat v b i0 p s
  | .vsct v b i0 p => Sys2Proof.Machine.execVsct v b i0 p s
  | .mget x y z t => Sys2Proof.Machine.execMget x y z t s
  | .mgetv y t => Sys2Proof.Machine.execMgetv y t s
  | .mput x y z => Sys2Proof.Machine.execMput x y z s
  | .mputR x y z => Sys2Proof.Machine.execMputR x y z s
  | .mputv y v => Sys2Proof.Machine.execMputv y v s
  | .mputvR y v => Sys2Proof.Machine.execMputvR y v s
  | .cpy x y z w m => Sys2Proof.Machine.execCpy x y z w m s
  | .cpy2 x y z w m => Sys2Proof.Machine.execCpy2 x y z w m s
  | .cpydl x y z w => Sys2Proof.Machine.execCpydl x y z w s
  | .cpyst x => Sys2Proof.Machine.execCpyst x s
  | .swinit x y z => Sys2Proof.Machine.execSwinit x y z s
  | .swwait x y => Sys2Proof.Machine.execSwwait x y s
  | .swget x y => Sys2Proof.Machine.execSwget x y s
  | .swadd x y => Sys2Proof.Machine.execSwadd x y s
  | .wsld x y z w => Sys2Proof.Machine.execWsld x y z w s
  | .wsldB x y z w => Sys2Proof.Machine.execWsldB x y z w s
  | .wswr x y z w => Sys2Proof.Machine.execWswr x y z w s
  | .wsinfo x => Sys2Proof.Machine.execWsinfo x s
  | .fenceAcq m r0 => Sys2Proof.Machine.execFenceAcq m r0 s
  | .fenceRel m r0 => Sys2Proof.Machine.execFenceRel m r0 s
  | .fenceFull m r0 => Sys2Proof.Machine.execFenceFull m r0 s
  | .fack => Sys2Proof.Machine.execFack s
  | .amoadd d a b m o r0 r => Sys2Proof.Machine.execAmoadd d a b m o r0 r s
  | .amoand d a b m o r0 r => Sys2Proof.Machine.execAmoand d a b m o r0 r s
  | .amoor d a b m o r0 r => Sys2Proof.Machine.execAmoor d a b m o r0 r s
  | .amoxor d a b m o r0 r => Sys2Proof.Machine.execAmoxor d a b m o r0 r s
  | .amomin d a b m o r0 r => Sys2Proof.Machine.execAmomin d a b m o r0 r s
  | .amomax d a b m o r0 r => Sys2Proof.Machine.execAmomax d a b m o r0 r s
  | .amominn d a b m o r0 r => Sys2Proof.Machine.execAmominn d a b m o r0 r s
  | .amomaxn d a b m o r0 r => Sys2Proof.Machine.execAmomaxn d a b m o r0 r s
  | .amoswp d a b m o r0 r => Sys2Proof.Machine.execAmoswp d a b m o r0 r s
  | .amocas d a b m o r0 f r => Sys2Proof.Machine.execAmocas d a b m o r0 f r s
  | .barcfg r0 a x i0 => Sys2Proof.Machine.execBarcfg r0 a x i0 s
  | .barrv r0 d x i0 => Sys2Proof.Machine.execBarrv r0 d x i0 s
  | .barwt r0 a x i0 => Sys2Proof.Machine.execBarwt r0 a x i0 s
  | .barsy r0 x i0 => Sys2Proof.Machine.execBarsy r0 x i0 s
  | .barq r0 d x i0 => Sys2Proof.Machine.execBarq r0 d x i0 s
  | .send c p n t => Sys2Proof.Machine.execSend c p n t s
  | .sendv c v n t => Sys2Proof.Machine.execSendv c v n t s
  | .reply p n t => Sys2Proof.Machine.execReply p n t s
  | .replyv v n t => Sys2Proof.Machine.execReplyv v n t s
  | .bind t e c => Sys2Proof.Machine.execBind t e c s
  | .unbind t => Sys2Proof.Machine.execUnbind t s
  | .done => Sys2Proof.Machine.execDone s
  | .refuse => Sys2Proof.Machine.execRefuse s
  | .msgrd d i0 => Sys2Proof.Machine.execMsgrd d i0 s
  | .jset a b t => Sys2Proof.Machine.execJset a b t s
  | .arrive a b => Sys2Proof.Machine.execArrive a b s
  | .jget d a => Sys2Proof.Machine.execJget d a s
  | .gdef d a => Sys2Proof.Machine.execGdef d a s
  | .gsucc d a b => Sys2Proof.Machine.execGsucc d a b s
  | .gdone d a => Sys2Proof.Machine.execGdone d a s
  | .gqry d a => Sys2Proof.Machine.execGqry d a s
  | .gdoneHold d a => Sys2Proof.Machine.execGdoneHold d a s
  | .wput d a b => Sys2Proof.Machine.execWput d a b s
  | .wtake d a b => Sys2Proof.Machine.execWtake d a b s
  | .wqcfg d a b => Sys2Proof.Machine.execWqcfg d a b s
  | .hcfg h a r0 z t => Sys2Proof.Machine.execHcfg h a r0 z t s
  | .hadv h n => Sys2Proof.Machine.execHadv h n s
  | .hadvP h n => Sys2Proof.Machine.execHadvP h n s
  | .hget d h => Sys2Proof.Machine.execHget d h s
  | .vadd d a b p t => Sys2Proof.Machine.execVadd d a b p t s
  | .vsub d a b p t => Sys2Proof.Machine.execVsub d a b p t s
  | .vmul d a b p t => Sys2Proof.Machine.execVmul d a b p t s
  | .vfma d a b p t => Sys2Proof.Machine.execVfma d a b p t s
  | .vmin d a b p t => Sys2Proof.Machine.execVmin d a b p t s
  | .vmax d a b p t => Sys2Proof.Machine.execVmax d a b p t s
  | .vabs d a p t => Sys2Proof.Machine.execVabs d a p t s
  | .vneg d a p t => Sys2Proof.Machine.execVneg d a p t s
  | .vand d a b p => Sys2Proof.Machine.execVand d a b p s
  | .vor d a b p => Sys2Proof.Machine.execVor d a b p s
  | .vxor d a b p => Sys2Proof.Machine.execVxor d a b p s
  | .vandn d a b p => Sys2Proof.Machine.execVandn d a b p s
  | .vshl d a b p t => Sys2Proof.Machine.execVshl d a b p t s
  | .vshr d a b p t => Sys2Proof.Machine.execVshr d a b p t s
  | .vsar d a b p t => Sys2Proof.Machine.execVsar d a b p t s
  | .vrot d a b p t => Sys2Proof.Machine.execVrot d a b p t s
  | .vceq d a b p t => Sys2Proof.Machine.execVceq d a b p t s
  | .vcne d a b p t => Sys2Proof.Machine.execVcne d a b p t s
  | .vclt d a b p t => Sys2Proof.Machine.execVclt d a b p t s
  | .vcle d a b p t => Sys2Proof.Machine.execVcle d a b p t s
  | .vmov d a p => Sys2Proof.Machine.execVmov d a p s
  | .vsel d a b p t => Sys2Proof.Machine.execVsel d a b p t s
  | .vbc d a p t => Sys2Proof.Machine.execVbc d a p t s
  | .vext d a i0 t => Sys2Proof.Machine.execVext d a i0 t s
  | .vprm d a b p => Sys2Proof.Machine.execVprm d a b p s
  | .vsld d a n p => Sys2Proof.Machine.execVsld d a n p s
  | .vrev d a p t => Sys2Proof.Machine.execVrev d a p t s
  | .vzip d a b p t => Sys2Proof.Machine.execVzip d a b p t s
  | .vrsum d a p t => Sys2Proof.Machine.execVrsum d a p t s
  | .vrmax d a p t => Sys2Proof.Machine.execVrmax d a p t s
  | .vrmin d a p t => Sys2Proof.Machine.execVrmin d a p t s
  | .vrand d a p t => Sys2Proof.Machine.execVrand d a p t s
  | .vrcp d a p t => Sys2Proof.Machine.execVrcp d a p t s
  | .vrsq d a p t => Sys2Proof.Machine.execVrsq d a p t s
  | .vsqt d a p t => Sys2Proof.Machine.execVsqt d a p t s
  | .vexp d a p t => Sys2Proof.Machine.execVexp d a p t s
  | .vlog d a p t => Sys2Proof.Machine.execVlog d a p t s
  | .vtnh d a p t => Sys2Proof.Machine.execVtnh d a p t s
  | .vsgm d a p t => Sys2Proof.Machine.execVsgm d a p t s
  | .vdiv d a b p t => Sys2Proof.Machine.execVdiv d a b p t s
  | .vcvt d a x p t => Sys2Proof.Machine.execVcvt d a x p t s
  | .vcef d a x p t => Sys2Proof.Machine.execVcef d a x p t s
  | .vpak d a x p t => Sys2Proof.Machine.execVpak d a x p t s
  | .vunp d a x p t => Sys2Proof.Machine.execVunp d a x p t s
  | .vtki d a k p t => Sys2Proof.Machine.execVtki d a k p t s
  | .vtkm d a k p t => Sys2Proof.Machine.execVtkm d a k p t s
  | .vtkr d a k p t => Sys2Proof.Machine.execVtkr d a k p t s
  | .vtkn d a k p t => Sys2Proof.Machine.execVtkn d a k p t s
  | .vpop d a p t => Sys2Proof.Machine.execVpop d a p t s
  | .vclz d a p t => Sys2Proof.Machine.execVclz d a p t s
  | .vctz d a p t => Sys2Proof.Machine.execVctz d a p t s
  | .vbrv d a p t => Sys2Proof.Machine.execVbrv d a p t s
  | .cxbind d a x => Sys2Proof.Machine.execCxbind d a x s
  | .cxdrop x => Sys2Proof.Machine.execCxdrop x s
  | .cxdropAll x => Sys2Proof.Machine.execCxdropAll x s
  | .cxinfo d i0 x => Sys2Proof.Machine.execCxinfo d i0 x s
  | .kdef k a b => Sys2Proof.Machine.execKdef k a b s
  | .kinfo d k i0 => Sys2Proof.Machine.execKinfo d k i0 s
  | .kview d a b => Sys2Proof.Machine.execKview d a b s
  | .kd d a r => Sys2Proof.Machine.execKd d a r s
  | .kdt d a r => Sys2Proof.Machine.execKdt d a r s
  | .kspush k => Sys2Proof.Machine.execKspush k s
  | .kacc k r => Sys2Proof.Machine.execKacc k r s
  | .kswait k => Sys2Proof.Machine.execKswait k s
  | .kstar d a r => Sys2Proof.Machine.execKstar d a r s
  | .kstari d a r => Sys2Proof.Machine.execKstari d a r s
  | .kcod d a r => Sys2Proof.Machine.execKcod d a r s
  | .kdot r0 a b r => Sys2Proof.Machine.execKdot r0 a b r s
  | .kwedge d a b r => Sys2Proof.Machine.execKwedge d a b r s
  | .kinterp d a b r => Sys2Proof.Machine.execKinterp d a b r s
  | .kadd d a b r => Sys2Proof.Machine.execKadd d a b r s
  | .ksub d a b r => Sys2Proof.Machine.execKsub d a b r s
  | .kmul d a b r => Sys2Proof.Machine.execKmul d a b r s
  | .ksc d a r0 r => Sys2Proof.Machine.execKsc d a r0 r s
  | .kmov d a => Sys2Proof.Machine.execKmov d a s
  | .kcvtBx d a r => Sys2Proof.Machine.execKcvtBx d a r s
  | .kcvtF32 d a r => Sys2Proof.Machine.execKcvtF32 d a r s
  | .kcvtF16 d a r => Sys2Proof.Machine.execKcvtF16 d a r s
  | .kcvtBf16 d a r => Sys2Proof.Machine.execKcvtBf16 d a r s
  | .kcvtBxFix d a r => Sys2Proof.Machine.execKcvtBxFix d a r s
  | .rmpoke d a b x => Sys2Proof.Machine.execRmpoke d a b x s
  | .rmsplit d a b x => Sys2Proof.Machine.execRmsplit d a b x s
  | .rmflip d a x => Sys2Proof.Machine.execRmflip d a x s
  | .rmclps d a b x => Sys2Proof.Machine.execRmclps d a b x s
  | .rmcmit d a x => Sys2Proof.Machine.execRmcmit d a x s
  | .kxfer d a r => Sys2Proof.Machine.execKxfer d a r s
  | .mmcfg a => Sys2Proof.Machine.execMmcfg a s
  | .mmldb a i0 j => Sys2Proof.Machine.execMmldb a i0 j s
  | .mmzp a => Sys2Proof.Machine.execMmzp a s
  | .mmcnt a b => Sys2Proof.Machine.execMmcnt a b s
  | .mmmul a b => Sys2Proof.Machine.execMmmul a b s
  | .mmdrn => Sys2Proof.Machine.execMmdrn s
  | .mmmrg d a => Sys2Proof.Machine.execMmmrg d a s
  | .mmclr c => Sys2Proof.Machine.execMmclr c s
  | .mmsta d i0 => Sys2Proof.Machine.execMmsta d i0 s
  | .sacc a b r => Sys2Proof.Machine.execSacc a b r s
  | .mmst a b => Sys2Proof.Machine.execMmst a b s
  | .rep n r0 => Sys2Proof.Machine.execRep n r0 s
  | .repend => Sys2Proof.Machine.execRepend s
  | .lcall o g => Sys2Proof.Machine.execLcall o g s
  | .lret => Sys2Proof.Machine.execLret s
  | .laxis d n => Sys2Proof.Machine.execLaxis d n s
  | .laxisTag d r f => Sys2Proof.Machine.execLaxisTag d r f s
  | .lred d a o n f t => Sys2Proof.Machine.execLred d a o n f t s
  | .lsel d a b f n => Sys2Proof.Machine.execLsel d a b f n s
  | .lbc d a f n => Sys2Proof.Machine.execLbc d a f n s
  | .ltag k n => Sys2Proof.Machine.execLtag k n s
  | .lidx d n => Sys2Proof.Machine.execLidx d n s
  | .fopen d a b => Sys2Proof.Machine.execFopen d a b s
  | .fclose a => Sys2Proof.Machine.execFclose a s
  | .fpath a b => Sys2Proof.Machine.execFpath a b s
  | .fstat d a i0 => Sys2Proof.Machine.execFstat d a i0 s
  | .rget f a b p => Sys2Proof.Machine.execRget f a b p s
  | .rput f a b p => Sys2Proof.Machine.execRput f a b p s
  | .ramo f a b o => Sys2Proof.Machine.execRamo f a b o s
  | .fwait a => Sys2Proof.Machine.execFwait a s
  | .rputSw f b p => Sys2Proof.Machine.execRputSw f b p s
  | .messageArrival c k => Sys2Proof.Machine.execMessageArrival c k s
  | .activationStart c => Sys2Proof.Machine.execActivationStart c s
  | .systemHandler c => Sys2Proof.Machine.execSystemHandler c s
  | .remoteOpExecute c k => Sys2Proof.Machine.execRemoteOpExecute c k s
  | .joinArrival c k => Sys2Proof.Machine.execJoinArrival c k s
  | .syncWordRaise c => Sys2Proof.Machine.execSyncWordRaise c s
  | .mgetReply k => Sys2Proof.Machine.execMgetReply k s
  | .memoryNodeRequest k => Sys2Proof.Machine.execMemoryNodeRequest k s
  | .writeAcknowledgement k => Sys2Proof.Machine.execWriteAcknowledgement k s
  | .pageWalk die vf va => Sys2Proof.Machine.execPageWalk die vf va s
  | .farReadFill k => Sys2Proof.Machine.execFarReadFill k s
  | .markerArrival k => Sys2Proof.Machine.execMarkerArrival k s
  | .markerApply die src => Sys2Proof.Machine.execMarkerApply die src s
  | .clockNoteArrival k => Sys2Proof.Machine.execClockNoteArrival k s
  | .copyJobStart die job => Sys2Proof.Machine.execCopyJobStart die job s
  | .copyPartLanded die job n => Sys2Proof.Machine.execCopyPartLanded die job n s
  | .copyJobMnodeStop die job => Sys2Proof.Machine.execCopyJobMnodeStop die job s
  | .rowActivationAlert die => Sys2Proof.Machine.execRowActivationAlert die s
  | .refreshPostponementDue die => Sys2Proof.Machine.execRefreshPostponementDue die s
  | .wsRefreshWindowOpen die => Sys2Proof.Machine.execWsRefreshWindowOpen die s
  | .wsRefreshWindowClose die => Sys2Proof.Machine.execWsRefreshWindowClose die s
  | .copyRecordArrival k => Sys2Proof.Machine.execCopyRecordArrival k s
  | .copyRecordWithdrawal k => Sys2Proof.Machine.execCopyRecordWithdrawal k s
  | .seamSend c => Sys2Proof.Machine.execSeamSend c s
  | .seamArrival k => Sys2Proof.Machine.execSeamArrival k s
  | .seamArrivalResend c => Sys2Proof.Machine.execSeamArrivalResend c s
  | .seamTimeout c x => Sys2Proof.Machine.execSeamTimeout c x s
  | .hstallExpiry c x => Sys2Proof.Machine.execHstallExpiry c x s
  | .parkedActivationSave c => Sys2Proof.Machine.execParkedActivationSave c s
  | .preemptBoundary c x => Sys2Proof.Machine.execPreemptBoundary c x s
  | .preemptImmediate c x => Sys2Proof.Machine.execPreemptImmediate c x s
  | .contextRestore c x => Sys2Proof.Machine.execContextRestore c x s
  | .coreMigration c dst => Sys2Proof.Machine.execCoreMigration c dst s
  | .countEngineStep o => Sys2Proof.Machine.execCountEngineStep o s
  | .serviceEngineStep o => Sys2Proof.Machine.execServiceEngineStep o s
  | .mergeSetArrival k => Sys2Proof.Machine.execMergeSetArrival k s
  | .launchRegistration vf obj words spads => Sys2Proof.Machine.execLaunchRegistration vf obj words spads s
  | .nodePlacement die node c => Sys2Proof.Machine.execNodePlacement die node c s
  | .nodeDispatch die node => Sys2Proof.Machine.execNodeDispatch die node s
  | .nodeCompletion die node => Sys2Proof.Machine.execNodeCompletion die node s
  | .hostMessage m => Sys2Proof.Machine.execHostMessage m s
  | .vfCreate v => Sys2Proof.Machine.execVfCreate v s
  | .hostDebugCommand vf c ref abort => Sys2Proof.Machine.execHostDebugCommand vf c ref abort s
  | .attestationQuote who nonce => Sys2Proof.Machine.execAttestationQuote who nonce s
  | .portModeWrite v => Sys2Proof.Machine.execPortModeWrite v s
  | .registerWrite r v => Sys2Proof.Machine.execRegisterWrite r v s
  | .runClockCommand die clk => Sys2Proof.Machine.execRunClockCommand die clk s
  | .holdCommand die => Sys2Proof.Machine.execHoldCommand die s
  | .keepCommand die => Sys2Proof.Machine.execKeepCommand die s
  | .offCommand die => Sys2Proof.Machine.execOffCommand die s
  | .stackSelfRefreshCommand die on => Sys2Proof.Machine.execStackSelfRefreshCommand die on s
  | .dieDrainDone die => Sys2Proof.Machine.execDieDrainDone die s
  | .thermalWarning die => Sys2Proof.Machine.execThermalWarning die s
  | .thermalAlert die => Sys2Proof.Machine.execThermalAlert die s
  | .thermalTrip die => Sys2Proof.Machine.execThermalTrip die s
  | .powerGood die img => Sys2Proof.Machine.execPowerGood die img s
  | .recoveryDoorbell length => Sys2Proof.Machine.execRecoveryDoorbell length s
  | .stackTrained die => Sys2Proof.Machine.execStackTrained die s
  | .stackTrainTimeout die => Sys2Proof.Machine.execStackTrainTimeout die s
  | .matrixCalibrated die => Sys2Proof.Machine.execMatrixCalibrated die s
  | .portTrainingDone port ok => Sys2Proof.Machine.execPortTrainingDone port ok s
  | .coreReset c => Sys2Proof.Machine.execCoreReset c s
  | .packageReset => Sys2Proof.Machine.execPackageReset s
  | .memoryNodeReset die => Sys2Proof.Machine.execMemoryNodeReset die s
  | .fabricPacketArrival p => Sys2Proof.Machine.execFabricPacketArrival p s
  | .flaggedApply die k => Sys2Proof.Machine.execFlaggedApply die k s
  | .fabricAckArrival a => Sys2Proof.Machine.execFabricAckArrival a s
  | .rgetDataArrival a data => Sys2Proof.Machine.execRgetDataArrival a data s
  | .ramoReply a old => Sys2Proof.Machine.execRamoReply a old s
  | .packetTrim die flow pkt => Sys2Proof.Machine.execPacketTrim die flow pkt s
  | .flowRetryTimeout die flow => Sys2Proof.Machine.execFlowRetryTimeout die flow s
  | .laceFlitReceive port f => Sys2Proof.Machine.execLaceFlitReceive port f s
  | .laceReplayRequest port seq => Sys2Proof.Machine.execLaceReplayRequest port seq s
  | .laneScoreInterval port counts => Sys2Proof.Machine.execLaneScoreInterval port counts s
  | .readReplyArrival k => Sys2Proof.Machine.execReadReplyArrival k s
  | .markerAcknowledgement k => Sys2Proof.Machine.execMarkerAcknowledgement k s
  | .barrierArrival k => Sys2Proof.Machine.execBarrierArrival k s
  | .weightStoreLanding die job => Sys2Proof.Machine.execWeightStoreLanding die job s
  | .invalidationRequestArrival k => Sys2Proof.Machine.execInvalidationRequestArrival k s
  | .memoryNodeResetRelease die => Sys2Proof.Machine.execMemoryNodeResetRelease die s
  | .coreResetRelease c => Sys2Proof.Machine.execCoreResetRelease c s
  | .powerLoss => Sys2Proof.Machine.execPowerLoss s
  | .objectLoad vf image name place => Sys2Proof.Machine.execObjectLoad vf image name place s
  | .objectUnload vf obj => Sys2Proof.Machine.execObjectUnload vf obj s
  | .pointerKeyReplace vf key => Sys2Proof.Machine.execPointerKeyReplace vf key s
  | .powerTransitionDone die => Sys2Proof.Machine.execPowerTransitionDone die s

end Sys2Proof.Machine
end

