-- ==== Sys2Proof/Machine/Step.lean ====
section
/-!
DEFINITION. One step of the machine: the next turn of the agenda, else one issue of the core whose turn it is.
-/

namespace Sys2Proof.Machine

noncomputable section

/-- The selected context fetches, decodes and executes one word; a fetch fault and a word that is no instruction park it
(R58, R114, R254). -/
def issueCtx (s : State) : Host.Outcome State Fault Refusal :=
  match fetchWord s with
  | .error st => .next (settle 0 s st)
  | .ok (s', w) =>
    match decodeWord w with
    | .ok i => exec i s'
    | .error _ => .next (settle w s' (.trap { code := cILL } s'))

/-- A turn of a core. -/
def issue (s : State) : Host.Outcome State Fault Refusal := s.issueTurn issueCtx

/-- One turn of the agenda (L4). -/
def turn (t : Turn) (s : State) : Host.Outcome State Fault Refusal :=
  match t with
  | .event i => if i.isEvent then exec i s else .next s
  | .core c => issue { s with cur := c }
  | .tick d n => .next (s.tick d n)
  | .hostWrite pa bs => .next (s.hostWrite pa bs)
  | .hostRead vf ring n => .next (s.hostRead vf ring n)
  | .hostCommand c => .next (s.hostCommand c)
  | .windowWrite off bs => .next (s.windowWrite off bs)
  | .upset c ctx reg lane inst mask copy => .next (s.upset c ctx reg lane inst mask copy)
  | .duplicate c ctx reg inst => .next (s.duplicate c ctx reg inst)
  | .credit c ok => .next (s.credit c ok)
  | .pace c n => .next (s.pace c n)
  | .bitError pa fatal => .next (s.bitError pa fatal)
  | .receiverCredit die flow ok => .next (s.receiverCredit die flow ok)
  | .congestion die flow path level => .next (s.congestion die flow path level)

/-- One step. -/
def step (s : State) : Host.Outcome State Fault Refusal :=
  match s.agenda with
  | t :: rest => turn t { s with agenda := rest }
  | [] => issue s

end

/-- The state with a word stored where the next step fetches its instruction (L3): the agenda is cleared, and where no context is
about to fetch, a program is loaded. Every instruction is one word of 32 bits. -/
def State.withFetchWord (s : State) (_nbits w : Nat) : State :=
  let s := { s with agenda := [] }
  match s.fetchAt with
  | some pa => s.placeWord pa w
  | none =>
    let s := s.boot
    match s.fetchAt with
    | some pa => s.placeWord pa w
    | none => s

end Sys2Proof.Machine
end

