-- ==== Sys2Proof/Safety.lean ====
section
/-!
DEFINITION. What a state must satisfy for a run to count as safe, and the words the statements use: when an instruction word is
admitted at issue, and what a next state keeps of the state before.
-/

namespace Sys2Proof.Machine

/-- Every byte memory of the machine is in its canonical form. -/
def State.memoriesWf (s : State) : Bool :=
  s.hbm.wf && s.cores.all (fun e => e.2.spad.wf) && s.dies.all (fun e => e.2.store.wf) && s.octets.all (fun e => e.2.bbuf.wf)
    && s.fw.window.wf

/-- A state is safe when its memories are canonical. -/
def State.Safe (s : State) : Prop := s.memoriesWf = true

/-- A step that stops the machine is a fault or a refusal; both carry a name. -/
def stops (o : Host.Outcome State Fault Refusal) : Bool :=
  match o with
  | .next _ => false
  | .fault _ => true
  | .refused _ => true

/-- The registers a word counts as written before it ends its region (R252). -/
def Ins.early (i : Ins) : List Nat := if i.ends then [] else i.writes

/-- An instruction word is admitted at issue: the context runs an activation; every pending hint attaches to the word (R52); an
open repetition body allows it (R355); its operand values do not make it ILL (R59); no accumulator trap is due (R352); the service
level permits it (R427); its vector registers are allotted (R121); no register it names awaits a merge (R357); it writes no register
that its region read first (R251); and if it acts once only, its operands are untagged (R373). -/
def State.admits (s : State) (i : Ins) : Bool :=
  let op := bits i.word 26 6
  s.ctx.status == .running && accepts s.ctx.hints i.word && repAllows s.ctx i.word && !i.ill
    && (s.ctx.accf.isEmpty || !(op == 0x3B || op == 0x3C)) && svcOk s.level i.word
    && (unallotted s.ctx (i.reads ++ i.writes)).isNone && !(i.reads ++ i.writes).any s.awaits
    && (s.ctx.region.violates i.reads i.early).isNone && (!i.once || s.ctx.tagUnion i.reads == 0)

/-- A context with the register reads and writes of a word counted in its region (R251). -/
def Ctx.counted (x : Ctx) (i : Ins) : Ctx := { x with region := x.region.count i.reads i.early }

/-- The state with a word counted in the region of the executing context. -/
def State.counted (s : State) (i : Ins) : State := s.modCtx fun x => x.counted i

/-- Nothing of the machine differs but the context that executes; and, when its registers took registers of the pool (as y holds
them, beside those that the word took in advance), the duplicates that these discard (R122, R369). -/
def State.onlyCtx (s t : State) : Prop :=
  t = s.setCtx t.ctx ∨
  ∃ y : Ctx, y.regs = t.ctx.regs ∧ y.id = s.ctx.id ∧ y.dups = s.ctx.dups ∧
    (y.held = s.ctx.held ∨ y.held = s.ctx.held.map fun h => { h with pool := 0 }) ∧
    t = ((s.setCtx y).trim s.cur).setCtx t.ctx

/-- A context after an instruction word: every register of the four files but the listed ones (coded as in region masks, R257), the
buffer handles, the special registers, the lift state, and what the activation is are as before. -/
structure Ctx.Keeps (x y : Ctx) (codes : List Nat) : Prop where
  regs : ∀ c, c < 256 → c ∉ codes → y.save c = x.save c
  handles : y.handles = x.handles
  sp : y.sp = x.sp
  lift : y.lift = x.lift
  id : y.id = x.id
  status : y.status = x.status
  prio : y.prio = x.prio
  park : y.park = x.park
  barsy : y.barsy = x.barsy
  pages : y.pages = x.pages
  copyFail : y.copyFail = x.copyFail
  accf : y.accf = x.accf
  bad : ∀ b ∈ y.bad, b ∈ x.bad

/-- A word of registers only: the machine keeps everything but the executing context, that keeps everything but the listed
registers, and the pc takes the given value. -/
def State.moves (s t : State) (codes : List Nat) (pc : Word) : Prop :=
  s.onlyCtx t ∧ s.ctx.Keeps t.ctx codes ∧ t.ctx.pc = pc

/-- The same for a word that goes on to the next. -/
def State.quiet (s t : State) (codes : List Nat) : Prop := s.moves t codes (pc4 s)

/-- The region that begins at a pc when a word ends the region before (R252): the registers the word writes count as written and
are kept. -/
def Ctx.startsRegion (x : Ctx) (writes : List Nat) : Prop :=
  x.region.entry = x.pc ∧ x.region.wmask = maskOf (writes.filter tracked) ∧ x.region.fmask = 0 ∧
  x.region.latched = (writes.filter tracked).map x.save ∧ x.region.oldTags = [] ∧ x.region.handles = []

/-- The state with the region of the executing context ended before a pc (R252), its hints used up. -/
def State.regionEndedAt (s : State) (pc : Word) : State :=
  s.setCtx { s.ctx with hints := {}, region := { entry := pc, lift := s.ctx.lift, rep := s.ctx.rep } }

/-- The machine after a fault (R254, R255, R258): the activation parks with its record, the next park number is its own, its
registers, region and pc are kept, and the core sends itself the type-254 message about it, or the host's event ring for an
activation that such a message started (R261) and for a `brk` under debugging (R268). While a merge of the activation has not written
its register yet the fault waits for it (R254). -/
def State.parksWith (s t : State) (word code detail : Nat) (f1 : Word) (addr write : Bool)
    (debug : Bool := false) : Prop :=
  let nested := s.ctx.id.type == 254
  let rep := if code = 0x01 then none else s.ctx.rep.map fun r => r.j
  let bit (b : Bool) (k : Nat) : Nat := if b then 2 ^ k else 0
  let record : FaultRec :=
    { f0 := BitVec.ofNat 64 (word * 2 ^ 32 + detail * 2 ^ 24 + bit rep.isSome 21 + bit nested 20 + 2 ^ 19 + bit write 17
        + bit addr 16 + code)
      f1 := f1, f2 := BitVec.ofNat 64 (rep.getD 0 * 2 ^ 40), f3 := s.ctx.pc }
  let num := (s.core s.cur).parkCount
  let msg : Msg :=
    { type := 254, vf := s.ctx.id.vf, launch := s.ctx.id.launch, src := BitVec.ofNat 64 s.cur, dst := s.cur
      words := [record.f0, record.f1, record.f2, record.f3, BitVec.ofNat 64 (num * 65536 + s.curCtx), s.ctx.region.entry] }
  if s.merging then t = s.modCtx fun x => { x with wait := .other }
  else
    t.ctx.status = .parked ∧ t.ctx.sp = { s.ctx.sp with fault := record } ∧ t.ctx.park.num = num ∧
    (t.core s.cur).parkCount = (if num = 65535 then 1 else num + 1) ∧
    t.ctx.regs = s.ctx.regs ∧ t.ctx.pc = s.ctx.pc ∧ t.ctx.region = s.ctx.region ∧ t.ctx.lift = s.ctx.lift ∧
    t.ctx.handles = s.ctx.handles ∧ t.hbm = s.hbm ∧ (∀ c, (t.core c).spad = (s.core c).spad) ∧
    t.net = s.net ++ [⟨2, s.cur, if nested || debug then hostNode else s.cur, .msg msg⟩] ∧ t.host = s.host

/-- A register write finds room: the register holds no more instances than before, or the pool still suffices (R369). -/
def State.roomFor (s : State) (y : Ctx) : Prop :=
  y.instRegs ≤ s.ctx.instRegs ∨ (s.setCtx y).poolUsed s.cur ≤ 256

/-! ## Readiness of operands -/

/-- No matrix command of the executing context is accepted and unfinished (R356). -/
def matrixIdle (s : State) : Prop := s.myCommands = []

/-- What a vector destination register holds of results by instance. -/
def vectorResult (s : State) (v S : Nat) (f : Nat → Vec) : Tagged Vec := writeTagged s.ctx.lift (s.ctx.vreg v) S f

/-- Room for the instances of a vector register (R369), whatever their values. -/
def vectorRoom (s : State) (v S : Nat) : Prop := ∀ f : Nat → Vec, s.roomFor (s.ctx.putV v (vectorResult s v S f))

/-- No vector register of the activation has a word of bad parity (R123). -/
def parityClean (s : State) : Prop := s.ctx.bad = []

/-- The tag set in which a vector instruction computes (R370, R372): LIDX brings every pushed axis. -/
def computeTags (s : State) (u : VUse) : Nat :=
  s.ctx.tagUnion u.reads ||| (if u.srcs.any fun p => p.2 == 62 then 2 ^ s.ctx.lift.levels.length - 1 else 0)

/-- A handle operand may be used: its ring has slots of at least 128 bytes (R130, R178). -/
def handleUsable (s : State) (c : Nat) : Prop := (s.ctx.handle (c - 52)).slots ≠ 0 ∧ 128 ≤ (s.ctx.handle (c - 52)).size

/-- A source operand is ready (R43, R44, R128, R130): a register; a link with a neighbour and an entry; a handle with as many filled
slots as it takes; MSG, ZERO or LIDX. -/
def sourceReady (s : State) (p : Nat × Nat) : Prop :=
  p.2 < 48 ∨ p.2 = 60 ∨ p.2 = 61 ∨ p.2 = 62 ∨
  (isPort p.2 = true ∧ (neighbour s.cur p.2).isSome = true ∧ tget (s.core s.cur).fifos [] p.2 ≠ []) ∨
  (isHandle p.2 = true ∧ handleUsable s p.2 ∧ takeOf s.ctx p.2 p.1 ≤ (s.ctx.handle (p.2 - 52)).filled)

/-- A vector destination is ready (R43, R44, R128, R130, R369, R373): a register with room for its instances; untagged, a link whose
neighbour has room for an entry, or a handle with as many free slots as it takes; ZERO. -/
def destReady (s : State) (c S : Nat) : Prop :=
  (c < 48 ∧ vectorRoom s c S) ∨ c = 61 ∨
  (S = 0 ∧ isPort c = true ∧ ∃ n, neighbour s.cur c = some n ∧ (tget (s.core n).fifos [] (opposite c)).length < 4) ∨
  (S = 0 ∧ isHandle c = true ∧ handleUsable s c ∧ takeOf s.ctx c 0 ≤ s.ctx.freeSlots (c - 52))

/-- A vector instruction outside a repetition body may execute now. -/
def vectorReady (s : State) (w : Nat) (u : VUse) : Prop :=
  s.admits { word := w, reads := u.reads, writes := u.dst.regs, ends := u.ends } = true ∧ s.ctx.rep = none ∧ matrixIdle s ∧
  parityClean s ∧ (∀ p ∈ u.srcs, sourceReady s p) ∧ destReady s u.dst.code (computeTags s u)

end Sys2Proof.Machine
end

