-- ==== Sys2Proof/Certificates/Slice0/Obligations.lean ====
section
/-!
DEFINITION. The statements for the provers. Each is built from named clauses, in the words of Sys2Proof/Safety.lean.
-/

/-! ## Scalar instructions -/

namespace Sys2Proof.Machine.Claims

/-- What a register-to-register word needs beyond admission: room for the instances of its result (R369). -/
def scalarRoom (s : State) (d S : Nat) (f : Nat → Word) : Prop :=
  s.roomFor (s.ctx.putS d (writeTagged s.ctx.lift (s.ctx.sreg d) S f))

/-- A scalar result (R41, R370): s0 stays zero; any other destination takes the results of its active instances. -/
def scalarResult (s : State) (d S : Nat) (f : Nat → Word) : Tagged Word :=
  if d = 0 then plain 0 else writeTagged s.ctx.lift (s.ctx.sreg d) S f

/-- A word that writes one scalar register and nothing else: it completes, the register holds the result, the machine keeps
everything else, and the pc goes to the next word. -/
def writesScalar (i : Instr) (s : State) (d S : Nat) (f : Nat → Word) : Prop :=
  ∃ t, exec i s = .next t ∧ t.ctx.sreg d = scalarResult s d S f ∧ s.quiet t [sCode d]

/-- The two-source scalar instructions (R106, R107, R108): destination, sources, and the function of the source values. -/
def twoSource : Instr → Option (Nat × Nat × Nat × (Word → Word → Word))
  | .add d a b => some (d, a, b, fun x y => x + y)
  | .sub d a b => some (d, a, b, fun x y => x - y)
  | .mul d a b => some (d, a, b, fun x y => x * y)
  | .mulh d a b => some (d, a, b, fun x y => BitVec.ofInt 64 (x.toInt * y.toInt / 2 ^ 64))
  | .mulhn d a b => some (d, a, b, fun x y => BitVec.ofNat 64 (x.toNat * y.toNat / 2 ^ 64))
  | .div d a b => some (d, a, b, fun x y => if y = 0 then BitVec.allOnes 64 else x.sdiv y)
  | .divn d a b => some (d, a, b, fun x y => if y = 0 then BitVec.allOnes 64 else x.udiv y)
  | .rem d a b => some (d, a, b, fun x y => if y = 0 then x else x.srem y)
  | .remn d a b => some (d, a, b, fun x y => if y = 0 then x else x.umod y)
  | .and d a b => some (d, a, b, fun x y => x &&& y)
  | .or d a b => some (d, a, b, fun x y => x ||| y)
  | .xor d a b => some (d, a, b, fun x y => x ^^^ y)
  | .andn d a b => some (d, a, b, fun x y => x &&& ~~~ y)
  | .orn d a b => some (d, a, b, fun x y => x ||| ~~~ y)
  | .shl d a b => some (d, a, b, fun x y => x <<< (y.toNat % 64))
  | .shr d a b => some (d, a, b, fun x y => x >>> (y.toNat % 64))
  | .sar d a b => some (d, a, b, fun x y => x.sshiftRight (y.toNat % 64))
  | .rol d a b => some (d, a, b, fun x y => x.rotateLeft (y.toNat % 64))
  | .min d a b => some (d, a, b, fun x y => if x.toInt < y.toInt then x else y)
  | .max d a b => some (d, a, b, fun x y => if x.toInt < y.toInt then y else x)
  | .minn d a b => some (d, a, b, fun x y => if x.toNat < y.toNat then x else y)
  | .maxn d a b => some (d, a, b, fun x y => if x.toNat < y.toNat then y else x)
  | .slt d a b => some (d, a, b, fun x y => if x.toInt < y.toInt then 1 else 0)
  | .sltn d a b => some (d, a, b, fun x y => if x.toNat < y.toNat then 1 else 0)
  | .seq d a b => some (d, a, b, fun x y => if x = y then 1 else 0)
  | .sne d a b => some (d, a, b, fun x y => if x = y then 0 else 1)
  | .bfx d a b => some (d, a, b, fun x y =>
      let pos := y.toNat % 64
      let len := min (y.toNat / 256 % 128) (64 - pos)
      BitVec.ofNat 64 (x.toNat / 2 ^ pos % 2 ^ len))
  | _ => none

/-- The one-source scalar instructions (R106, R112): destination, source, and the function of the source value. -/
def oneSource : Instr → Option (Nat × Nat × (Word → Word))
  | .clz d a => some (d, a, fun x => BitVec.ofNat 64 ((List.range 64).takeWhile fun k => !x.getLsbD (63 - k)).length)
  | .ctz d a => some (d, a, fun x => BitVec.ofNat 64 ((List.range 64).takeWhile fun k => !x.getLsbD k).length)
  | .popc d a => some (d, a, fun x => BitVec.ofNat 64 ((List.range 64).countP fun k => x.getLsbD k))
  | .sxb d a => some (d, a, fun x => (x.setWidth 8).signExtend 64)
  | .sxh d a => some (d, a, fun x => (x.setWidth 16).signExtend 64)
  | .sxw d a => some (d, a, fun x => (x.setWidth 32).signExtend 64)
  | .zxb d a => some (d, a, fun x => (x.setWidth 8).setWidth 64)
  | .zxh d a => some (d, a, fun x => (x.setWidth 16).setWidth 64)
  | .zxw d a => some (d, a, fun x => (x.setWidth 32).setWidth 64)
  | .shli d a n => some (d, a, fun x => x <<< n)
  | .shri d a n => some (d, a, fun x => x >>> n)
  | .sari d a n => some (d, a, fun x => x.sshiftRight n)
  | .roli d a n => some (d, a, fun x => x.rotateLeft n)
  | _ => none

/-- The value of an immediate field of `n` bits under the pending ext hints (R50): each hint puts 22 bits above. -/
def immBits (h : Pending) (n v : Nat) : Nat × Nat :=
  match h.ext with
  | [] => (v, n)
  | [a] => (a * 2 ^ n + v, n + 22)
  | a :: b :: _ => ((a * 2 ^ 22 + b) * 2 ^ n + v, n + 44)

/-- An immediate read as two's complement of its whole width (R48, R50). -/
def immSigned (h : Pending) (n v : Nat) : Word :=
  let (u, m) := immBits h n v
  BitVec.ofInt 64 (if 2 ^ (m - 1) ≤ u then (u : Int) - 2 ^ m else u)

/-- An immediate read as a natural number. -/
def immNatural (h : Pending) (n v : Nat) : Word := BitVec.ofNat 64 (immBits h n v).1

/-- The immediate scalar instructions (R112): destination, source, and the function of the pending hints and the source value. -/
def immediate : Instr → Option (Nat × Nat × (Pending → Word → Word))
  | .addi d a i => some (d, a, fun h x => x + immSigned h 14 i)
  | .andi d a i => some (d, a, fun h x => x &&& immSigned h 14 i)
  | .ori d a i => some (d, a, fun h x => x ||| immNatural h 14 i)
  | .xori d a i => some (d, a, fun h x => x ^^^ immNatural h 14 i)
  | .slti d a i => some (d, a, fun h x => if x.toInt < (immSigned h 13 i).toInt then 1 else 0)
  | .sltni d a i => some (d, a, fun h x => if x.toNat < (immNatural h 13 i).toNat then 1 else 0)
  | _ => none

end Sys2Proof.Machine.Claims

section
open Sys2Proof Sys2Proof.Machine Sys2Proof.Machine.Claims

/-- R106, R107, R108, R370: a two-source scalar instruction writes its function of the sources, instance by instance, and changes
nothing else. -/
def Sys2Proof.Machine.Claims.twoSourceScalarResults : Prop :=
  ∀ (i : Instr) (d a b w : Nat) (f : Word → Word → Word) (s : State),
    twoSource i = some (d, a, b, f) → encode i = some w →
    s.admits { word := w, reads := [a, b], writes := [d] } = true →
    let res (k : Nat) : Word := f (atInst (s.ctx.sreg a) k) (atInst (s.ctx.sreg b) k)
    scalarRoom s d (s.ctx.tagUnion [a, b]) res → writesScalar i s d (s.ctx.tagUnion [a, b]) res

/-- R106, R112, R370: a one-source scalar instruction writes its function of the source and changes nothing else. -/
def Sys2Proof.Machine.Claims.oneSourceScalarResults : Prop :=
  ∀ (i : Instr) (d a w : Nat) (f : Word → Word) (s : State),
    oneSource i = some (d, a, f) → encode i = some w → i.wf = true →
    s.admits { word := w, reads := [a], writes := [d] } = true →
    let res (k : Nat) : Word := f (atInst (s.ctx.sreg a) k)
    scalarRoom s d (s.ctx.tagUnion [a]) res → writesScalar i s d (s.ctx.tagUnion [a]) res

/-- R112, R48, R50, R49: an immediate form joins its immediate with the pending ext hints and writes its function of the source;
`ldhi` writes its sign-extended immediate shifted left by 14, untagged. -/
def Sys2Proof.Machine.Claims.immediateScalarResults : Prop :=
  (∀ (i : Instr) (d a w : Nat) (f : Pending → Word → Word) (s : State),
    immediate i = some (d, a, f) → encode i = some w → i.wf = true →
    s.admits { word := w, reads := [a], writes := [d] } = true →
    let res (k : Nat) : Word := f s.ctx.hints (atInst (s.ctx.sreg a) k)
    scalarRoom s d (s.ctx.tagUnion [a]) res → writesScalar i s d (s.ctx.tagUnion [a]) res) ∧
  (∀ (d i w : Nat) (s : State),
    encode (.ldhi d i) = some w → s.admits { word := w, writes := [d] } = true →
    let res (_ : Nat) : Word := ((BitVec.ofNat 20 i).signExtend 64) <<< 14
    scalarRoom s d 0 res → writesScalar (.ldhi d i) s d 0 res)

/-- R108, R110, R111, R113, R74: `bfi` inserts the field of b's position and length into the old value; `padd` moves a pointer
whose slot and check byte are valid to an offset from 0 to 2^40 − 1; `pchk` answers 0 or the code of the check that fails; `lea`
reads an entry of the executing object's pointer table through the instruction-fetch path, from the line the cache holds or from memory,
whose line the cache then holds; an index beyond the table faults BOUNDS. -/
def Sys2Proof.Machine.Claims.fieldAndPointerResults : Prop :=
  (∀ (d a b : Nat) (s : State),
    s.admits { word := wordBfi d a b, reads := [d, a, b], writes := [d] } = true →
    let res (k : Nat) : Word :=
      let old := atInst (s.ctx.sreg d) k
      let y := atInst (s.ctx.sreg b) k
      let pos := y.toNat % 64
      let len := min (y.toNat / 256 % 128) (64 - pos)
      let x := atInst (s.ctx.sreg a) k
      BitVec.ofNat 64 (old.toNat % 2 ^ pos + x.toNat % 2 ^ len * 2 ^ pos + old.toNat / 2 ^ (pos + len) * 2 ^ (pos + len))
    scalarRoom s d (s.ctx.tagUnion [d, a, b]) res → writesScalar (.bfi d a b) s d (s.ctx.tagUnion [d, a, b]) res) ∧
  (∀ (d a b : Nat) (s : State),
    s.admits { word := wordPadd d a b, reads := [a, b], writes := [d] } = true →
    let S := s.ctx.tagUnion [a, b]
    let delta (k : Nat) : Int := (atInst (s.ctx.sreg b) k).toInt
    let old (k : Nat) : Word := atInst (s.ctx.sreg a) k
    (∀ k ∈ activeOf s.ctx.lift S, (ptrSegment s.myVf (old k)).isSome = true ∧
      0 ≤ (ptrOff (old k) : Int) + delta k ∧ (ptrOff (old k) : Int) + delta k < 2 ^ 40) →
    let res (k : Nat) : Word :=
      if k ∈ activeOf s.ctx.lift S then ptrAt (old k) ((ptrOff (old k) : Int) + delta k).toNat else 0
    scalarRoom s d S res → writesScalar (.padd d a b) s d S res) ∧
  (∀ (d a b : Nat) (s : State),
    s.admits { word := wordPchk d a b, reads := [a, b], writes := [d] } = true →
    let res (k : Nat) : Word :=
      let p := atInst (s.ctx.sreg a) k
      let y := atInst (s.ctx.sreg b) k
      let len := y.toNat % 2 ^ 40
      let perm := y.toNat / 2 ^ 60
      match ptrSegment s.myVf p with
      | none => 0x04
      | some g =>
        if ptrPerm p &&& perm ≠ perm ∨ g.perm &&& perm ≠ perm then 0x04
        else if len ≠ 0 ∧ g.len < ptrOff p + len then 0x05 else 0
    scalarRoom s d (s.ctx.tagUnion [a, b]) res → writesScalar (.pchk d a b) s d (s.ctx.tagUnion [a, b]) res) ∧
  (∀ (d i : Nat) (o : Obj) (s : State),
    s.admits { word := wordLea d i, writes := [d] } = true → s.objOf s.ctx.id.vf s.ctx.pc = some o →
    (o.nptr ≤ i → ∃ t, exec (.lea d i) s = .next t ∧ s.parksWith t (wordLea d i) 0x05 3 (BitVec.ofNat 64 i) false false) ∧
    ∀ va : Nat, i < o.nptr → ptrCheck s.myVf (o.entryAt s.myVf i) permR 8 = .ok va → va % 8 = 0 →
      (∀ line : Nat, tlook (s.core s.cur).icache (lineKey s.ctx.id.vf va) = some line →
        let p : Word := BitVec.ofNat 64 (line / 2 ^ (8 * (va % 64)))
        scalarRoom s d 0 (fun _ => p) → writesScalar (.lea d i) s d 0 fun _ => p) ∧
      (∀ (u : State) (pa : Nat) (nc : Bool), tlook (s.core s.cur).icache (lineKey s.ctx.id.vf va) = none →
        translate s (o.entryAt s.myVf i) va permR false = .ok (u, pa, nc) → s.memUp (homeDie pa) = true →
        s.poison.contains (granuleOf pa) = false →
        let line := s.hbmRead (pa / 64 * 64) 64
        let p : Word := BitVec.ofNat 64 (leNat ((line.drop (va % 64)).take 8))
        scalarRoom s d 0 (fun _ => p) →
        ∃ t, exec (.lea d i) s = .next t ∧ t.ctx.sreg d = scalarResult s d 0 (fun _ => p) ∧ s.ctx.Keeps t.ctx [sCode d] ∧
          t.ctx.pc = pc4 s ∧ t.hbm = s.hbm ∧ t.net = s.net ∧ (∀ c, (t.core c).spad = (s.core c).spad) ∧
          tlook (t.core s.cur).icache (lineKey s.ctx.id.vf va) = some (leNat line)))

/-- The register forms of the scalar instructions with one and with two sources (R106, R107). -/
def Obligations.ScalarResults : Prop := twoSourceScalarResults ∧ oneSourceScalarResults

/-- The scalar instructions with an immediate, the bit-field instructions and the pointer instructions (R49, R108 to R113). -/
def Obligations.ImmediateAndFieldResults : Prop := immediateScalarResults ∧ fieldAndPointerResults

end
/-! ## Hints, control flow, special registers and exceptions -/

namespace Sys2Proof.Machine.Claims

/-- The attaching hints (R51, R52): when a hint of the kind may still pend, and what joins the pending set. -/
def attaching : Instr → Option ((Pending → Prop) × (Pending → Pending))
  | .hext i => some (fun h => h.ext.length < 2, fun h => { h with ext := h.ext ++ [i] })
  | .hjoin o => some (fun h => h.join = none, fun h => { h with join := some o })
  | .hbank b => some (fun h => h.bank = none, fun h => { h with bank := some b })
  | .htake f n => some (fun h => h.take = none, fun h => { h with take := some (f, n) })
  | .hlay i => some (fun h => h.lay = none, fun h => { h with lay := some i })
  | .hflag => some (fun h => h.flag = false, fun h => { h with flag := true })
  | .hlsend m => some (fun h => h.lsend = none, fun h => { h with lsend := some m })
  | _ => none

/-- Outside a repetition body, or within its 16 words (R355). -/
def bodyHasRoom (x : Ctx) : Prop := ∀ r, x.rep = some r → r.words < 16

/-- A signed immediate under the pending ext hints, in words of code. -/
def immInt (h : Pending) (n v : Nat) : Int := (immSigned h n v).toInt

/-- A relative target lies at a pointer a fetch may use (R114). -/
def relative (s : State) (words : Int) (t : Word) : Prop :=
  0 ≤ (ptrOff s.ctx.pc : Int) + 4 * words ∧ (ptrOff s.ctx.pc : Int) + 4 * words < 2 ^ 40 ∧
  t = ptrAt s.ctx.pc ((ptrOff s.ctx.pc : Int) + 4 * words).toNat

/-- The checks of a fetch of 4 bytes with X permission pass at a pointer (R72, R114). -/
def fetchable (s : State) (t : Word) : Prop := ∃ va, ptrCheck s.myVf t permX 4 = .ok va

/-- A pending `hjoin`, if there is one, names a word of the code segment (R119). -/
def joinInCode (s : State) : Prop :=
  ∀ o, s.ctx.hints.join = some o → ∃ j va, relative s o j ∧ ptrCheck s.myVf j 0 4 = .ok va

/-- The conditional branches (R115): operands, offset, condition. -/
def condBranch : Instr → Option (Nat × Nat × Nat × (Word → Word → Prop))
  | .beq a b o => some (a, b, o, fun x y => x = y)
  | .bne a b o => some (a, b, o, fun x y => x ≠ y)
  | .blt a b o => some (a, b, o, fun x y => x.toInt < y.toInt)
  | .bge a b o => some (a, b, o, fun x y => y.toInt ≤ x.toInt)
  | .bltn a b o => some (a, b, o, fun x y => x.toNat < y.toNat)
  | .bgen a b o => some (a, b, o, fun x y => y.toNat ≤ x.toNat)
  | _ => none

/-- The axes an open frame's condition is tagged on (R366). -/
def frameAxes : Frame → Nat
  | .fork _ tags _ _ _ => tags
  | .loop _ _ tags _ => tags

/-- `sr.gaugeN` (R365): the extent, and the levels pushed with it. -/
def gaugeValue (x : Ctx) (n : Nat) : Word :=
  let used := ((List.range 4).map fun l => if (x.lift.levels[l]?.map fun v => v.gauge) = some n then 2 ^ l else 0).sum
  BitVec.ofNat 64 (x.sp.gauge[n]?.getD 1 + used * 2 ^ 16)

/-- The special registers by their numbers, but for `sr.lidx` (R92, R103, R104, R124, R214, R274, R283, R365, R366); a number outside the
table reads zero (R60). That `sr.nslice` reads 0 without a launch is the model's choice (L77). -/
def plainSpecial (s : State) : Nat → Option Word
  | 0x002 => some (match s.ctx.id.launch.bind fun l => tlook s.launches l with
      | some l => BitVec.ofNat 64 l.nslice
      | none => 0)
  | 0x005 => some (BitVec.ofNat 64 ((List.range 8).map fun d => if s.myVf.quads.any fun q => q / 64 == d then 2 ^ d else 0).sum)
  | 0x012 =>
    let k := s.core s.cur
    some (BitVec.ofNat 64 (min k.rpr 65535 * 2 ^ 48 + min k.rnr 65535 * 2 ^ 32 + k.zrd / 1024 % 65536 * 2 ^ 16 + k.zwr / 1024 % 65536))
  | 0x018 => some (((tget (s.core s.cur).slots {} 0).cur.map fun c => BitVec.ofNat 64 c.gen).getD 0)
  | 0x019 => some (((tget (s.core s.cur).slots {} 1).cur.map fun c => BitVec.ofNat 64 c.gen).getD 0)
  | 0x020 => some (gaugeValue s.ctx 0)
  | 0x021 => some (gaugeValue s.ctx 1)
  | 0x022 => some (gaugeValue s.ctx 2)
  | 0x023 => some (gaugeValue s.ctx 3)
  | 0x025 => some (BitVec.ofNat 64 (s.ctx.lift.active.length + s.ctx.lift.frames.foldl (fun m f => m ||| frameAxes f) 0 * 2 ^ 16 +
      s.ctx.lift.frames.length * 2 ^ 24))
  | 0x026 => none
  | 0x000 => some (BitVec.ofNat 64 s.cur)
  | 0x001 => some (BitVec.ofNat 64 s.ctx.id.slice)
  | 0x003 => some (BitVec.ofNat 64 s.curCtx)
  | 0x004 => some (BitVec.ofNat 64 s.ctx.id.vf)
  | 0x006 => some (BitVec.ofNat 64 (s.die s.myDie).pw.level)
  | 0x007 => some (BitVec.ofNat 64 s.fw.pkg)
  | 0x008 => some (BitVec.ofNat 64 (s.die s.myDie).pw.cycle)
  | 0x010 => some s.ctx.sp.fst
  | 0x011 => some s.ctx.sp.kmode
  | 0x024 => some (BitVec.ofNat 64 s.ctx.lift.levels.length)
  | 0x030 => some s.ctx.sp.fault.f0
  | 0x031 => some s.ctx.sp.fault.f1
  | 0x032 => some s.ctx.sp.fault.f2
  | 0x033 => some s.ctx.sp.fault.f3
  | 0x034 => some s.ctx.region.entry
  | 0x040 => some (wsref (s.die s.myDie))
  | _ => some 0

/-- The special registers a `wrsr` may write, with what they then hold (R92, R103, R283, R365). -/
def specialWritten (sp : Special) (v : Word) : Nat → Option Special
  | 0x010 => if v.toNat / 256 % 8 < 4 then some { sp with fst := v &&& 0xFF071F } else none
  | 0x011 => some { sp with kmode := v &&& 0xFFFFFF01 }
  | 0x020 => some { sp with gauge := lset sp.gauge 0 (v.toNat % 2048) }
  | 0x021 => some { sp with gauge := lset sp.gauge 1 (v.toNat % 2048) }
  | 0x022 => some { sp with gauge := lset sp.gauge 2 (v.toNat % 2048) }
  | 0x023 => some { sp with gauge := lset sp.gauge 3 (v.toNat % 2048) }
  | _ => none

/-- No operand value and no other rule of its own makes a word ILL (R59): `repend` closes an open body, `msgrd` names a listed word, the
type of a message or request is at most one ext hint wide, a conversion stands in no repetition body. -/
def operandsLegal (s : State) (i : Instr) (w : Nat) : Prop :=
  (i = .repend → s.ctx.rep ≠ none) ∧ (∀ d n, i = .msgrd d n → n < 9 ∨ 16 ≤ n ∧ n < 32) ∧
  (bits w 26 6 = 0x1B ∨ bits w 26 6 = 0x22 → s.ctx.hints.ext.length < 2) ∧ (bits w 26 6 = 0x32 → s.ctx.rep = none)

end Sys2Proof.Machine.Claims

section
open Sys2Proof Sys2Proof.Machine Sys2Proof.Machine.Claims

/-- R51, R52: an attaching hint joins the pending set when none of its kind pends (two for `hext`), and is ILL otherwise. -/
def Sys2Proof.Machine.Claims.attachingHints : Prop :=
  ∀ (i : Instr) (w : Nat) (free : Pending → Prop) (add : Pending → Pending) (s : State),
    attaching i = some (free, add) → encode i = some w → s.ctx.status = .running → bodyHasRoom s.ctx →
    (free s.ctx.hints → ∃ t, exec i s = .next t ∧ t.ctx.hints = add s.ctx.hints ∧ s.quiet t []) ∧
    (¬ free s.ctx.hints → ∃ t, exec i s = .next t ∧ s.parksWith t w 0x01 0 0 false false)

/-- R51, R53, R54, R55, R32, R60: the hints that act at once. `hnop` and `hres` only advance the pc, `hres` wherever it stands (L75);
`hprio` sets the issue priority; `hstall` starts a stall of its length; `hreg` ends the region where no hint pends outside a repetition
body; `htrace` appends its record to the trace ring where capture is enabled and the ring has room. -/
def Sys2Proof.Machine.Claims.actingHints : Prop :=
  (∀ s : State, s.ctx.status = .running → bodyHasRoom s.ctx → ∃ t, exec .hnop s = .next t ∧ t.ctx.hints = s.ctx.hints ∧ s.quiet t []) ∧
  (∀ (k p : Nat) (s : State), s.ctx.status = .running →
    ∃ t, exec (.hres k p) s = .next t ∧ t.ctx.hints = s.ctx.hints ∧ s.quiet t []) ∧
  (∀ (n : Nat) (s : State), s.ctx.status = .running → bodyHasRoom s.ctx →
    ∃ t, exec (.hprio n) s = .next t ∧ t.ctx.prio = n ∧ t.ctx.regs = s.ctx.regs ∧ s.onlyCtx t ∧ t.ctx.pc = pc4 s) ∧
  (∀ (n : Nat) (s : State), s.ctx.status = .running → bodyHasRoom s.ctx →
    ∃ t, exec (.hstall n) s = .next t ∧ t.ctx.stall = n ∧ s.quiet t []) ∧
  (∀ s : State, s.ctx.status = .running → s.ctx.hints = {} → s.ctx.rep = none →
    ∃ t, exec .hreg s = .next t ∧ s.quiet t [] ∧ t.ctx.startsRegion []) ∧
  (∀ (id : Nat) (s : State), s.ctx.status = .running → bodyHasRoom s.ctx → s.myVf.trace = true →
    let vf := s.ctx.id.vf
    let ring := tget s.host.traces [] vf
    ring.length < tget s.host.traceCounts 64 vf →
    ∃ t, exec (.htrace id) s = .next t ∧ tget t.host.traces [] vf = ring ++ [leBytes 6 (s.die s.myDie).pw.cycle
        ++ [BitVec.ofNat 8 (dieOf s.cur), BitVec.ofNat 8 (rowOf s.cur), BitVec.ofNat 8 (colOf s.cur), BitVec.ofNat 8 s.curCtx]
        ++ leBytes 2 id ++ [0, 0, 0, 0]] ∧
      s.ctx.Keeps t.ctx [] ∧ t.ctx.pc = pc4 s ∧ t.hbm = s.hbm ∧ t.net = s.net)

/-- R114, R115: an ordinary conditional branch (untagged operands) goes to its target when its condition holds and the target
passes the checks of a fetch, and to the next word otherwise; it writes no register. -/
def Sys2Proof.Machine.Claims.conditionalBranches : Prop :=
  ∀ (i : Instr) (a b o w : Nat) (c : Word → Word → Prop) (s : State),
    condBranch i = some (a, b, o, c) → encode i = some w → i.wf = true →
    s.admits { word := w, reads := [a, b] } = true → s.ctx.tagUnion [a, b] = 0 → joinInCode s →
    (c (s.ctx.sv a) (s.ctx.sv b) → ∀ t, relative s (immInt s.ctx.hints 14 o) t → fetchable s t →
      ∃ u, exec i s = .next u ∧ s.moves u [] t) ∧
    (¬ c (s.ctx.sv a) (s.ctx.sv b) → ∃ u, exec i s = .next u ∧ s.quiet u [])

/-- R116, R117, R118: jumps transfer to a target that passes the checks of a fetch; `jal` writes the address of the next word to
s31 and `jalr` to its destination after it has read its target; a register target is a multiple of 4 and untagged; `loop`
decrements, branches while the new value is not zero, and ends the region. -/
def Sys2Proof.Machine.Claims.jumpsAndLoop : Prop :=
  (∀ (o : Nat) (t : Word) (s : State), (Instr.jmp o).wf = true → s.admits { word := wordJmp o } = true →
    relative s (immInt s.ctx.hints 26 o) t → fetchable s t → ∃ u, exec (.jmp o) s = .next u ∧ s.moves u [] t) ∧
  (∀ (o : Nat) (t : Word) (s : State), (Instr.jal o).wf = true → s.admits { word := wordJal o, writes := [31] } = true →
    relative s (immInt s.ctx.hints 26 o) t → fetchable s t → scalarRoom s 31 0 (fun _ => pc4 s) →
    ∃ u, exec (.jal o) s = .next u ∧ u.ctx.sreg 31 = scalarResult s 31 0 (fun _ => pc4 s) ∧ s.moves u [31] t) ∧
  (∀ (a : Nat) (s : State), s.admits { word := wordJr a, reads := [a] } = true → (s.ctx.sreg a).tags = 0 →
    fetchable s (s.ctx.sv a) → ptrOff (s.ctx.sv a) % 4 = 0 → ∃ u, exec (.jr a) s = .next u ∧ s.moves u [] (s.ctx.sv a)) ∧
  (∀ s : State, s.admits { word := wordRet, reads := [31] } = true → (s.ctx.sreg 31).tags = 0 →
    fetchable s (s.ctx.sv 31) → ptrOff (s.ctx.sv 31) % 4 = 0 → ∃ u, exec .ret s = .next u ∧ s.moves u [] (s.ctx.sv 31)) ∧
  (∀ (d a : Nat) (s : State), s.admits { word := wordJalr d a, reads := [a], writes := [d] } = true →
    (s.ctx.sreg a).tags = 0 → fetchable s (s.ctx.sv a) → ptrOff (s.ctx.sv a) % 4 = 0 → scalarRoom s d 0 (fun _ => pc4 s) →
    ∃ u, exec (.jalr d a) s = .next u ∧ u.ctx.sreg d = scalarResult s d 0 (fun _ => pc4 s) ∧
      s.moves u [sCode d] (s.ctx.sv a)) ∧
  (∀ (a o : Nat) (t : Word) (s : State), (Instr.loop a o).wf = true →
    s.admits { word := wordLoop a o, reads := [a], writes := [a], ends := true } = true →
    (s.ctx.sreg a).tags = 0 → joinInCode s →
    let v := s.ctx.sv a - 1
    (v ≠ 0 → relative s (immInt s.ctx.hints 14 o) t ∧ fetchable s t) → scalarRoom s a 0 (fun _ => v) →
    ∃ u, exec (.loop a o) s = .next u ∧ u.ctx.sreg a = scalarResult s a 0 (fun _ => v) ∧
      s.moves u [sCode a] (if v ≠ 0 then t else pc4 s) ∧ u.ctx.startsRegion [sCode a])

/-- R378, R379, R380: a forward branch on tagged operands under an `hjoin` at or after its target. Active instances that agree go
one way; where they differ, those of the target wait in a frame until the join while the others go on, and the region ends. -/
def Obligations.BatchedForwardBranches : Prop :=
  ∀ (i : Instr) (a b o p w va : Nat) (c : Word → Word → Prop) (j t : Word) (s : State),
    condBranch i = some (a, b, o, c) → encode i = some w → i.wf = true →
    s.admits { word := w, reads := [a, b], ends := true } = true →
    let tags := s.ctx.tagUnion [a, b]
    tags ≠ 0 → s.ctx.hints.join = some p → relative s p j → ptrCheck s.myVf j 0 4 = .ok va →
    relative s (immInt s.ctx.hints 14 o) t → ptrOff s.ctx.pc < ptrOff t → ptrOff t ≤ ptrOff j → fetchable s t →
    s.ctx.lift.frames.length < 16 →
    ∀ (taken : Nat → Bool), (∀ k, taken k = true ↔ c (atInst (s.ctx.sreg a) k) (atInst (s.ctx.sreg b) k)) →
    let T := s.ctx.lift.active.filter taken
    let F := s.ctx.lift.active.filter fun k => !taken k
    ∃ u, exec i s = .next u ∧ s.onlyCtx u ∧ u.ctx.regs = s.ctx.regs ∧ u.ctx.startsRegion [] ∧
      u.ctx.pc = (if T ≠ [] ∧ F = [] then t else pc4 s) ∧
      u.ctx.lift = (if T ≠ [] ∧ F ≠ [] then
        { s.ctx.lift with frames := .fork j tags s.ctx.lift.active T t :: s.ctx.lift.frames, active := F } else s.ctx.lift)

/-- R103, R105, R60, R372: `rdsr` writes the special register it names, untagged, and a number outside the table reads zero;
`sr.lidx` is tagged with every pushed axis and holds the packed index of each instance. -/
def Sys2Proof.Machine.Claims.specialRegisterReads : Prop :=
  (∀ (d r : Nat) (v : Word) (s : State), plainSpecial s r = some v →
    s.admits { word := wordRdsr d r, writes := [d] } = true → scalarRoom s d 0 (fun _ => v) →
    writesScalar (.rdsr d r) s d 0 fun _ => v) ∧
  (∀ (d : Nat) (s : State), s.admits { word := wordRdsr d 0x026, writes := [d] } = true →
    let tags := 2 ^ s.ctx.lift.levels.length - 1
    let v (k : Nat) : Word := BitVec.ofNat 64 k
    scalarRoom s d tags v → writesScalar (.rdsr d 0x026) s d tags v)

/-- R92, R103, R105, R252, R283, R365: `wrsr` writes the writable fields of a writable register, leaves every other register, and
ends the region; for a reserved rounding mode, and on a register that is not writable, whatever its source and whatever else holds, it is
ILL (R59). -/
def Sys2Proof.Machine.Claims.specialRegisterWrites : Prop :=
  (∀ (a r : Nat) (s : State),
    s.admits { word := wordWrsr a r, reads := [a], ends := true, once := true } = true →
    (∀ sp, specialWritten s.ctx.sp (s.ctx.sv a) r = some sp →
      ∃ t, exec (.wrsr a r) s = .next t ∧ s.onlyCtx t ∧ t.ctx.sp = sp ∧ t.ctx.regs = s.ctx.regs ∧ t.ctx.lift = s.ctx.lift ∧
        t.ctx.handles = s.ctx.handles ∧ t.ctx.pc = pc4 s ∧ t.ctx.startsRegion []) ∧
    (specialWritten s.ctx.sp (s.ctx.sv a) r = none →
      ∃ t, exec (.wrsr a r) s = .next t ∧ s.parksWith t (wordWrsr a r) 0x01 0 0 false false)) ∧
  (∀ (a r : Nat) (s : State), s.ctx.status = .running → (∀ v, specialWritten s.ctx.sp v r = none) →
    ∃ t, exec (.wrsr a r) s = .next t ∧ s.parksWith t (wordWrsr a r) 0x01 0 0 false false)

/-- R254, R255, R258, R268: `trap` and `brk` end the region after themselves and park with code TRAP; the record holds the word,
the pc and, for `trap`, the register's value. With debugging enabled `brk` reports to the host's event ring instead. Both wait while a
merge of the activation has not written its register. -/
def Obligations.TrapsPark : Prop :=
  (∀ (a : Nat) (s : State), s.admits { word := wordTrap a, reads := [a], ends := true, once := true } = true →
    ∃ t, exec (.trap a) s = .next t ∧ if s.merging then t = s.modCtx fun x => { x with wait := .other }
      else (s.regionEndedAt (pc4 s)).parksWith t (wordTrap a) 0x20 0 (s.ctx.sv a) false false) ∧
  (∀ s : State, s.admits { word := wordBrk, ends := true, once := true } = true →
    ∃ t, exec .brk s = .next t ∧ if s.merging then t = s.modCtx fun x => { x with wait := .other }
      else (s.regionEndedAt (pc4 s)).parksWith t wordBrk 0x20 1 0 false false s.myVf.debug)

/-- R52, R355, R58: a word other than a hint parks with ILL when it does not accept a pending hint, or when the open repetition
body does not allow it; it has no other effect. -/
def Sys2Proof.Machine.Claims.unacceptedHintIsIllegal : Prop :=
  ∀ (i : Instr) (w : Nat) (s : State), encode i = some w → i.wf = true → bits w 26 6 ≠ 0x01 → s.ctx.status = .running →
    (accepts s.ctx.hints w = false ∨ repAllows s.ctx w = false) →
    ∃ t, exec i s = .next t ∧ s.parksWith t w 0x01 0 0 false false

/-- R358, R398, R427: below its service level a word parks with SVC and has no other effect: below level 3 the matrix and fabric
majors 0x3B, 0x3C and 0x3E; below level 2 every major above 0x17 but the vector ones whose type is f32, with field b 0 for major 0x32;
and below level 2 a scalar load or store whose address is a bounded pointer, before any check of the address. -/
def Sys2Proof.Machine.Claims.serviceLevelGuards : Prop :=
  (∀ (i : Instr) (w : Nat) (s : State), encode i = some w → i.wf = true → bits w 26 6 ≠ 0x01 → s.ctx.status = .running →
    accepts s.ctx.hints w = true → repAllows s.ctx w = true → operandsLegal s i w → s.ctx.accf = [] →
    let f32Vector : Prop := 0x28 ≤ bits w 26 6 ∧ bits w 26 6 ≤ 0x34 ∧ w / 4 % 8 = 0 ∧ (bits w 26 6 = 0x32 → w / 256 % 64 = 0)
    ((bits w 26 6 = 0x3B ∨ bits w 26 6 = 0x3C ∨ bits w 26 6 = 0x3E) ∧ s.level < 3 ∨
     (0x18 ≤ bits w 26 6 ∧ ¬ f32Vector ∧ s.level < 2)) →
    ∃ t, exec i s = .next t ∧ s.parksWith t w 0x1A 0 0 false false) ∧
  (∀ (r b z o : Nat) (s : State), s.ctx.tagUnion [r, b] = 0 → isSpad (s.ctx.sv b) = false → s.level < 2 →
    ((Instr.ld r b z o).wf = true → s.admits { word := wordLd r b z o, reads := [b], writes := [r] } = true →
      ∃ t, exec (.ld r b z o) s = .next t ∧ s.parksWith t (wordLd r b z o) 0x1A 0 0 false false) ∧
    ((Instr.lds r b z o).wf = true → s.admits { word := wordLds r b z o, reads := [b], writes := [r] } = true →
      ∃ t, exec (.lds r b z o) s = .next t ∧ s.parksWith t (wordLds r b z o) 0x1A 0 0 false false) ∧
    ((Instr.st r b z o).wf = true → s.admits { word := wordSt r b z o, reads := [r, b] } = true →
      ∃ t, exec (.st r b z o) s = .next t ∧ s.parksWith t (wordSt r b z o) 0x1A 0 0 false false))

/-- R32, R251: an admitted scalar word faults REGVIOL, with the register in `sr.fault1`, when it writes a register that its region
read first; nothing is written. -/
def Sys2Proof.Machine.Claims.readFirstViolationParks : Prop :=
  ∀ (i : Instr) (d a b w c : Nat) (f : Word → Word → Word) (s : State),
    twoSource i = some (d, a, b, f) → encode i = some w → s.ctx.status = .running → accepts s.ctx.hints w = true →
    repAllows s.ctx w = true → svcOk s.level w = true → [a, b, d].any s.awaits = false → d < 32 → a < 32 → b < 32 →
    s.ctx.region.violates [a, b] [d] = some c →
    c = d ∧ d ≠ 0 ∧ ∃ t, exec i s = .next t ∧ s.parksWith t w 0x11 0 (BitVec.ofNat 64 d) false false

/-- The hint words (R50 to R55): those that attach to the next word and those that act at once. -/
def Obligations.Hints : Prop := attachingHints ∧ actingHints

/-- Control transfer (R114 to R118). -/
def Obligations.BranchesJumpsAndLoop : Prop := conditionalBranches ∧ jumpsAndLoop

/-- Reads and writes of the special registers (R103 to R105). -/
def Obligations.SpecialRegisters : Prop := specialRegisterReads ∧ specialRegisterWrites

/-- What parks a word before its own checks: an unaccepted hint, the service level, a violation of read-first (R52, R251, R427). -/
def Obligations.WordsThatMayNotIssue : Prop := unacceptedHintIsIllegal ∧ serviceLevelGuards ∧ readFirstViolationParks

end
/-! ## Memories, loads and stores -/

namespace Sys2Proof.Machine.Claims

/-- Address `a` of the own scratchpad is what base register b, moved by a byte offset, names at an instance, and an access of `n`
bytes with an alignment passes the checks there (R183, R184). -/
def atSpad (s : State) (b : Nat) (off : Int) (n align k a : Nat) : Prop :=
  isSpad (atInst (s.ctx.sreg b) k) = true ∧ ((atInst (s.ctx.sreg b) k).toNat : Int) + off = a ∧ a + n ≤ 786432 ∧ a % align = 0

/-- The machine keeps everything but the executing context and the scratchpad of its core. -/
def spadOnly (s t : State) (m : Memory) : Prop :=
  t = (s.modCore s.cur fun k => { k with spad := m }).setCtx t.ctx

/-- A store of scratchpad bytes: the executing core's scratchpad is the given memory, every other byte of memory, every register and
every special register is as before, and the pc goes on. -/
def storesSpad (s t : State) (m : Memory) : Prop :=
  spadOnly s t m ∧ (t.core s.cur).spad = m ∧ t.hbm = s.hbm ∧ t.net = s.net ∧
  (∀ c, c ≠ s.cur → (t.core c).spad = (s.core c).spad) ∧ s.ctx.Keeps t.ctx [] ∧ t.ctx.pc = pc4 s

/-- The memory after writes of `n` bytes at an address for each active instance, in instance order. -/
def storeAll (s : State) (S : Nat) (addr : Nat → Nat) (bytes : Nat → List Byte) (m : Memory) : Memory :=
  (activeOf s.ctx.lift S).foldl (fun m k => mwrite m (addr k) (bytes k)) m

/-- A pointer operand, untagged, names `n` bytes at a physical address for the given permissions (R72, R184 to R188): the register
holds a pointer, the offset stays in range, the checks pass, the address is a multiple of the size, and translation answers. -/
def atHbm (s : State) (b : Nat) (off : Int) (n perm : Nat) (write : Bool) (ea : Word) (pa : Nat) : Prop :=
  (s.ctx.sreg b).tags = 0 ∧ isSpad (s.ctx.sv b) = false ∧ (ptrSegment s.myVf (s.ctx.sv b)).isSome = true ∧
  ptrMove (s.ctx.sv b) off = some ea ∧ isSpad ea = false ∧ ptrOff ea % n = 0 ∧
  pa % n = 0 ∧ ∃ va u nc, ptrCheck s.myVf ea perm n = .ok va ∧ va % n = 0 ∧ translate s ea va perm write = .ok (u, pa, nc)

/-- Lane l of a vector. -/
def laneOf (v : Vec) (l : Nat) : Lane := BitVec.ofNat 32 (v.toNat / 2 ^ (32 * l))

/-- A load into a vector register: lane by lane from addresses, inactive lanes zero; nothing else changes but the core's zero-flag
counts. -/
def loadsVector (i : Instr) (s : State) (v S p : Nat) (addr : Nat → Nat → Nat) : Prop :=
  ∃ (t : State) (f : Nat → Vec), exec i s = .next t ∧
    (∀ k ∈ activeOf s.ctx.lift S, ∀ l < 32, laneOf (f k) l =
      if (atInst (s.ctx.preg p) k).getLsbD l then BitVec.ofNat 32 (mreadNat (s.core s.cur).spad (addr k l) 4) else 0) ∧
    t.ctx.vreg v = vectorResult s v S f ∧ s.ctx.Keeps t.ctx [vCode v] ∧ t.ctx.pc = pc4 s ∧ t.hbm = s.hbm ∧ t.net = s.net ∧
    ∀ c, (t.core c).spad = (s.core c).spad

/-- The active lanes of a predicate at an instance, with the address each accesses: base plus an offset by lane, in bounds and a
multiple of 4 (R193, R194). -/
def lanesAt (s : State) (b p : Nat) (off : Nat → Nat → Int) (k : Nat) (addr : Nat → Nat) : Prop :=
  isSpad (atInst (s.ctx.sreg b) k) = true ∧ (atInst (s.ctx.sreg b) k).toNat % 4 = 0 ∧
  ∀ l < 32, (atInst (s.ctx.preg p) k).getLsbD l = true →
    ((atInst (s.ctx.sreg b) k).toNat : Int) + off k l = addr l ∧ addr l + 4 ≤ 786432 ∧ addr l % 4 = 0

/-- The scratchpad after a store of the active lanes of a vector, lane by lane, instance by instance. -/
def storeLanesAll (s : State) (S p : Nat) (data : Nat → Vec) (addr : Nat → Nat → Nat) (m : Memory) : Memory :=
  (activeOf s.ctx.lift S).foldl (fun m k =>
    ((List.range 32).filter fun l => (atInst (s.ctx.preg p) k).getLsbD l).foldl
      (fun m l => mwrite m (addr k l) (leBytes 4 (laneOf (data k) l).toNat)) m) m

/-- A store from a vector register or ZERO changes the core's zero-flag counts besides the scratchpad. -/
def storesVector (i : Instr) (s : State) (m : Memory) : Prop :=
  ∃ t, exec i s = .next t ∧ (t.core s.cur).spad = m ∧ (∀ c, c ≠ s.cur → (t.core c).spad = (s.core c).spad) ∧
    t.hbm = s.hbm ∧ t.net = s.net ∧ s.ctx.Keeps t.ctx [] ∧ t.ctx.pc = pc4 s

/-- The placing rule is met (R374): with an untagged address, the data are untagged. -/
def placed (s : State) (srcs dsts : List Nat) : Prop := s.ctx.tagUnion dsts = 0 → s.ctx.tagUnion srcs = 0

end Sys2Proof.Machine.Claims

section
open Sys2Proof Sys2Proof.Machine Sys2Proof.Machine.Claims

/-- R3, R189: the bytes just written read back, every other byte reads as before, and the canonical form of a memory is kept. -/
def Obligations.MemoryReadsWhatWasWritten : Prop :=
  ∀ (m : Memory) (a : Nat) (bs : List Byte), Memory.wf m = true →
    Memory.wf (mwrite m a bs) = true ∧ mread (mwrite m a bs) a bs.length = bs ∧
    (∀ x n, x + n ≤ a ∨ a + bs.length ≤ x → mread (mwrite m a bs) x n = mread m x n) ∧
    ∀ m' : Memory, Memory.wf m' = true → (∀ x, mget m' x = mget (mwrite m a bs) x) → m' = mwrite m a bs

/-- R192, R183, R184, R370: `ld` and `lds` from the own scratchpad write 1, 2, 4 or 8 little-endian bytes, zero- or sign-extended,
for every active instance, and change nothing else. -/
def Sys2Proof.Machine.Claims.scalarLoadsFromScratchpad : Prop :=
  ∀ (d b z o : Nat) (signed : Bool) (addr : Nat → Nat) (s : State),
    let i : Instr := if signed then .lds d b z o else .ld d b z o
    let w := if signed then wordLds d b z o else wordLd d b z o
    let n : Nat := 2 ^ z
    let S := s.ctx.tagUnion [b]
    i.wf = true → s.admits { word := w, reads := [b], writes := [d] } = true → s.ctx.held = none → matrixIdle s →
    (∀ k ∈ activeOf s.ctx.lift S, atSpad s b (immInt s.ctx.hints 11 o * n) n n k (addr k)) →
    let v (k : Nat) : Word :=
      if k ∈ activeOf s.ctx.lift S then
        let x := mreadNat (s.core s.cur).spad (addr k) n
        if signed ∧ 2 ^ (8 * n - 1) ≤ x then BitVec.ofInt 64 ((x : Int) - 2 ^ (8 * n)) else BitVec.ofNat 64 x
      else 0
    scalarRoom s d S v → writesScalar i s d S v

/-- R195, R198: a scalar load through a bounded pointer that has every byte of its one piece at hand writes them, zero- or
sign-extended; before, it sends one read request to the home memory node and holds, having written no register. -/
def Sys2Proof.Machine.Claims.scalarLoadsFromHbm : Prop :=
  (∀ (d b z o id : Nat) (bs : List Byte) (signed : Bool) (ea : Word) (pa : Nat) (s : State),
    let i : Instr := if signed then .lds d b z o else .ld d b z o
    let w := if signed then wordLds d b z o else wordLd d b z o
    let n : Nat := 2 ^ z
    i.wf = true → s.admits { word := w, reads := [b], writes := [d] } = true → 2 ≤ s.level → s.ctx.lift = {} →
    atHbm s b (immInt s.ctx.hints 11 o * n) n permR false ea pa →
    s.ctx.held = some ⟨id, 0, [(0, .data bs)], false, 0, 1, false, [], none⟩ → bs.length = n →
    let x := leNat bs
    let v : Word := if signed ∧ 2 ^ (8 * n - 1) ≤ x then BitVec.ofInt 64 ((x : Int) - 2 ^ (8 * n)) else BitVec.ofNat 64 x
    scalarRoom s d 0 (fun _ => v) → writesScalar i s d 0 fun _ => v) ∧
  (∀ (d b z o : Nat) (signed : Bool) (ea : Word) (pa : Nat) (s : State),
    let i : Instr := if signed then .lds d b z o else .ld d b z o
    let w := if signed then wordLds d b z o else wordLd d b z o
    let n : Nat := 2 ^ z
    i.wf = true → s.admits { word := w, reads := [b], writes := [d] } = true → 2 ≤ s.level → s.ctx.lift = {} →
    atHbm s b (immInt s.ctx.hints 11 o * n) n permR false ea pa → s.ctx.held = none → s.readsOf s.cur < 64 →
    homeDie pa = s.myDie →
    ∃ (t : State) (own : Owner), exec i s = .next t ∧ t.ctx.regs = s.ctx.regs ∧ t.ctx.pc = s.ctx.pc ∧ t.hbm = s.hbm ∧
      t.ctx.held = some ⟨s.serial, 1, [], false, 0, 1, false, [], none⟩ ∧
      t.net = s.net ++ [⟨0, s.cur, memNode s.myDie, .read pa n own s.serial 0 true false⟩])

/-- R192, R374, R370: `st` to the own scratchpad stores the low bytes of its data for every active instance in instance order, and
changes no other byte of memory and no register. -/
def Sys2Proof.Machine.Claims.scalarStoresToScratchpad : Prop :=
  ∀ (r b z o : Nat) (addr : Nat → Nat) (s : State),
    let n : Nat := 2 ^ z
    let S := s.ctx.tagUnion [r, b]
    (Instr.st r b z o).wf = true → s.admits { word := wordSt r b z o, reads := [r, b] } = true → matrixIdle s →
    placed s [r] [b] → (∀ k ∈ activeOf s.ctx.lift S, atSpad s b (immInt s.ctx.hints 12 o * n) n n k (addr k)) →
    let m := storeAll s S addr (fun k => leBytes n (atInst (s.ctx.sreg r) k).toNat) (s.core s.cur).spad
    ∃ t, exec (.st r b z o) s = .next t ∧ storesSpad s t m ∧
      ∀ x, (∀ k ∈ activeOf s.ctx.lift S, x < addr k ∨ addr k + n ≤ x) → mget (t.core s.cur).spad x = mget (s.core s.cur).spad x

/-- R192, R193, R195, R219: `st` through a bounded pointer posts one write request with its bytes to the home memory node, enters it in
the ledger of writes that are not acknowledged, and changes no byte of memory and no register at once. -/
def Sys2Proof.Machine.Claims.scalarStoresToHbm : Prop :=
  ∀ (r b z o : Nat) (ea : Word) (pa : Nat) (s : State),
    let n : Nat := 2 ^ z
    (Instr.st r b z o).wf = true → s.admits { word := wordSt r b z o, reads := [r, b] } = true → 2 ≤ s.level →
    s.ctx.lift = {} → (s.ctx.sreg r).tags = 0 → atHbm s b (immInt s.ctx.hints 12 o * n) n permW true ea pa →
    ∃ t, exec (.st r b z o) s = .next t ∧ t.ctx.regs = s.ctx.regs ∧ t.ctx.pc = pc4 s ∧ t.hbm = s.hbm ∧
      (∀ c, (t.core c).spad = (s.core c).spad) ∧
      t.net = s.net ++ [⟨0, s.cur, memNode (homeDie pa), .write pa ((leBytes n (s.ctx.sv r).toNat).map some) s.serial⟩] ∧
      ∃ a : Word, tlook t.writes s.serial = some
        { own := { s.owner (wordSt r b z o) with addr := a }, home := memNode (homeDie pa), lines := [granuleOf pa], part := s.serial }

/-- R193, R194, R125, R370: the vector loads from the own scratchpad fill the active lanes, consecutively (`vld`), from one word
(`vldb`), at a stride (`vlds`) or at indexed offsets (`vgat`), and zero the others. -/
def Sys2Proof.Machine.Claims.vectorLoadsFromScratchpad : Prop :=
  (∀ (v b p o : Nat) (addr : Nat → Nat) (s : State),
    let S := s.ctx.tagUnion [b, pCode p]
    (Instr.vld v b p o).wf = true →
    s.admits { word := wordVld v b p o, reads := [b, pCode p], writes := [vCode v] } = true → s.ctx.held = none →
    matrixIdle s → (∀ k ∈ activeOf s.ctx.lift S, atSpad s b (immInt s.ctx.hints 9 o * 128) 128 8 k (addr k)) → vectorRoom s v S →
    loadsVector (.vld v b p o) s v S p fun k l => addr k + 4 * l) ∧
  (∀ (v b p o : Nat) (addr : Nat → Nat) (s : State),
    let S := s.ctx.tagUnion [b, pCode p]
    (Instr.vldb v b p o).wf = true →
    s.admits { word := wordVldb v b p o, reads := [b, pCode p], writes := [vCode v] } = true → s.ctx.held = none →
    matrixIdle s → (∀ k ∈ activeOf s.ctx.lift S, atSpad s b (immInt s.ctx.hints 9 o * 4) 4 4 k (addr k)) → vectorRoom s v S →
    loadsVector (.vldb v b p o) s v S p fun k _ => addr k) ∧
  (∀ (v b p st : Nat) (addr : Nat → Nat → Nat) (s : State),
    let S := s.ctx.tagUnion [b, st, pCode p]
    (Instr.vlds v b p st).wf = true →
    s.admits { word := wordVlds v b p st, reads := [b, st, pCode p], writes := [vCode v] } = true → matrixIdle s →
    (∀ k ∈ activeOf s.ctx.lift S, (atInst (s.ctx.sreg st) k).toInt % 4 = 0 ∧
      lanesAt s b p (fun k l => l * (atInst (s.ctx.sreg st) k).toInt) k (addr k)) → vectorRoom s v S →
    loadsVector (.vlds v b p st) s v S p addr) ∧
  (∀ (v b i p : Nat) (addr : Nat → Nat → Nat) (s : State),
    let S := s.ctx.tagUnion [b, vCode i, pCode p]
    (Instr.vgat v b i p).wf = true →
    s.admits { word := wordVgat v b i p, reads := [b, vCode i, pCode p], writes := [vCode v] } = true → matrixIdle s →
    parityClean s →
    (∀ k ∈ activeOf s.ctx.lift S,
      lanesAt s b p (fun k l => ((laneOf (atInst (s.ctx.vreg i) k) l).toNat : Int)) k (addr k)) → vectorRoom s v S →
    loadsVector (.vgat v b i p) s v S p addr)

/-- R193, R194, R125, R374: the vector stores to the own scratchpad store the active lanes of a register or of ZERO, consecutively
(`vst`), at a stride (`vsts`) or at indexed offsets (`vsct`), in ascending lane order, and no other byte of memory. -/
def Sys2Proof.Machine.Claims.vectorStoresToScratchpad : Prop :=
  (∀ (v b p o : Nat) (addr : Nat → Nat) (s : State),
    let S := s.ctx.tagUnion (dataReg v ++ [b, pCode p])
    (Instr.vst v b p o).wf = true → s.admits { word := wordVst v b p o, reads := dataReg v ++ [b, pCode p] } = true →
    matrixIdle s → parityClean s → placed s (dataReg v) [b] →
    (∀ k ∈ activeOf s.ctx.lift S, atSpad s b (immInt s.ctx.hints 9 o * 128) 128 8 k (addr k)) →
    storesVector (.vst v b p o) s
      (storeLanesAll s S p (dataOf s.ctx v) (fun k l => addr k + 4 * l) (s.core s.cur).spad)) ∧
  (∀ (v b p st : Nat) (addr : Nat → Nat → Nat) (s : State),
    let S := s.ctx.tagUnion (dataReg v ++ [b, st, pCode p])
    (Instr.vsts v b p st).wf = true → s.admits { word := wordVsts v b p st, reads := dataReg v ++ [b, st, pCode p] } = true →
    matrixIdle s → parityClean s → placed s (dataReg v) [b, st] →
    (∀ k ∈ activeOf s.ctx.lift S, (atInst (s.ctx.sreg st) k).toInt % 4 = 0 ∧
      lanesAt s b p (fun k l => l * (atInst (s.ctx.sreg st) k).toInt) k (addr k)) →
    storesVector (.vsts v b p st) s (storeLanesAll s S p (dataOf s.ctx v) addr (s.core s.cur).spad)) ∧
  (∀ (v b i p : Nat) (addr : Nat → Nat → Nat) (s : State),
    let S := s.ctx.tagUnion (dataReg v ++ [b, vCode i, pCode p])
    (Instr.vsct v b i p).wf = true → s.admits { word := wordVsct v b i p, reads := dataReg v ++ [b, vCode i, pCode p] } = true →
    matrixIdle s → parityClean s → placed s (dataReg v) [b, vCode i] →
    (∀ k ∈ activeOf s.ctx.lift S,
      lanesAt s b p (fun k l => ((laneOf (atInst (s.ctx.vreg i) k) l).toNat : Int)) k (addr k)) →
    storesVector (.vsct v b i p) s (storeLanesAll s S p (dataOf s.ctx v) addr (s.core s.cur).spad))

/-- Scalar loads from both memories (R192). -/
def Obligations.ScalarLoads : Prop := scalarLoadsFromScratchpad ∧ scalarLoadsFromHbm

/-- Scalar stores to both memories (R192). -/
def Obligations.ScalarStores : Prop := scalarStoresToScratchpad ∧ scalarStoresToHbm

/-- Vector loads from and stores to the scratchpad (R193, R194). -/
def Obligations.VectorScratchpadTransfers : Prop := vectorLoadsFromScratchpad ∧ vectorStoresToScratchpad

end
/-! ## Vector instructions -/

namespace Sys2Proof.Machine.Claims

/-- Element e of width w of a vector (R84, R85). -/
def el (w : Nat) (v : Vec) (e : Nat) : Nat := v.toNat / 2 ^ (w * e) % 2 ^ w

/-- Whether a predicate bit governs element e of width w (R125). -/
def acts (p : Lane) (w e : Nat) : Bool := p.getLsbD (e * w / 32)

/-- A vector instruction that writes a vector destination: destination code, sources (field, code), scalar register, predicate, the
width of the destination's elements, and what element e receives, with its flags, from `sr.fst`, the sources, the predicate and the
scalar of an instance. -/
structure VForm where
  dst : Nat
  srcs : List (Nat × Nat)
  sreg : Option Nat := none
  pr : Nat
  w : Nat
  elem : Word → List Vec → Lane → Word → Nat → FR

/-- The operands of a form. -/
def VForm.use (F : VForm) : VUse := { srcs := F.srcs, sreg := F.sreg, pr := F.pr, dst := .vec F.dst }

/-- What the sources of a form supply at an instance. -/
def VForm.values (F : VForm) (s : State) (k e : Nat) : FR :=
  F.elem s.ctx.sp.fst (F.srcs.map fun p => (sourceOf s p.2).2 k) (atInst (s.ctx.preg F.pr) k)
    (match F.sreg with
      | some n => atInst (s.ctx.sreg n) k
      | none => 0) e

/-- The flags of every element of every active instance, joined (R92, R133). -/
def VForm.flags (F : VForm) (s : State) : Nat :=
  (activeOf s.ctx.lift (computeTags s F.use)).foldl
    (fun acc k => acc ||| (List.range (1024 / F.w)).foldl (fun acc e => acc ||| (F.values s k e).flags) 0) 0

/-- The links named as sources have lost their oldest entry, the others keep theirs (R44, R128). -/
def popped (s t : State) (srcs : List (Nat × Nat)) : Prop :=
  ∀ c, isPort c = true → tget (t.core s.cur).fifos [] c =
    if c ∈ srcs.map (fun p => p.2) then (tget (s.core s.cur).fifos [] c).drop 1 else tget (s.core s.cur).fifos [] c

/-- What every vector instruction keeps: registers but the listed ones, all of the context but the flags it joins, HBM, the network,
other cores' scratchpads, and the pc goes on. -/
def vectorKeeps (s t : State) (codes : List Nat) (flags : Nat) : Prop :=
  (∀ c, c < 256 → c ∉ codes → t.ctx.save c = s.ctx.save c) ∧
  t.ctx.sp = { s.ctx.sp with fst := s.ctx.sp.fst ||| BitVec.ofNat 64 flags } ∧
  t.ctx.lift = s.ctx.lift ∧ t.ctx.handles = s.ctx.handles ∧ t.ctx.id = s.ctx.id ∧ t.ctx.status = s.ctx.status ∧
  t.ctx.pc = pc4 s ∧ t.hbm = s.hbm ∧ t.net = s.net ∧ ∀ c, c ≠ s.cur → (t.core c).spad = (s.core c).spad

/-- A vector instruction of a form completes: each element of each active instance has its value in the destination, a link is pushed
and a handle's oldest free slot written, named links are popped, flags joined, everything else kept. -/
def vectorWrites (i : Instr) (F : VForm) (s : State) : Prop :=
  let S := computeTags s F.use
  ∃ (t : State) (val : Nat → Vec), exec i s = .next t ∧
    (∀ k ∈ activeOf s.ctx.lift S, ∀ e < 1024 / F.w, el F.w (val k) e = (F.values s k e).bits % 2 ^ F.w) ∧
    (F.dst < 48 → t.ctx.vreg F.dst = vectorResult s F.dst S val) ∧
    (∀ n, isPort F.dst = true → neighbour s.cur F.dst = some n →
      tget (t.core n).fifos [] (opposite F.dst) = tget (s.core n).fifos [] (opposite F.dst) ++ [val 0]) ∧
    (t.core s.cur).spad = (if isHandle F.dst then
      mwrite (s.core s.cur).spad (s.ctx.handle (F.dst - 52)).writeAt (vecBytes (val 0)) else (s.core s.cur).spad) ∧
    popped s t F.srcs ∧ vectorKeeps s t (if F.dst < 48 then [vCode F.dst] else []) (F.flags s)

/-- Source number n of a form. -/
def src (vs : List Vec) (n : Nat) : Vec := (nth vs n).getD 0

/-- A form that computes element by element from two sources, inactive elements zero. -/
def elementwise2 (d a b p t : Nat) (f : Ty → Nat → Nat → Nat → FR) : VForm :=
  { dst := d, srcs := [(1, a), (2, b)], pr := p, w := (tyOf t).width
    elem := fun fst vs pr _ e =>
      let w := (tyOf t).width
      if acts pr w e then f (tyOf t) (drm fst) (el w (src vs 0) e) (el w (src vs 1) e) else ⟨0, 0⟩ }

/-- A form that computes element by element from one source. -/
def elementwise1 (d a p t : Nat) (f : Ty → Nat → Nat → FR) : VForm :=
  { dst := d, srcs := [(1, a)], pr := p, w := (tyOf t).width
    elem := fun fst vs pr _ e =>
      let w := (tyOf t).width
      if acts pr w e then f (tyOf t) (drm fst) (el w (src vs 0) e) else ⟨0, 0⟩ }

/-- An integer wrapped to w bits. -/
def wrapTo (w : Nat) (z : Int) : Nat := (z % 2 ^ w).toNat

/-- A floating-point operation on float types, an integer operation that wraps on integer types (R133, R135). -/
def byType (ff : Fmt → Nat → Nat → Nat → FR) (fi : Int → Int → Int) (ty : Ty) (m x y : Nat) : FR :=
  match ty.fmt with
  | some f => ff f m x y
  | none => ⟨wrapTo ty.width (fi (ty.int x) (ty.int y)), 0⟩

/-- Minimum or maximum by type (R83, R135). -/
def chosen (isMax : Bool) (ty : Ty) (x y : Nat) : FR :=
  match ty.fmt with
  | some f => fMinMax f isMax x y
  | none => ⟨if isMax then (if ty.int x < ty.int y then y else x) else (if ty.int x < ty.int y then x else y), 0⟩

/-- A special function on float types (R139). -/
def onFloat (g : Fmt → Nat → Nat → FR) (ty : Ty) (m x : Nat) : FR :=
  match ty.fmt with
  | some f => g f m x
  | none => ⟨0, 0⟩

/-- The arithmetic and special-function instructions (R98, R135, R139). -/
def vectorArith : Instr → Option VForm
  | .vadd d a b p t => some (elementwise2 d a b p t (byType fAdd fun x y => x + y))
  | .vsub d a b p t => some (elementwise2 d a b p t (byType fSub fun x y => x - y))
  | .vmul d a b p t => some (elementwise2 d a b p t (byType fMul fun x y => x * y))
  | .vfma d a b p t => some
      { dst := d, srcs := [(1, a), (2, b)] ++ (if d < 48 then [(0, d)] else []), pr := p, w := (tyOf t).width
        elem := fun fst vs pr _ e =>
          let w := (tyOf t).width
          let x := el w (src vs 0) e
          let y := el w (src vs 1) e
          if acts pr w e then
            match (tyOf t).fmt with
            | some f => fFma f (drm fst) x y (if d < 48 then el w (src vs 2) e else 2 ^ (w - 1))
            | none => ⟨(x * y + (if d < 48 then el w (src vs 2) e else 0)) % 2 ^ w, 0⟩
          else ⟨0, 0⟩ }
  | .vmin d a b p t => some (elementwise2 d a b p t fun ty _ x y => chosen false ty x y)
  | .vmax d a b p t => some (elementwise2 d a b p t fun ty _ x y => chosen true ty x y)
  | .vabs d a p t => some (elementwise1 d a p t fun ty _ x =>
      ⟨if ty.fmt.isSome then x % 2 ^ (ty.width - 1) else wrapTo ty.width |ty.int x|, 0⟩)
  | .vneg d a p t => some (elementwise1 d a p t fun ty _ x =>
      ⟨if ty.fmt.isSome then x ^^^ 2 ^ (ty.width - 1) else wrapTo ty.width (-ty.int x), 0⟩)
  | .vdiv d a b p t => some (elementwise2 d a b p t fun ty m x y => onFloat (fun f m x => fDiv f m x y) ty m x)
  | .vrcp d a p t => some (elementwise1 d a p t (onFloat fRcp))
  | .vrsq d a p t => some (elementwise1 d a p t (onFloat fRsqrt))
  | .vsqt d a p t => some (elementwise1 d a p t (onFloat fSqrt))
  | .vexp d a p t => some (elementwise1 d a p t (onFloat fExp))
  | .vlog d a p t => some (elementwise1 d a p t (onFloat fLog))
  | .vtnh d a p t => some (elementwise1 d a p t (onFloat fTanh))
  | .vsgm d a p t => some (elementwise1 d a p t (onFloat fSgm))
  | _ => none

/-- A form on 32-bit lanes without a type (R126). -/
def laneForm (d a b p : Nat) (f : Nat → Nat → Nat) : VForm :=
  { dst := d, srcs := [(1, a), (2, b)], pr := p, w := 32
    elem := fun _ vs pr _ e => if acts pr 32 e then ⟨f (el 32 (src vs 0) e) (el 32 (src vs 1) e), 0⟩ else ⟨0, 0⟩ }

/-- The bits of an element, lowest first. -/
def bitsOf (w x : Nat) : List Bool := (List.range w).map fun k => Nat.testBit x k

/-- The logic, shift and bit instructions (R135, R144). -/
def vectorBits : Instr → Option VForm
  | .vand d a b p => some (laneForm d a b p fun x y => x &&& y)
  | .vor d a b p => some (laneForm d a b p fun x y => x ||| y)
  | .vxor d a b p => some (laneForm d a b p fun x y => x ^^^ y)
  | .vandn d a b p => some (laneForm d a b p fun x y => x &&& (4294967295 - y))
  | .vshl d a b p t => some (elementwise2 d a b p t fun ty _ x y => ⟨x * 2 ^ (y % ty.width) % 2 ^ ty.width, 0⟩)
  | .vshr d a b p t => some (elementwise2 d a b p t fun ty _ x y => ⟨x / 2 ^ (y % ty.width), 0⟩)
  | .vsar d a b p t => some (elementwise2 d a b p t fun ty _ x y =>
      ⟨wrapTo ty.width ((if 2 ^ (ty.width - 1) ≤ x then (x : Int) - 2 ^ ty.width else x) / 2 ^ (y % ty.width)), 0⟩)
  | .vrot d a b p t => some (elementwise2 d a b p t fun ty _ x y =>
      ⟨x * 2 ^ (y % ty.width) % 2 ^ ty.width + x / 2 ^ (ty.width - y % ty.width), 0⟩)
  | .vpop d a p t => some (elementwise1 d a p t fun ty _ x => ⟨(bitsOf ty.width x).countP id, 0⟩)
  | .vclz d a p t => some (elementwise1 d a p t fun ty _ x => ⟨((bitsOf ty.width x).reverse.takeWhile fun b => !b).length, 0⟩)
  | .vctz d a p t => some (elementwise1 d a p t fun ty _ x => ⟨((bitsOf ty.width x).takeWhile fun b => !b).length, 0⟩)
  | .vbrv d a p t => some (elementwise1 d a p t fun ty _ x =>
      ⟨(List.range ty.width).foldl (fun acc k => acc + if Nat.testBit x (ty.width - 1 - k) then 2 ^ k else 0) 0, 0⟩)
  | _ => none

/-- The move and permute instructions with a vector destination (R137). -/
def vectorMoves : Instr → Option VForm
  | .vmov d a p => some
      { dst := d, srcs := [(1, a)], pr := p, w := 32
        elem := fun _ vs pr _ e => ⟨if acts pr 32 e then el 32 (src vs 0) e else 0, 0⟩ }
  | .vsel d a b p t => some
      { dst := d, srcs := [(1, a), (2, b)], pr := p, w := (tyOf t).width
        elem := fun _ vs pr _ e =>
          let w := (tyOf t).width
          ⟨if acts pr w e then el w (src vs 0) e else el w (src vs 1) e, 0⟩ }
  | .vbc d a p t => some
      { dst := d, srcs := [], sreg := some a, pr := p, w := (tyOf t).width
        elem := fun _ _ pr x e => ⟨if acts pr (tyOf t).width e then x.toNat % 2 ^ (tyOf t).width else 0, 0⟩ }
  | .vprm d a b p => some
      { dst := d, srcs := [(1, a), (2, b)], pr := p, w := 32
        elem := fun _ vs pr _ e => ⟨if acts pr 32 e then el 32 (src vs 0) (el 32 (src vs 1) e % 32) else 0, 0⟩ }
  | .vsld d a n p => some
      { dst := d, srcs := [(1, a)], pr := p, w := 32
        elem := fun _ vs pr _ e => ⟨if acts pr 32 e ∧ e + n < 32 then el 32 (src vs 0) (e + n) else 0, 0⟩ }
  | .vrev d a p t => some
      { dst := d, srcs := [(1, a)], pr := p, w := (tyOf t).width
        elem := fun _ vs pr _ e =>
          let w := (tyOf t).width
          ⟨if acts pr w e then el w (src vs 0) (1024 / w - 1 - e) else 0, 0⟩ }
  | .vzip d a b p t => some
      { dst := d, srcs := [(1, a), (2, b)], pr := p, w := (tyOf t).width
        elem := fun _ vs pr _ e =>
          let w := (tyOf t).width
          ⟨if acts pr w e then el w (src vs (e % 2)) (e / 2) else 0, 0⟩ }
  | _ => none

/-- The compares (R136): operands, predicate, type, the result for values below, equal, above, for a NaN, and whether a quiet NaN
sets NV. -/
def compare : Instr → Option (Nat × Nat × Nat × Nat × Nat × Bool × Bool × Bool × Bool × Bool)
  | .vceq d a b p t => some (d, a, b, p, t, false, true, false, false, false)
  | .vcne d a b p t => some (d, a, b, p, t, true, false, true, true, false)
  | .vclt d a b p t => some (d, a, b, p, t, true, false, false, false, true)
  | .vcle d a b p t => some (d, a, b, p, t, true, true, false, false, true)
  | _ => none

/-- The result of a compare of two elements, with its flags. -/
def compared (ty : Ty) (lt eq gt nan quiet : Bool) (x y : Nat) : Bool × Nat :=
  match ty.fmt with
  | some f =>
    let u := f.read x
    let v := f.read y
    if u.isNan || v.isNan then (nan, if quiet || u.isSnan || v.isSnan then 16 else 0)
    else (if u.lt v then lt else if v.lt u then gt else eq, 0)
  | none => (if ty.int x < ty.int y then lt else if ty.int y < ty.int x then gt else eq, 0)

/-- The order key of a candidate (R143): by value, −0 below +0. -/
def orderKey (ty : Ty) (x : Nat) : Int :=
  if ty.fmt.isSome then (if 2 ^ 31 ≤ x then -((x - 2 ^ 31 : Nat) : Int) - 1 else x) else ty.int x

/-- Whether lane l of a source is a candidate (R143): active and not a NaN. -/
def candidate (ty : Ty) (p : Lane) (v : Vec) (l : Nat) : Bool :=
  p.getLsbD l && !(match ty.fmt with
    | some f => (f.read (el 32 v l)).isNan
    | none => false)

/-- Whether candidate l stands before lane m in the order of R143. -/
def ahead (ty : Ty) (v : Vec) (l m : Nat) : Bool :=
  decide (orderKey ty (el 32 v m) < orderKey ty (el 32 v l)) ||
    (orderKey ty (el 32 v l) == orderKey ty (el 32 v m) && decide (l < m))

/-- The rank of a lane: how many candidates stand before it. -/
def rank (ty : Ty) (p : Lane) (v : Vec) (l : Nat) : Nat :=
  (List.range 32).countP fun m => candidate ty p v m && ahead ty v m l

/-- The candidate of a rank. -/
def withRank (ty : Ty) (p : Lane) (v : Vec) (j : Nat) : Option Nat :=
  (List.range 32).find? fun l => candidate ty p v l && rank ty p v l == j

/-- A top-k form: a signalling NaN among the active lanes sets NV (raised once, at lane 0). -/
def topk (d a p t : Nat) (f : Ty → Lane → Vec → Nat → Nat) : VForm :=
  { dst := d, srcs := [(1, a)], pr := p, w := 32
    elem := fun _ vs pr _ e =>
      let ty := tyOf t
      let v := src vs 0
      ⟨f ty pr v e, if e = 0 ∧ ((List.range 32).any fun l => pr.getLsbD l && (match ty.fmt with
        | some g => (g.read (el 32 v l)).isSnan
        | none => false)) then 16 else 0⟩ }

/-- A reduction: the balanced pairwise tree of R98 over the elements, inactive ones as the identity; element 0 receives it. -/
def reduction (d a p t : Nat) (ident : Ty → Nat) (f : Ty → Nat → Nat → Nat → FR) : VForm :=
  { dst := d, srcs := [(1, a)], pr := p, w := (tyOf t).width
    elem := fun fst vs pr _ e =>
      let ty := tyOf t
      if e = 0 then treeReduce (f ty (drm fst)) 8
        ((List.range (1024 / ty.width)).map fun k => if acts pr ty.width k then el ty.width (src vs 0) k else ident ty)
      else ⟨0, 0⟩ }

/-- The reductions and top-k instructions (R98, R138, R143). -/
def vectorReduce : Instr → Option VForm
  | .vrsum d a p t => some (reduction d a p t (fun ty => if ty.fmt.isSome then 2 ^ (ty.width - 1) else 0) (byType fAdd fun x y => x + y))
  | .vrmax d a p t => some (reduction d a p t (fun ty => match ty.fmt with
      | some f => f.signBit + f.infBits
      | none => if ty.signed then 2 ^ (ty.width - 1) else 0) fun ty _ x y => chosen true ty x y)
  | .vrmin d a p t => some (reduction d a p t (fun ty => match ty.fmt with
      | some f => f.infBits
      | none => if ty.signed then 2 ^ (ty.width - 1) - 1 else 2 ^ ty.width - 1) fun ty _ x y => chosen false ty x y)
  | .vrand d a p t => some (reduction d a p t (fun ty => 2 ^ ty.width - 1) fun _ _ x y => ⟨x &&& y, 0⟩)
  | .vtki d a k p t => some (topk d a p t fun ty pr v j => if j ≤ k then (withRank ty pr v j).getD 0xFFFFFFFF else 0xFFFFFFFF)
  | .vtkm d a k p t => some (topk d a p t fun ty pr v j =>
      if j ≤ k then (match withRank ty pr v j with
        | some l => el 32 v l
        | none => 0) else 0)
  | .vtkr d a k p t => some (topk d a p t fun ty pr v j =>
      if candidate ty pr v j ∧ rank ty pr v j ≤ k then rank ty pr v j else 0xFFFFFFFF)
  | .vtkn d a k p t => some (topk d a p t fun ty pr v j =>
      match withRank ty pr v k with
      | none => 0
      | some c =>
        let key (l : Nat) : Int := orderKey ty (el 32 v l)
        if j = 0 then (List.range 32).countP fun l => candidate ty pr v l && decide (key c < key l)
        else if j = 1 then (List.range 32).countP fun l => candidate ty pr v l && key l == key c
        else 0)
  | _ => none

/-- A conversion form: destination element e comes from source element `pick e` of the source or of the next register, governed by
the source's lane; scale and zero point come from the next register (R140, R141, R142). -/
def conversion (d a x p t : Nat) (two : Bool) (pick : Ty → Ty → Nat → Option (Nat × Nat)) : VForm :=
  { dst := d, pr := p, w := (tyOf x).width
    srcs := [(1, a)] ++ (if two || quantises (tyOf t) (tyOf x) then [(9, a + 1)] else [])
    elem := fun fst vs pr _ e =>
      let sty := tyOf t
      match pick sty (tyOf x) e with
      | some (n, j) =>
        if acts pr sty.width j then convElem sty (tyOf x) (drm fst) (bxe fst) (quantOf (src vs 1)) (el sty.width (src vs n) j)
        else ⟨0, 0⟩
      | none => ⟨0, 0⟩ }

/-- The conversions with one destination (R140, R142). -/
def vectorConvert : Instr → Option (VForm × Nat × Nat × Nat)
  | .vcvt d a x p t => some (conversion d a x p t false fun st dt e =>
      if e < min (1024 / st.width) (1024 / dt.width) then some (0, e) else none, a, x, t)
  | .vunp d a x p t => some (conversion d a x p t false fun _ dt e => some (0, 1024 / dt.width + e), a, x, t)
  | .vpak d a x p t => some (conversion d a x p t true fun st _ e =>
      if e < 1024 / st.width then some (0, e) else some (1, e - 1024 / st.width), a, x, t)
  | _ => none

end Sys2Proof.Machine.Claims

section
open Sys2Proof Sys2Proof.Machine Sys2Proof.Machine.Claims

/-- R98, R125, R133, R135, R139: vector arithmetic and special functions, element by element over the active elements. -/
def Obligations.VectorArithmeticResults : Prop :=
  ∀ (i : Instr) (F : VForm) (w : Nat) (s : State), vectorArith i = some F → encode i = some w → i.wf = true →
    vectorReady s w F.use → vectorWrites i F s

/-- R125, R135, R144: vector logic, shifts and bit instructions. -/
def Sys2Proof.Machine.Claims.vectorBitResults : Prop :=
  ∀ (i : Instr) (F : VForm) (w : Nat) (s : State), vectorBits i = some F → encode i = some w → i.wf = true →
    vectorReady s w F.use → vectorWrites i F s

/-- R125, R137: vector moves and permutes; `vext` writes one element to a scalar register, sign-extended for a signed type. -/
def Sys2Proof.Machine.Claims.vectorMoveResults : Prop :=
  (∀ (i : Instr) (F : VForm) (w : Nat) (s : State), vectorMoves i = some F → encode i = some w → i.wf = true →
    vectorReady s w F.use → vectorWrites i F s) ∧
  (∀ (d a e t : Nat) (s : State), (Instr.vext d a e t).wf = true →
    let u : VUse := { srcs := [(1, a)], dst := .scal d }
    vectorReady s (wordVext d a e t) u →
    let S := computeTags s u
    let v (k : Nat) : Word :=
      if k ∈ activeOf s.ctx.lift S then
        let ty := tyOf t
        let x := el ty.width ((sourceOf s a).2 k) e
        if ty.signed ∧ 2 ^ (ty.width - 1) ≤ x then BitVec.ofInt 64 ((x : Int) - 2 ^ ty.width) else BitVec.ofNat 64 x
      else 0
    scalarRoom s d S v →
    ∃ t', exec (.vext d a e t) s = .next t' ∧ t'.ctx.sreg d = scalarResult s d S v ∧ popped s t' u.srcs ∧
      (t'.core s.cur).spad = (s.core s.cur).spad ∧ vectorKeeps s t' [sCode d] 0)

/-- R125, R136: a compare writes, in its predicate, the result for every active element (for f64 in both bits of the element) and
zero for the inactive ones. -/
def Obligations.VectorCompareResults : Prop :=
  ∀ (i : Instr) (d a b p t w : Nat) (lt eq gt nan quiet : Bool) (s : State),
    compare i = some (d, a, b, p, t, lt, eq, gt, nan, quiet) → encode i = some w → i.wf = true →
    let u : VUse := { srcs := [(1, a), (2, b)], pr := p, dst := .pred d }
    vectorReady s w u →
    let S := computeTags s u
    (∀ f : Nat → Lane, s.roomFor (s.ctx.putP d (writeTagged s.ctx.lift (s.ctx.preg d) S f))) →
    let width := (tyOf t).width
    let r (k e : Nat) : Bool × Nat :=
      if acts (atInst (s.ctx.preg p) k) width e then
        compared (tyOf t) lt eq gt nan quiet (el width ((sourceOf s a).2 k) e) (el width ((sourceOf s b).2 k) e)
      else (false, 0)
    ∃ (t' : State) (f : Nat → Lane), exec i s = .next t' ∧
      (∀ k ∈ activeOf s.ctx.lift S, ∀ l < 32, (f k).getLsbD l = (r k (l * 32 / width)).1) ∧
      t'.ctx.preg d = writeTagged s.ctx.lift (s.ctx.preg d) S f ∧ popped s t' u.srcs ∧
      (t'.core s.cur).spad = (s.core s.cur).spad ∧
      vectorKeeps s t' [pCode d] ((activeOf s.ctx.lift S).foldl
        (fun acc k => acc ||| (List.range (1024 / width)).foldl (fun acc e => acc ||| (r k e).2) 0) 0)

/-- R98, R138, R143: reductions and top-k. That a top-k form raises NV for a signalling NaN among the active lanes only is the model's
choice (L43). -/
def Obligations.VectorReductionResults : Prop :=
  ∀ (i : Instr) (F : VForm) (w : Nat) (s : State), vectorReduce i = some F → encode i = some w → i.wf = true →
    vectorReady s w F.use → vectorWrites i F s

/-- R140, R141, R142, R100: conversions; for a quantising one into n4 the zero point is below 16. `vcef` writes the narrowed values and
the residuals to two registers. -/
def Obligations.VectorConversionResults : Prop :=
  (∀ (i : Instr) (F : VForm) (a x t w : Nat) (s : State), vectorConvert i = some (F, a, x, t) → encode i = some w →
    i.wf = true → vectorReady s w F.use →
    (∀ k ∈ activeOf s.ctx.lift (computeTags s F.use), quantises (tyOf t) (tyOf x) = true → tyOf x = .n4 →
      (quantOf (atInst (s.ctx.vreg (a + 1)) k)).z < 16) → vectorWrites i F s) ∧
  (∀ (d a x p t : Nat) (s : State), (Instr.vcef d a x p t).wf = true → a < 47 →
    let u : VUse := { srcs := [(1, a)] ++ (if tyOf x = .n4 then [(9, a + 1)] else []), pr := p, dst := .pair d (d + 1) }
    s.admits { word := wordVcef d a x p t, reads := u.reads, writes := u.dst.regs } = true → s.ctx.rep = none → matrixIdle s →
    parityClean s → s.ctx.lift = {} → s.ctx.tagUnion u.reads = 0 →
    (tyOf x = .n4 → (quantOf (s.ctx.vreg (a + 1)).val).z < 16) →
    let q := quantOf (if tyOf x = .n4 then (s.ctx.vreg (a + 1)).val else 0)
    let r (e : Nat) : Nat × Nat × Nat :=
      if acts (s.ctx.preg p).val 32 e then
        cefElem (tyOf x) (drm s.ctx.sp.fst) (bxe s.ctx.sp.fst) q (el 32 (s.ctx.vreg a).val e)
      else (0, 0, 0)
    ∃ (y : State) (v v2 : Vec), exec (.vcef d a x p t) s = .next y ∧
      (∀ e < 32, el (tyOf x).width v e = (r e).1 % 2 ^ (tyOf x).width ∧ el 32 v2 e = (r e).2.1 % 2 ^ 32) ∧
      y.ctx.vreg d = plain v ∧ y.ctx.vreg (d + 1) = plain v2 ∧
      vectorKeeps s y [vCode d, vCode (d + 1)] ((List.range 32).foldl (fun acc e => acc ||| (r e).2.2) 0))

/-- The bitwise, shifting and counting vector instructions, and the moving ones (R135, R137, R144). -/
def Obligations.VectorBitAndMoveResults : Prop := vectorBitResults ∧ vectorMoveResults

end
/-! ## Bounded pointers: vector transfers, split-phase reads, puts -/

namespace Sys2Proof.Machine.Claims

/-- A word of memory traffic goes on to the next word: registers, special registers, handles and lift state of the executing context
are as before. -/
def goesOn (s t : State) : Prop :=
  t.ctx.regs = s.ctx.regs ∧ t.ctx.sp = s.ctx.sp ∧ t.ctx.handles = s.ctx.handles ∧ t.ctx.lift = s.ctx.lift ∧ t.ctx.pc = pc4 s

/-- No byte of HBM and of any scratchpad changes. -/
def keepsMemory (s t : State) : Prop := t.hbm = s.hbm ∧ ∀ c, (t.core c).spad = (s.core c).spad

/-- A count of a split-phase request (R202). -/
def countFits (n : Nat) : Prop := 8 ≤ n ∧ n ≤ 65536 ∧ n % 8 = 0

/-- `n` bytes of the own scratchpad, 8-aligned (R183). -/
def spadRange (x : Word) (n : Nat) : Prop := isSpad x = true ∧ x.toNat + n ≤ 786432 ∧ x.toNat % 8 = 0

/-- Bytes cut over translated pieces, granule by granule (R195): physical address and bytes. -/
def cutBytes : List (Nat × Nat × Bool) → List (Option Byte) → List (Nat × List (Option Byte))
  | [], _ => []
  | (pa, n, _) :: rest, bs => granules (n / 64 + 2) pa (bs.take n) ++ cutBytes rest (bs.drop n)

/-- A store to HBM has been posted (R195, R219): one write request for each granule with a byte to store goes to its home memory node on the
request channel, and stands in the ledger of writes not acknowledged, with the issuing context as its owner. -/
def postsWrites (s t : State) (word : Nat) (ps : List (Nat × Nat × Bool)) (bs : List (Option Byte)) : Prop :=
  let parts := (cutBytes ps bs).filter fun g => g.2.any Option.isSome
  (t.net = s.net ++ parts.mapIdx fun k g => ⟨0, s.cur, memNode (homeDie g.1), .write g.1 g.2 (s.serial + k)⟩) ∧
  ∀ k g, parts[k]? = some g → ∃ a : Word, tlook t.writes (s.serial + k) =
    some { own := { s.owner word with addr := a }, home := memNode (homeDie g.1), lines := [granuleOf g.1], part := s.serial }

/-- A put to a core has been posted (R203, R216): its bytes go to the core's remote-op queue on the request channel, and the write stands in
the ledger. -/
def postsPut (s t : State) (word : Nat) (y : Word) (c a : Nat) (bs : List Byte) : Prop :=
  let own := { s.owner word with addr := y }
  t.net = s.net ++ [⟨0, s.cur, c, .remote (.put a bs own s.serial)⟩] ∧
  tlook t.writes s.serial = some { own := own, home := c, lines := [] }

/-- The pieces of a held load have all come, as data that join to the given bytes (R195). -/
def allCame (s : State) (bs : List Byte) : Prop :=
  ∃ (id : Nat) (got : Table Piece) (bss : List (List Byte)), s.ctx.held = some ⟨id, 0, got, false, 0, 1, false, [], none⟩ ∧ (∀ e ∈ got, e.1 < 2048) ∧
    got.map (fun e => e.2) = bss.map Piece.data ∧ bs = bss.flatten

end Sys2Proof.Machine.Claims

section
open Sys2Proof Sys2Proof.Machine Sys2Proof.Machine.Claims

/-- R193, R195, R219: `vld` and `vldb` through a bounded pointer fill the active lanes from the bytes that came; `vst` posts the bytes
of its active lanes to the home memory nodes and changes no memory at once. Operands untagged. -/
def Obligations.VectorTransfersWithHbm : Prop :=
  (∀ (v b p o : Nat) (bs : List Byte) (ea : Word) (s : State),
    (Instr.vld v b p o).wf = true →
    s.admits { word := wordVld v b p o, reads := [b, pCode p], writes := [vCode v] } = true → s.ctx.tagUnion [b, pCode p] = 0 →
    isSpad (s.ctx.sv b) = false → addOffset s (s.ctx.sv b) (immInt s.ctx.hints 9 o * 128) false = .ok ea → isSpad ea = false →
    allCame s bs → vectorRoom s v 0 →
    ∃ (t : State) (f : Nat → Vec), exec (.vld v b p o) s = .next t ∧
      (∀ l < 32, laneOf (f 0) l = if (s.ctx.preg p).val.getLsbD l then BitVec.ofNat 32 (leNat ((bs.drop (4 * l)).take 4)) else 0) ∧
      t.ctx.vreg v = vectorResult s v 0 f ∧ s.ctx.Keeps t.ctx [vCode v] ∧ t.ctx.pc = pc4 s ∧ keepsMemory s t ∧ t.net = s.net) ∧
  (∀ (v b p o : Nat) (bs : List Byte) (ea : Word) (s : State),
    (Instr.vldb v b p o).wf = true →
    s.admits { word := wordVldb v b p o, reads := [b, pCode p], writes := [vCode v] } = true → s.ctx.tagUnion [b, pCode p] = 0 →
    isSpad (s.ctx.sv b) = false → addOffset s (s.ctx.sv b) (immInt s.ctx.hints 9 o * 4) false = .ok ea → isSpad ea = false →
    allCame s bs → vectorRoom s v 0 →
    ∃ (t : State) (f : Nat → Vec), exec (.vldb v b p o) s = .next t ∧
      (∀ l < 32, laneOf (f 0) l = if (s.ctx.preg p).val.getLsbD l then BitVec.ofNat 32 (leNat (bs.take 4)) else 0) ∧
      t.ctx.vreg v = vectorResult s v 0 f ∧ s.ctx.Keeps t.ctx [vCode v] ∧ t.ctx.pc = pc4 s ∧ keepsMemory s t ∧ t.net = s.net) ∧
  (∀ (v b p o : Nat) (ea : Word) (u : State) (ps : List (Nat × Nat × Bool)) (s : State),
    let w := wordVst v b p o
    (Instr.vst v b p o).wf = true → s.admits { word := w, reads := dataReg v ++ [b, pCode p] } = true →
    s.ctx.tagUnion (dataReg v ++ [b, pCode p]) = 0 → parityClean s →
    isSpad (s.ctx.sv b) = false → addOffset s (s.ctx.sv b) (immInt s.ctx.hints 9 o * 128) true = .ok ea → isSpad ea = false →
    resolve s ea 128 8 permW true = .ok (u, .hbm ps) →
    let bs := (List.range 128).map fun k =>
      if (s.ctx.preg p).val.getLsbD (k / 4) then some (BitVec.ofNat 8 ((dataOf s.ctx v 0).toNat / 2 ^ (8 * k))) else none
    ∃ t, exec (.vst v b p o) s = .next t ∧ goesOn s t ∧ keepsMemory s t ∧ postsWrites s t w ps bs)

/-- R201, R202: `mget` and `mgetv` check their operands, enter a request with type, tag, destination and count that gathers the pieces of
the source range, ask the memory nodes for them, end the region and go on at once; when every piece has come, the bytes land in the
scratchpad, or in the message's vector, and the message of the request's type and tag arrives at the core; where the core would refuse it
the bytes land all the same and the message waits. Operands untagged. -/
def Obligations.SplitPhaseReads : Prop :=
  (∀ (i : Instr) (xz : Option (Nat × Nat)) (y ty : Nat) (u : State) (ps : List (Nat × Nat × Bool)) (s : State),
    i = (match xz with
      | some (x, z) => .mget x y z ty
      | none => .mgetv y ty) →
    let w := match xz with
      | some (x, z) => wordMget x y z ty
      | none => wordMgetv y ty
    let regs := match xz with
      | some (x, z) => [x, y, z]
      | none => [y]
    let n := match xz with
      | some (_, z) => (s.ctx.sv z).toNat
      | none => 128
    let v := (extended s.ctx.hints 8 ty).1
    i.wf = true → s.admits { word := w, reads := regs, ends := true } = true → s.ctx.tagUnion regs = 0 → matrixIdle s →
    v < 2 ^ 32 → v % 256 < 240 → countFits n → (∀ x z, xz = some (x, z) → spadRange (s.ctx.sv x) n) → s.ctx.held = none →
    resolvePtr s (s.ctx.sv y) n 8 permR false = .ok (u, ps) → s.readsOf s.cur < 64 → linesFree s ps = true →
    ∃ (t : State) (r : MgetRec), exec i s = .next t ∧ tlook t.mgets s.serial = some r ∧ r.own = s.owner w ∧
      r.vecForm = xz.isNone ∧ (∀ x z, xz = some (x, z) → r.x = (s.ctx.sv x).toNat) ∧ r.y = s.ctx.sv y ∧ r.n = n ∧
      r.type = v % 256 ∧ r.tag = v / 256 ∧ r.due + r.got.length = (readPieces ps).length ∧
      ((∀ p ∈ ps, homeDie p.1 = s.myDie) → t.net = s.net ++ (readPieces ps).mapIdx fun k p =>
        ⟨0, s.cur, memNode s.myDie, .read p.1 p.2.1 (s.owner w) s.serial k false false⟩) ∧
      goesOn s t ∧ keepsMemory s t ∧ t.ctx.startsRegion []) ∧
  (∀ (k : Nat) (r : MgetRec) (bss : List (List Byte)) (m : Msg) (u s : State), tlook s.mgets k = some r → r.due = 0 →
    (s.core r.own.core).preempted = false →
    r.got.map (fun e => e.2) = bss.map Piece.data →
    let c := r.own.core
    let bs := bss.flatten
    let rest : State := { s with mgets := tdel s.mgets k, reads := tdel s.reads k }
    u = (if r.vecForm || r.landed then rest else rest.setCore c { rest.core c with spad := mwrite (s.core c).spad r.x bs }) →
    (r.vecForm = false → s.isRunning c = true) →
    m = { type := r.type, tag := r.tag, words := [if r.vecForm then r.y else BitVec.ofNat 64 r.x, BitVec.ofNat 64 r.n, 0],
          vec := if r.vecForm then some (BitVec.ofNat 1024 (leNat bs)) else none, src := BitVec.ofNat 64 (0x1000 + r.home * 256),
          dst := c, vf := r.own.vf, launch := r.own.launch } →
    (∀ t, u.arrive c m = some t → exec (.mgetReply k) s = .next t) ∧
    (u.arrive c m = none → ∃ t, exec (.mgetReply k) s = .next t ∧ tlook t.mgets k = some { r with landed := true } ∧
      t.net = s.net ∧ ∀ d, (t.core d).spad = (u.core d).spad))

/-- R203, R216, R219, R44: `mput` and `mputv` post the bytes of scratchpad or of a vector operand to the home memory nodes of a range,
`mput.r` and `mputv.r` to the queue of the core that a reference names; each write joins the ledger, the source is read, or popped,
at once, and no memory changes before the write is performed. Operands untagged. -/
def Obligations.Puts : Prop :=
  (∀ (x y z : Nat) (u : State) (ps : List (Nat × Nat × Bool)) (s : State),
    let w := wordMput x y z
    let n := (s.ctx.sv z).toNat
    s.admits { word := w, reads := [x, y, z] } = true → s.ctx.tagUnion [x, y, z] = 0 → matrixIdle s → countFits n →
    spadRange (s.ctx.sv x) n → resolvePtr s (s.ctx.sv y) n 8 permW true = .ok (u, ps) →
    ∃ t, exec (.mput x y z) s = .next t ∧ goesOn s t ∧ keepsMemory s t ∧
      postsWrites s t w ps ((mread (s.core s.cur).spad (s.ctx.sv x).toNat n).map some)) ∧
  (∀ (x y z a c : Nat) (s : State),
    let w := wordMputR x y z
    let n := (s.ctx.sv z).toNat
    s.admits { word := w, reads := [x, y, z], ends := true } = true → s.ctx.tagUnion [x, y, z] = 0 → matrixIdle s →
    countFits n → n ≤ 128 → spadRange (s.ctx.sv x) n → resolveRef s (s.ctx.sv y) true = .ok (a, c) → a + n ≤ 786432 →
    a % 8 = 0 →
    ∃ t, exec (.mputR x y z) s = .next t ∧
      postsPut s t w (s.ctx.sv y) c a (mread (s.core s.cur).spad (s.ctx.sv x).toNat n) ∧
      goesOn s t ∧ keepsMemory s t ∧ t.ctx.startsRegion []) ∧
  (∀ (y v : Nat) (remote : Bool) (tgt : PutTo) (s : State),
    let i : Instr := if remote then .mputvR y v else .mputv y v
    let w := if remote then wordMputvR y v else wordMputv y v
    i.wf = true → s.admits { word := w, reads := dataReg v ++ [y], ends := remote || isPort v } = true →
    s.ctx.tagUnion (dataReg v ++ [y]) = 0 → (v = 62 → s.ctx.lift.levels = []) → matrixIdle s → parityClean s →
    sourceReady s (2, v) →
    (if remote then ∃ a c, resolveRef s (s.ctx.sv y) true = .ok (a, c) ∧ a + 128 ≤ 786432 ∧ a % 8 = 0 ∧ tgt = .core c a
     else ∃ u ps, resolvePtr s (s.ctx.sv y) 128 8 permW true = .ok (u, ps) ∧ tgt = .hbm ps) →
    let bs := vecBytes ((sourceOf s v).2 0)
    ∃ t, exec i s = .next t ∧ goesOn s t ∧ keepsMemory s t ∧
      (match tgt with
        | .hbm ps => postsWrites s t w ps (bs.map some)
        | .core c a => postsPut s t w (s.ctx.sv y) c a bs) ∧
      (isPort v = true → tget (t.core s.cur).fifos [] v = (tget (s.core s.cur).fifos [] v).drop 1))

end

/-! ## Copies, the weight store, sync words -/

namespace Sys2Proof.Machine.Claims

/-- A context waits at issue: nothing of the machine changes but what it is recorded as waiting for. -/
def waits (s t : State) : Prop := t = s.modCtx fun x => { x with wait := .other }

/-- The sync word a job register names, none for field 0 (R206, R208). -/
def jobSync (s : State) (w : Nat) (sw : Option (Nat × Nat)) : Prop :=
  if w = 0 then sw = none
  else (s.ctx.sv w).toNat + 16 ≤ 786432 ∧ (s.ctx.sv w).toNat % 16 = 0 ∧ sw = some (s.cur, (s.ctx.sv w).toNat)

/-- A word that hands one job to the engines of its die: the job stands last in the die's table, its write joins the ledger, no memory
changes, the region ends, and the word after is next. -/
def entersJob (i : Instr) (s : State) (j : Job) : Prop :=
  ∃ t, exec i s = .next t ∧
    (t.die s.myDie).jobs = (s.die s.myDie).jobs ++ [{ j with id := (s.die s.myDie).nextJob, wid := s.serial }] ∧
    (∀ n, n < j.entries → ∃ r, tlook t.writes (s.serial + n) = some r ∧ r.own = j.own ∧ r.job = s.serial) ∧
    goesOn s t ∧ keepsMemory s t ∧ t.net = s.net ∧ t.ctx.startsRegion []

/-- The shape of a copy named by its count register: one row for `cpy` (R208), rows with pitches for `cpy2` (R209). -/
def copyShapeIs (two : Bool) (z : Word) (sh : CopyShape) : Prop :=
  if two then
    let len := z.toNat % 65536
    let rows := z.toNat / 2 ^ 16 % 65536
    let dp := z.toNat / 2 ^ 48
    rows ≠ 0 ∧ len ≠ 0 ∧ len ≤ dp ∧ sh = ⟨8 * len, rows, 8 * (z.toNat / 2 ^ 32 % 65536), 8 * dp⟩
  else z.toNat % 8 = 0 ∧ 8 ≤ z.toNat ∧ z.toNat ≤ 2 ^ 24 ∧ sh = ⟨z.toNat, 1, z.toNat, z.toNat⟩

/-- The place that a checked address operand of `n` bytes names (R183, R208): the own scratchpad, or HBM by its pages. -/
def placeFrom (s : State) (x : Word) (n perm : Nat) (l : Loc) : Place :=
  match l with
  | .spad a => .spad s.cur a
  | .hbm ps =>
    let va := match ptrCheck s.myVf x perm n with
      | .ok v => v
      | _ => 0
    .hbm x va (pagesOf va ps)

/-- A sync word operand (R206): 16 bytes of the own scratchpad, 16-aligned, at an instance. -/
def wordAtInst (s : State) (x k a : Nat) : Prop :=
  (atInst (s.ctx.sreg x) k).toNat = a ∧ a + 16 ≤ 786432 ∧ a % 16 = 0

/-- Everything the context wrote is acknowledged, and a release toward a die is complete: none is needed within the own die (R175,
R206). -/
def releasedToward (s : State) (d : Nat) : Prop :=
  if d = s.myDie then s.unacked (s.owner 0) (fun _ => true) = false else s.ctx.rel = some ⟨true, 0⟩

end Sys2Proof.Machine.Claims

section
open Sys2Proof Sys2Proof.Machine Sys2Proof.Machine.Claims

/-- R207, R208, R209, R211: `cpy` and `cpy2` between memories or into a handle, and `cpydl` to a rectangle of cores, check their
operands and enter a job that names source, destination, rows, pitches and sync word. Operands untagged. -/
def Obligations.CopiesEnterJobs : Prop :=
  (∀ (x y z w m : Nat) (two : Bool) (sh : CopyShape) (u u' : State) (ld ls : Loc) (sw : Option (Nat × Nat)) (s : State),
    let i : Instr := if two then .cpy2 x y z w m else .cpy x y z w m
    let word := if two then wordCpy2 x y z w m else wordCpy x y z w m
    let regs := (if 8 ≤ m then [] else [x]) ++ [y, z] ++ (if w = 0 then [] else [w])
    i.wf = true → s.admits { word := word, reads := regs, ends := true } = true → s.ctx.tagUnion regs = 0 → matrixIdle s →
    s.cards s.cur < 32 → s.ctx.held = none → s.unacked (s.owner 0) (fun _ => true) = false → copyShapeIs two (s.ctx.sv z) sh →
    jobSync s w sw →
    let ns := (sh.rows - 1) * sh.spitch + sh.rowlen
    let nd := (sh.rows - 1) * sh.dpitch + sh.rowlen
    resolve u (s.ctx.sv y) ns 8 permR false = .ok (u', ls) →
    let src := placeFrom s (s.ctx.sv y) ns permR ls
    (m < 8 → resolve s (s.ctx.sv x) nd 8 permW true = .ok (u, ld) →
      let dst := placeFrom s (s.ctx.sv x) nd permW ld
      entersJob i s ⟨0, s.owner word, 0, dst, src, sh.rowlen, sh.rows, sh.spitch, sh.dpitch, none, sw, false, 0, false, []⟩) ∧
    (8 ≤ m → u = s → (s.ctx.handle (m - 8)).slots ≠ 0 → sh.rowlen * sh.rows % (s.ctx.handle (m - 8)).size = 0 →
      entersJob i s ⟨0, s.owner word, 0, .handle s.cur s.ctx.id.act (m - 8), src, sh.rowlen, sh.rows, sh.spitch, sh.rowlen,
        none, sw, false, 0, false, []⟩)) ∧
  (∀ (x y z w lb va : Nat) (u : State) (ps : List (Nat × Nat × Bool)) (s : State),
    let word := wordCpydl x y z w
    let n := (s.ctx.sv z).toNat
    let p := (s.ctx.sv w).toNat
    let B : Nat := 2 ^ lb
    let width := p / 2 ^ 16 % 16 + 1
    let height := p / 2 ^ 20 % 16 + 1
    let first := p / 2 ^ 32 % 2048
    let num := width * height
    let sw := p / 2 ^ 44
    s.admits { word := word, reads := [x, y, z, w], ends := true } = true → s.ctx.tagUnion [x, y, z, w] = 0 → matrixIdle s →
    s.cards s.cur < 32 → s.ctx.held = none → s.unacked (s.owner 0) (fun _ => true) = false →
    n % 8 = 0 → 8 ≤ n → n ≤ 2 ^ 24 → p % 32 = lb → 6 ≤ lb → lb ≤ 16 → p / 2 ^ 5 % 2 ^ 11 = 0 → p / 2 ^ 24 % 256 = 0 →
    rowOf first + height ≤ 16 → colOf first + width ≤ 16 → n % B = 0 →
    spadRange (s.ctx.sv x) ((n / B + num - 1) / num * B) → (∀ k < num, inQuads s.myVf (dealCore first width k) = true) →
    (p / 2 ^ 43 % 2 = 1 → sw + 16 ≤ 786432 ∧ sw % 16 = 0) →
    resolvePtr s (s.ctx.sv y) n 8 permR false = .ok (u, ps) → ptrCheck s.myVf (s.ctx.sv y) permR n = .ok va →
    entersJob (.cpydl x y z w) s
      ⟨0, s.owner word, 0, .spad first (s.ctx.sv x).toNat, .hbm (s.ctx.sv y) va (pagesOf va ps), n, 1, n, n,
        some (B, first, width, num), if p / 2 ^ 43 % 2 = 1 then some (first, sw) else none, false, 0, false, []⟩)

/-- R212: `cpyst` writes the number of the context's unfinished jobs, the code of its first failed one and the free card slots, and
clears the code. -/
def Sys2Proof.Machine.Claims.copyStatus : Prop :=
  ∀ (x : Nat) (s : State), s.admits { word := wordCpyst x, writes := [x], ends := true, once := true } = true →
    let jobs := (s.die s.myDie).jobs.filter fun j => !j.ws && j.own.act == s.ctx.id.act
    let v : Word := BitVec.ofNat 64 (jobs.length % 65536 + s.ctx.copyFail * 65536 + (32 - s.cards s.cur) * 2 ^ 24)
    scalarRoom s x 0 (fun _ => v) →
    ∃ t, exec (.cpyst x) s = .next t ∧ t.ctx.sreg x = scalarResult s x 0 (fun _ => v) ∧ t.ctx.copyFail = 0 ∧ s.onlyCtx t ∧
      (∀ c, c < 256 → c ≠ sCode x → t.ctx.save c = s.ctx.save c) ∧ t.ctx.pc = pc4 s

/-- R213, R215: `wsld` and `wswr` move a multiple of 64 bytes between the window of the virtual function and the own scratchpad by a job
of the die; `wswr` needs every other launch of the virtual function finished, and parks with WSWR otherwise; `wsinfo` reads the blocks
of the window, the banks and the rate. Operands untagged. -/
def Sys2Proof.Machine.Claims.weightStoreTransfers : Prop :=
  (∀ (x y z w : Nat) (write : Bool) (sw : Option (Nat × Nat)) (s : State),
    let i : Instr := if write then .wswr x y z w else .wsld x y z w
    let word := if write then wordWswr x y z w else wordWsld x y z w
    let n := (s.ctx.sv z).toNat
    let far := s.ctx.sv (if write then x else y)
    let near := s.ctx.sv (if write then y else x)
    let store : Place := .store (s.wsWindow.1 + far.toNat)
    let pad : Place := .spad s.cur near.toNat
    let others := s.launches.any fun l => l.2.vf == s.ctx.id.vf && l.2.status == 0 && some l.1 != s.ctx.id.launch
    i.wf = true → s.admits { word := word, reads := wsRegs x y z w, ends := true } = true → s.ctx.tagUnion (wsRegs x y z w) = 0 →
    (write = true → others = true → ∃ t, exec i s = .next t ∧ s.parksWith t word 0x17 0 0 false false) ∧
    ((write = true → others = false) → matrixIdle s → n % 64 = 0 → 64 ≤ n → n ≤ 786432 → far.toNat + n ≤ s.wsWindow.2 →
      far.toNat % 64 = 0 → spadRange near n → near.toNat % 64 = 0 → jobSync s w sw →
      entersJob i s (if write then ⟨0, s.owner word, 0, store, pad, n, 1, n, n, none, sw, true, 0, false, []⟩
        else ⟨0, s.owner word, 0, pad, store, n, 1, n, n, none, sw, true, 0, false, []⟩))) ∧
  (∀ (x : Nat) (s : State), s.admits { word := wordWsinfo x, writes := [x], once := true } = true →
    let v : Word := BitVec.ofNat 64 (s.wsWindow.2 / 4096 + Config.wsBanks.toNat * 2 ^ 32 + 12 * 2 ^ 40)
    scalarRoom s x 0 (fun _ => v) → writesScalar (.wsinfo x) s x 0 fun _ => v)

/-- R204, R206: `swinit` sets a word's target and binding and clears its count and flags, keeping its generation; `swget` reads the
generation; `swwait` goes on when every word's generation differs from the one given or its ER flag is set, and waits otherwise;
`swadd` posts a raise to the word's core, its earlier writes released toward it, and ends the region. -/
def Obligations.SyncWordInstructions : Prop :=
  (∀ (x y z : Nat) (addr : Nat → Nat) (s : State),
    let S := s.ctx.tagUnion [x, y, z]
    let act := activeOf s.ctx.lift S
    s.admits { word := wordSwinit x y z, reads := [x, y, z] } = true → matrixIdle s →
    (∀ k ∈ act, wordAtInst s x k (addr k) ∧ atInst (s.ctx.sreg y) k ≠ 0 ∧ (atInst (s.ctx.sreg y) k).toNat < 2 ^ 32 ∧
      (z ≠ 0 → (atInst (s.ctx.sreg z) k).toNat < 240)) →
    let put (m : Memory) (k : Nat) : Memory :=
      let old := syncWord m (addr k)
      mwrite m (addr k) (leBytes 16 (SyncWord.nat
        { target := (atInst (s.ctx.sreg y) k).toNat, count := 0, gen := old.gen, pz := false, er := false, be := decide (z ≠ 0),
          btype := if z = 0 then old.btype else (atInst (s.ctx.sreg z) k).toNat }))
    ∃ t, exec (.swinit x y z) s = .next t ∧ storesSpad s t (act.foldl put (s.core s.cur).spad)) ∧
  (∀ (x y : Nat) (addr : Nat → Nat) (s : State),
    let act := activeOf s.ctx.lift (s.ctx.tagUnion [x, y])
    s.admits { word := wordSwwait x y, reads := [x, y] } = true → matrixIdle s →
    (∀ k ∈ act, wordAtInst s x k (addr k)) →
    let past (k : Nat) : Prop :=
      let w := syncWord (s.core s.cur).spad (addr k)
      w.gen ≠ (atInst (s.ctx.sreg y) k).toNat % 2 ^ 32 ∨ w.er = true
    ((∀ k ∈ act, past k) → ∃ t, exec (.swwait x y) s = .next t ∧ s.quiet t []) ∧
    (¬ (∀ k ∈ act, past k) → ∃ t, exec (.swwait x y) s = .next t ∧ waits s t)) ∧
  (∀ (x y : Nat) (addr : Nat → Nat) (s : State),
    let S := s.ctx.tagUnion [y]
    s.admits { word := wordSwget x y, reads := [y], writes := [x] } = true → matrixIdle s →
    (∀ k ∈ activeOf s.ctx.lift S, wordAtInst s y k (addr k)) →
    let v (k : Nat) : Word :=
      if k ∈ activeOf s.ctx.lift S then BitVec.ofNat 64 (mreadNat (s.core s.cur).spad (addr k + 8) 4) else 0
    scalarRoom s x S v → writesScalar (.swget x y) s x S v) ∧
  (∀ (x y a c : Nat) (s : State),
    let w := wordSwadd x y
    s.admits { word := w, reads := [x, y], ends := true } = true → s.ctx.tagUnion [x, y] = 0 →
    resolveRef s (s.ctx.sv x) true = .ok (a, c) → a + 16 ≤ 786432 → a % 16 = 0 → s.ctx.sv y ≠ 0 →
    (s.ctx.sv y).toNat < 2 ^ 32 → releasedToward s (dieOf c) → (c = s.cur → matrixIdle s) →
    ∃ t, exec (.swadd x y) s = .next t ∧ tlook t.writes s.serial = some { own := s.owner w, home := c, lines := [] } ∧
      t.net = s.net ++ [⟨0, s.cur, c, .remote (.swadd a (s.ctx.sv y).toNat (s.owner w) s.serial)⟩] ∧
      goesOn s t ∧ keepsMemory s t ∧ t.ctx.startsRegion [])

/-- The status of copy jobs, and the weight store (R212, R215). -/
def Obligations.CopyStatusAndWeightStore : Prop := copyStatus ∧ weightStoreTransfers

end
/-! ## Fences, atomics, barriers -/

namespace Sys2Proof.Machine.Claims

/-- The executing context holds where it stands: no register changes, it will try the word again. -/
def holdsAt (s t : State) : Prop :=
  t.ctx.regs = s.ctx.regs ∧ t.ctx.sp = s.ctx.sp ∧ t.ctx.pc = s.ctx.pc ∧ t.ctx.wait = .other

/-- One marker to each named die and a clock note to each other one (R223, R224). -/
def releaseTraffic (s : State) (mask : Nat) : List Flight :=
  let n := ((s.die s.myDie).outCount + 1) % 2 ^ 32
  ((List.range 8).filter fun x => x != s.myDie).map fun x =>
    if x ∈ markerDies s.myVf s.myDie mask then
      ⟨2, schedNode s.myDie, schedNode x, .marker ⟨s.myDie, n, clockOf (s.die s.myDie), s.ctx.pages, s.owner 0, none⟩⟩
    else ⟨2, schedNode s.myDie, schedNode x, .note s.myDie n⟩

/-- No release of this word has sent its markers yet. -/
def unsent (s : State) : Prop := ∀ r, s.ctx.rel = some r → r.sent = false

/-- Nothing a release at a scope covers is outstanding, and at `.die` every marker is acknowledged (R221). -/
def releaseDone (s : State) (sc : Nat) : Prop :=
  s.ctx.rel = some ⟨true, 0⟩ ∨ (sc < 2 ∧ unsent s ∧ s.unacked (s.owner 0) (covers sc s.cur) = false)

/-- The atomics (R230): function, d, a, b, mask register, order, scope, remote. -/
def atomicOp : Instr → Option (Nat × Nat × Nat × Nat × Nat × Nat × Nat × Nat)
  | .amoadd d a b m o sc r => some (0, d, a, b, m, o, sc, r)
  | .amoand d a b m o sc r => some (1, d, a, b, m, o, sc, r)
  | .amoor d a b m o sc r => some (2, d, a, b, m, o, sc, r)
  | .amoxor d a b m o sc r => some (3, d, a, b, m, o, sc, r)
  | .amomin d a b m o sc r => some (4, d, a, b, m, o, sc, r)
  | .amomax d a b m o sc r => some (5, d, a, b, m, o, sc, r)
  | .amominn d a b m o sc r => some (6, d, a, b, m, o, sc, r)
  | .amomaxn d a b m o sc r => some (7, d, a, b, m, o, sc, r)
  | .amoswp d a b m o sc r => some (8, d, a, b, m, o, sc, r)
  | .amocas d a b m o sc _ r => some (9, d, a, b, m, o, sc, r)
  | _ => none

/-- The registers an atomic reads. -/
def atomicReads (fn a b m sc : Nat) : List Nat := [a, b] ++ (if fn = 9 then [b + 1] else []) ++ (if sc = 2 then [m] else [])

/-- The new value of a cell under an atomic (R230): none where `amocas` finds another value than it compares with. -/
def atomicValue (fn : Nat) (old x y : Word) : Option Word :=
  [some (old + x), some (old &&& x), some (old ||| x), some (old ^^^ x),
   some (if old.toInt < x.toInt then old else x), some (if old.toInt < x.toInt then x else old),
   some (if old.toNat < x.toNat then old else x), some (if old.toNat < x.toNat then x else old), some x,
   if old = x then some y else none][fn]?.getD none

/-- An atomic posts one operation toward a home, a write in the ledger by the lines it covers, and holds as told; no register and no memory
changes (R231, R233). -/
def amoSent (i : Instr) (s : State) (w dst : Nat) (lines : List Nat) (body : Body) (wid : Nat) (holding : State → Prop) : Prop :=
  ∃ t, exec i s = .next t ∧ holdsAt s t ∧ keepsMemory s t ∧ t.net = s.net ++ [⟨0, s.cur, dst, body⟩] ∧ holding t ∧
    tlook t.writes wid = some { own := s.owner w, home := dst, lines := lines }

/-- An atomic posts the operation of instance j as piece k of read `id`, with ledger entry `wid`, toward the home of the cell its address
names, and holds as told. -/
def amoPosted (i : Instr) (s : State) (w fn a b r id k wid j : Nat) (holding : State → Prop) : Prop :=
  let x := atInst (s.ctx.sreg a) j
  let p := atInst (s.ctx.sreg b) j
  let q := atInst (s.ctx.sreg (b + 1)) j
  let sent (dst : Nat) (lines : List Nat) (body : Body) : Prop := amoSent i s w dst lines body wid holding
  (r = 0 → spadRange x 8 → sent s.cur [] (.remote (.amo fn x.toNat p q (s.owner w) id k wid))) ∧
  (r = 1 → ∀ at_ c, resolveRef s x true = .ok (at_, c) → at_ + 8 ≤ 786432 → at_ % 8 = 0 →
    sent c [] (.remote (.amo fn at_ p q (s.owner w) id k wid))) ∧
  (r = 0 → ∀ u pa n nc, resolve s x 8 8 permA true = .ok (u, .hbm [(pa, n, nc)]) →
    sent (memNode (homeDie pa)) [granuleOf pa] (.amo pa fn p q (s.owner w) id k wid))

/-- The launch number barriers keep (R234). -/
def myLaunch (s : State) : Nat := s.ctx.id.launch.getD 0 % 256

/-- A barrier record that an arrival, wait or read of the own core may use (R236). -/
def barUsable (s : State) (b : BarRec) : Prop := b.c = true ∧ b.launch = myLaunch s ∧ b.sc = 0

/-- A barrier word of the own core has completed: record n is as given, the other records, memory, traffic and the registers but the
listed ones are as before. -/
def barDone (s t : State) (n : Nat) (r : BarRec) (codes : List Nat) : Prop :=
  (t.core s.cur).barrier n = r ∧ (∀ m, m ≠ n → (t.core s.cur).barrier m = (s.core s.cur).barrier m) ∧ keepsMemory s t ∧
  t.net = s.net ∧ (∀ c, c < 256 → c ∉ codes → t.ctx.save c = s.ctx.save c) ∧ t.ctx.sp = s.ctx.sp ∧ t.ctx.pc = pc4 s

/-- A record after one more arrival (R235): the last one starts the next generation. -/
def arrivedOnce (b : BarRec) : BarRec :=
  if b.arrived + 1 = b.target then { b with arrived := 0, gen := (b.gen + 1) % 65536 } else { b with arrived := b.arrived + 1 }

end Sys2Proof.Machine.Claims

section
open Sys2Proof Sys2Proof.Machine Sys2Proof.Machine.Claims

/-- R219 to R224, R227 to R229: `fence.acq` goes on; `fence.rel` and `fence.full` hold until the covered writes are acknowledged, then
at `.die` send one marker to every named die and clock notes to the others, and hold until the markers are acknowledged; a mask with any
of bits 63 to 8 set is DMASK; `fack` holds until every earlier write of the context is acknowledged. All end the region; a pre-emption of a context
in which one of them holds leaves it to complete. -/
def Obligations.FencesRelease : Prop :=
  (∀ (m sc : Nat) (s : State), (Instr.fenceAcq m sc).wf = true →
    s.admits { word := wordFenceAcq m sc, reads := maskReads sc m, ends := true, once := true } = true →
    (sc = 2 → (s.ctx.sv m).toNat < 256) →
    ∃ t, exec (.fenceAcq m sc) s = .next t ∧ s.quiet t [] ∧ t.ctx.startsRegion []) ∧
  (∀ (m sc : Nat) (full : Bool) (s : State),
    let i : Instr := if full then .fenceFull m sc else .fenceRel m sc
    let w := if full then wordFenceFull m sc else wordFenceRel m sc
    let mask := if sc = 2 then (s.ctx.sv m).toNat else 0
    let out := s.unacked (s.owner 0) (covers sc s.cur)
    let named := markerDies s.myVf s.myDie mask
    i.wf = true → s.admits { word := w, reads := maskReads sc m, ends := true, once := true } = true →
    (sc = 2 → (s.ctx.sv m).toNat < 256) →
    ∃ t, exec i s = .next t ∧ keepsMemory s t ∧
      (s.ctx.rel = some ⟨true, 0⟩ → goesOn s t ∧ t.net = s.net ∧ t.ctx.startsRegion []) ∧
      (∀ n, s.ctx.rel = some ⟨true, n⟩ → n ≠ 0 → holdsAt s t ∧ t.net = s.net ∧ t.ctx.rel = some ⟨true, n⟩) ∧
      (unsent s → out = true → holdsAt s t ∧ t.net = s.net ∧ t.ctx.rel = some ⟨false, 0⟩) ∧
      (unsent s → out = false → sc < 2 → goesOn s t ∧ t.net = s.net ∧ t.ctx.startsRegion []) ∧
      (unsent s → out = false → sc = 2 → t.net = s.net ++ releaseTraffic s mask ∧
        (t.die s.myDie).outCount = ((s.die s.myDie).outCount + 1) % 2 ^ 32 ∧
        (named = [] → goesOn s t ∧ t.ctx.startsRegion []) ∧
        (named ≠ [] → holdsAt s t ∧ t.ctx.rel = some ⟨true, named.length⟩))) ∧
  (∀ (i : Instr) (m w : Nat) (s : State), i = .fenceAcq m 2 ∨ i = .fenceRel m 2 ∨ i = .fenceFull m 2 → encode i = some w →
    s.admits { word := w, reads := [m], ends := true, once := true } = true → 256 ≤ (s.ctx.sv m).toNat →
    ∃ t, exec i s = .next t ∧ s.parksWith t w 0x14 0 0 false false) ∧
  (∀ s : State, s.admits { word := wordFack, ends := true } = true →
    let out := s.unacked (s.owner 0) fun _ => true
    (out = false → ∃ t, exec .fack s = .next t ∧ s.quiet t [] ∧ t.ctx.startsRegion []) ∧
    (out = true → ∃ t, exec .fack s = .next t ∧ holdsAt s t ∧ keepsMemory s t ∧ t.net = s.net ∧ t.ctx.rel = some ⟨false, 0⟩)) ∧
  (∀ (c i : Nat) (r : Release) (s : State), (s.ctxAt c i).status = .running → (s.ctxAt c i).rel = some r →
    let wanted := s.setCtxAt c i { s.ctxAt c i with want := true }
    exec (.preemptImmediate c (some i)) s = .next wanted ∧ exec (.preemptBoundary c (some i)) s = .next wanted)

/-- R230, R231, R233, R369, R371: an atomic whose active instances have all passed their checks takes them in order, as it has planned:
once an instance's release part is done it posts that instance's operation to the home of its cell, a core's remote-op queue or a memory
node, and holds until the old value has come; with the old value of every active instance it writes them to its destination and ends the
region. A mask with any of bits 63 to 8 set is DMASK. -/
def Obligations.AtomicsReturnOldValues : Prop :=
  (∀ (i : Instr) (w fn d a b m o sc r : Nat) (h : Held) (bytes : Nat → List Byte) (s : State),
    atomicOp i = some (fn, d, a, b, m, o, sc, r) → encode i = some w →
    s.admits { word := w, reads := atomicReads fn a b m sc, writes := [d], ends := true } = true →
    let S := s.ctx.tagUnion (atomicReads fn a b m sc)
    let act := activeOf s.ctx.lift S
    s.ctx.held = some h → h.due = 0 → (h.got = (List.range act.length).map fun k => (k, .data (bytes k))) →
    let v (k : Nat) : Word := if k ∈ act then BitVec.ofNat 64 (leNat (bytes (act.idxOf k))) else 0
    scalarRoom s d S v → writesScalar i s d S v ∧ ∀ t, exec i s = .next t → t.ctx.startsRegion [sCode d]) ∧
  (∀ (i : Instr) (w fn d a b m o sc r : Nat) (s : State),
    atomicOp i = some (fn, d, a, b, m, o, sc, r) → encode i = some w →
    s.admits { word := w, reads := atomicReads fn a b m sc, writes := [d], ends := true } = true →
    s.ctx.tagUnion (atomicReads fn a b m sc) = 0 → s.ctx.held = none → matrixIdle s →
    scalarRoom s d 0 (fun _ => 0) → (sc = 2 → (s.ctx.sv m).toNat < 256) → (2 ≤ o → releaseDone s sc) →
    amoPosted i s w fn a b r s.serial 0 (s.serial + 1) 0 fun t => ∃ n, t.ctx.held = some ⟨s.serial, 1, [], true, n, 0, false, [], none⟩) ∧
  (∀ (i : Instr) (w fn d a b m o sc r j : Nat) (js : List Nat) (core at_ : Nat → Nat) (s : State),
    atomicOp i = some (fn, d, a, b, m, o, sc, r) → encode i = some w →
    s.admits { word := w, reads := atomicReads fn a b m sc, writes := [d], ends := true } = true →
    let S := s.ctx.tagUnion (atomicReads fn a b m sc)
    activeOf s.ctx.lift S = j :: js → s.ctx.held = none → matrixIdle s → scalarRoom s d S (fun _ => 0) →
    (2 ≤ o → releaseDone s sc) →
    (∀ k ∈ j :: js, (sc = 2 → (atInst (s.ctx.sreg m) k).toNat < 256) ∧
      let x := atInst (s.ctx.sreg a) k
      ((r = 0 ∧ spadRange x 8 ∧ core k = s.cur ∧ at_ k = x.toNat) ∨
       (r = 1 ∧ resolveRef s x true = .ok (at_ k, core k) ∧ at_ k + 8 ≤ 786432 ∧ at_ k % 8 = 0))) →
    amoSent i s w (core j) [] (.remote (.amo fn (at_ j) (atInst (s.ctx.sreg b) j) (atInst (s.ctx.sreg (b + 1)) j) (s.owner w)
        s.serial 0 (s.serial + 1))) (s.serial + 1) fun t => ∃ n,
      t.ctx.held = some ⟨s.serial, 1, [], true, n, 0, false, js.map fun k => .amo (some (core k)) (at_ k), none⟩) ∧
  (∀ (i : Instr) (w fn d a b m o sc r k j at_ : Nat) (core : Option Nat) (rest : List Planned) (h : Held) (bytes : Nat → List Byte)
      (s : State), atomicOp i = some (fn, d, a, b, m, o, sc, r) → encode i = some w →
    s.admits { word := w, reads := atomicReads fn a b m sc, writes := [d], ends := true } = true →
    s.ctx.held = some h → h.due = 0 → (h.got = (List.range k).map fun n => (n, .data (bytes n))) → h.plan = .amo core at_ :: rest →
    (activeOf s.ctx.lift (s.ctx.tagUnion (atomicReads fn a b m sc)))[k]? = some j → (2 ≤ o → releaseDone s sc) →
    let p := atInst (s.ctx.sreg b) j
    let q := atInst (s.ctx.sreg (b + 1)) j
    let holding (t : State) : Prop := t.ctx.held = some { h with due := 1, plan := rest }
    (∀ c, core = some c → amoSent i s w c [] (.remote (.amo fn at_ p q (s.owner w) h.id k s.serial)) s.serial holding) ∧
    (core = none → amoSent i s w (memNode (homeDie at_)) [granuleOf at_] (.amo at_ fn p q (s.owner w) h.id k s.serial) s.serial
      holding)) ∧
  (∀ (i : Instr) (w fn d a b m o r : Nat) (s : State), atomicOp i = some (fn, d, a, b, m, o, 2, r) → encode i = some w →
    s.admits { word := w, reads := atomicReads fn a b m 2, writes := [d], ends := true } = true →
    s.ctx.tagUnion (atomicReads fn a b m 2) = 0 → s.ctx.held = none → r = 0 → spadRange (s.ctx.sv a) 8 →
    256 ≤ (s.ctx.sv m).toNat → ∃ t, exec i s = .next t ∧ s.parksWith t w 0x14 0 0 false false) ∧
  (∀ (fn : Nat) (old x y : Word), fn < 10 → amoNew fn old x y = atomicValue fn old x y)

/-- R234 to R237: the barrier instructions on a record of the own core. `barcfg` sets or clears a record in which nobody has arrived;
`barrv` returns the generation and arrives, the last arrival starting the next one; `barwt` goes on once the generation differs; `barsy`
arrives, and then waits as a region of its own; `barq` reads the record. With arrivals outstanding `barcfg` may only repeat the record's
own scope and target. A record of another launch, of another scope or not configured is BAR. -/
def Sys2Proof.Machine.Claims.barriersOfTheCore : Prop :=
  ∀ (x im n : Nat) (s : State), barNumber s x im = .ok n →
    let b := (s.core s.cur).barrier n
    let L := myLaunch s
    (∀ a, s.admits { word := wordBarcfg 0 a x im, reads := [a, x], ends := true, once := true } = true →
      let v := (s.ctx.sv a).toNat
      (v < 256 → (b.c = true → b.launch = L) → b.arrived = 0 →
        ∃ t, exec (.barcfg 0 a x im) s = .next t ∧ t.ctx.startsRegion [] ∧
          barDone s t n (if v = 0 then { b with c := false } else { b with c := true, sc := 0, launch := L, target := v }) []) ∧
      (v < 256 → b.c = true → b.launch = L → b.arrived ≠ 0 → v = b.target → v ≠ 0 → b.sc = 0 →
        ∃ t, exec (.barcfg 0 a x im) s = .next t ∧ t.ctx.startsRegion [] ∧ barDone s t n b []) ∧
      (255 < v ∨ (b.c = true ∧ b.launch ≠ L) ∨ (b.c = true ∧ b.arrived ≠ 0 ∧ (v ≠ b.target ∨ v = 0 ∨ b.sc ≠ 0)) →
        ∃ t, exec (.barcfg 0 a x im) s = .next t ∧ s.parksWith t (wordBarcfg 0 a x im) 0x18 0 0 false false)) ∧
    (∀ d, s.admits { word := wordBarrv 0 d x im, reads := [x], writes := [d], ends := true, once := true } = true →
      let g : Word := BitVec.ofNat 64 b.gen
      (barUsable s b → b.arrived < b.target → s.ctx.held = none → releaseDone s 0 → scalarRoom s d 0 (fun _ => g) →
        ∃ t, exec (.barrv 0 d x im) s = .next t ∧ t.ctx.sreg d = scalarResult s d 0 (fun _ => g) ∧
          barDone s t n (arrivedOnce b) [sCode d] ∧ t.ctx.startsRegion [sCode d]) ∧
      (¬ barUsable s b → ∃ t, exec (.barrv 0 d x im) s = .next t ∧
        s.parksWith t (wordBarrv 0 d x im) 0x18 0 0 false false)) ∧
    (∀ a, s.admits { word := wordBarwt 0 a x im, reads := [a, x], once := true } = true →
      (barUsable s b → ∃ t, exec (.barwt 0 a x im) s = .next t ∧
        (b.gen ≠ (s.ctx.sv a).toNat % 65536 → barDone s t n b []) ∧
        (b.gen = (s.ctx.sv a).toNat % 65536 → holdsAt s t ∧ keepsMemory s t)) ∧
      (¬ barUsable s b → ∃ t, exec (.barwt 0 a x im) s = .next t ∧ s.parksWith t (wordBarwt 0 a x im) 0x18 0 0 false false)) ∧
    (s.admits { word := wordBarsy 0 x im, reads := [x], ends := true, once := true } = true →
      let key := n
      ((∀ g, s.ctx.barsy ≠ some (key, g)) → barUsable s b → b.arrived < b.target → s.ctx.held = none → releaseDone s 0 →
        ∃ t, exec (.barsy 0 x im) s = .next t ∧ holdsAt s t ∧ t.ctx.barsy = some (key, b.gen) ∧
          t.ctx.startsRegion [] ∧ (t.core s.cur).barrier n = arrivedOnce b) ∧
      ((∀ g, s.ctx.barsy ≠ some (key, g)) → ¬ barUsable s b →
        ∃ t, exec (.barsy 0 x im) s = .next t ∧ s.parksWith t (wordBarsy 0 x im) 0x18 0 0 false false) ∧
      (∀ g, s.ctx.barsy = some (key, g) →
        (b.gen ≠ g → ∃ t, exec (.barsy 0 x im) s = .next t ∧ t.ctx.barsy = none ∧ goesOn s t ∧ s.onlyCtx t ∧
          t.ctx.startsRegion []) ∧
        (b.gen = g → ∃ t, exec (.barsy 0 x im) s = .next t ∧ holdsAt s t ∧ s.onlyCtx t))) ∧
    (∀ d, s.admits { word := wordBarq 0 d x im, reads := [x], writes := [d], once := true } = true →
      let v := b.word
      (barUsable s b → scalarRoom s d 0 (fun _ => v) →
        ∃ t, exec (.barq 0 d x im) s = .next t ∧ t.ctx.sreg d = scalarResult s d 0 (fun _ => v) ∧ barDone s t n b [sCode d]) ∧
      (¬ barUsable s b → ∃ t, exec (.barq 0 d x im) s = .next t ∧ s.parksWith t (wordBarq 0 d x im) 0x18 0 0 false false))

/-- R236: a barrier number beyond the 512 records is BAR, at either scope. -/
def Sys2Proof.Machine.Claims.barriersBeyond : Prop :=
  ∀ (sc x im : Nat) (s : State), 512 ≤ (s.ctx.sv x).toNat + im →
    let bad (i : Instr) (w : Nat) (use : Ins) : Prop := s.admits { use with word := w, once := true } = true →
      ∃ t, exec i s = .next t ∧ s.parksWith t w 0x18 0 0 false false
    (∀ a, bad (.barcfg sc a x im) (wordBarcfg sc a x im) { word := 0, reads := [a, x], ends := true } ∧
      bad (.barwt sc a x im) (wordBarwt sc a x im) { word := 0, reads := [a, x] }) ∧
    (∀ d, bad (.barrv sc d x im) (wordBarrv sc d x im) { word := 0, reads := [x], writes := [d], ends := true } ∧
      bad (.barq sc d x im) (wordBarq sc d x im) { word := 0, reads := [x], writes := [d] }) ∧
    bad (.barsy sc x im) (wordBarsy sc x im) { word := 0, reads := [x], ends := true }

/-- R234, R235: the same instructions on a record of the octet post their operation over the octet's barrier path to the octet's core 0
and hold; with the answer they complete: `barrv` and `barq` write it, `barwt` goes on once the generation at that core differs, `barsy`
keeps it and waits as a region of its own. -/
def Sys2Proof.Machine.Claims.barriersOfTheOctet : Prop :=
  ∀ (x im n : Nat) (s : State), barNumber s x im = .ok n →
    let home := coreOf (octetOf s.cur) 0
    let asks (i : Instr) (w fn : Nat) (v : Word) (keep : Bool) : Prop := ∃ t, exec i s = .next t ∧ holdsAt s t ∧
      t.net = s.net ++ [⟨3, s.cur, home, .barrier ⟨fn, n, v, s.owner w, s.serial⟩⟩] ∧
      ∃ p, t.ctx.held = some ⟨s.serial, 1, [], keep, p, 0, false, [], none⟩
    let admitted (w : Nat) (rs ws : List Nat) (e : Bool) : Prop :=
      s.admits { word := w, reads := rs, writes := ws, ends := e, once := true } = true
    (s.ctx.held = none →
      (∀ a, admitted (wordBarcfg 1 a x im) [a, x] [] true → (s.ctx.sv a).toNat < 256 →
        asks (.barcfg 1 a x im) (wordBarcfg 1 a x im) 0 (s.ctx.sv a) true) ∧
      (∀ d, admitted (wordBarrv 1 d x im) [x] [d] true → scalarRoom s d 0 (fun _ => 0) → releaseDone s 1 →
        asks (.barrv 1 d x im) (wordBarrv 1 d x im) 1 0 true) ∧
      (∀ a, admitted (wordBarwt 1 a x im) [a, x] [] false → asks (.barwt 1 a x im) (wordBarwt 1 a x im) 2 0 false) ∧
      (admitted (wordBarsy 1 x im) [x] [] true → s.ctx.barsy = none → releaseDone s 1 →
        asks (.barsy 1 x im) (wordBarsy 1 x im) 1 0 true) ∧
      (∀ d, admitted (wordBarq 1 d x im) [x] [d] false → asks (.barq 1 d x im) (wordBarq 1 d x im) 3 0 false)) ∧
    (∀ (p : Nat) (v : Word) (h : Held), s.ctx.held = some h → h.id ≠ 0 → h.due = 0 → h.got = [(p, .data (leBytes 8 v.toNat))] →
      (∀ a, admitted (wordBarcfg 1 a x im) [a, x] [] true → (s.ctx.sv a).toNat < 256 →
        ∃ t, exec (.barcfg 1 a x im) s = .next t ∧ s.quiet t [] ∧ t.ctx.startsRegion []) ∧
      (∀ d, admitted (wordBarrv 1 d x im) [x] [d] true → scalarRoom s d 0 (fun _ => v) →
        writesScalar (.barrv 1 d x im) s d 0 fun _ => v) ∧
      (∀ a, admitted (wordBarwt 1 a x im) [a, x] [] false → ((s.core home).barrier n).gen ≠ (s.ctx.sv a).toNat % 65536 →
        ∃ t, exec (.barwt 1 a x im) s = .next t ∧ s.quiet t []) ∧
      (admitted (wordBarsy 1 x im) [x] [] true → s.ctx.barsy = none →
        ∃ t, exec (.barsy 1 x im) s = .next t ∧ holdsAt s t ∧ t.ctx.barsy = some (512 + n, v.toNat) ∧ t.ctx.startsRegion []) ∧
      (∀ d, admitted (wordBarq 1 d x im) [x] [d] false → scalarRoom s d 0 (fun _ => v) →
        writesScalar (.barq 1 d x im) s d 0 fun _ => v))

/-- Barrier records of the core and of its octet (R233 to R235). -/
def Obligations.BarrierInstructions : Prop := barriersOfTheCore ∧ barriersBeyond ∧ barriersOfTheOctet

end
/-! ## Messages, handlers, joins, graphs, queues, handles -/

namespace Sys2Proof.Machine.Claims

/-- The send family (R149): destination register (none for a reply), first payload register, payload words, type field, vector operand. -/
def sendForm : Instr → Option (Option Nat × Nat × Nat × Nat × Option Nat)
  | .send c p n t => some (some c, p, n, t, none)
  | .sendv c v n t => some (some c, 9, n, t, some v)
  | .reply p n t => some (none, p, n, t, none)
  | .replyv v n t => some (none, 9, n, t, some v)
  | _ => none

/-- A word that writes one scalar register, untagged, and may change the tables of the scheduler: every other register and memory are as
before. -/
def writesAnswer (s t : State) (d : Nat) (v : Word) : Prop :=
  t.ctx.sreg d = scalarResult s d 0 (fun _ => v) ∧ (∀ c, c < 256 → c ≠ sCode d → t.ctx.save c = s.ctx.save c) ∧
  t.ctx.pc = pc4 s ∧ keepsMemory s t

/-- The same where the traffic is as before too. -/
def answers (s t : State) (d : Nat) (v : Word) : Prop := writesAnswer s t d v ∧ t.net = s.net

/-- A node reference that a word may use (R172): in range, on a die whose scheduler block answers, of the own virtual function when it
names a node. -/
def nodeRefOk (s : State) (x : Word) : Prop :=
  x.toNat < 2 ^ 19 ∧ (s.die (x.toNat / 65536)).pw.state ≠ .hold ∧ ∀ n, s.nodeAt x.toNat = some n → n.vf = s.ctx.id.vf

/-- What `done` and `refuse` check before they end the activation: no open frame (R381), no matrix command unfinished, no accumulator
trap pending (R352). -/
def mayEnd (s : State) : Prop := s.ctx.lift.frames = [] ∧ matrixIdle s ∧ s.ctx.accf = []

/-- An ending word where they are not met: LJOIN, a wait, ACCF with the number of the lowest pending trap. -/
def mayNotEnd (i : Instr) (w : Nat) (s : State) : Prop :=
  (s.ctx.lift.frames ≠ [] → ∃ t, exec i s = .next t ∧ s.parksWith t w 0x0D 2 0 false false) ∧
  (s.ctx.lift.frames = [] → ¬ matrixIdle s → ∃ t, exec i s = .next t ∧ waits s t) ∧
  (s.ctx.lift.frames = [] → matrixIdle s → ∀ b bs, s.ctx.accf = b :: bs →
    ∃ t, exec i s = .next t ∧ s.parksWith t w 0x10 b (BitVec.ofNat 64 s.me.acst) false false ∧ t.ctx.accf = bs)

/-- The launch of the executing activation, if it has one, is not being aborted (R263). -/
def notAborting (s : State) : Prop :=
  ∀ l x, s.ctx.id.launch = some l → tlook s.launches l = some x → x.aborting = false

/-- A queue reference names queue q of die (R176), whose scheduler block answers. -/
def queueAt (s : State) (x : Word) (die q : Nat) : Prop :=
  x.toNat = die * 256 + q ∧ die < 8 ∧ q < 16 ∧ (s.die die).pw.state ≠ .hold

end Sys2Proof.Machine.Claims

section
open Sys2Proof Sys2Proof.Machine Sys2Proof.Machine.Claims

/-- R149, R150, R151, R158, R375: a send or reply injects one message for every active instance, in instance order: its type and tag, its
payload words, its vector, the sending core, virtual function and launch; to the core it names, or for a reply to the sender of the
message that started the activation, toward the host's reply ring when the host sent it; a reply without such a message is HBIND. While
the request channel has no credit it waits. -/
def Obligations.SendsInjectMessages : Prop :=
  ∀ (i : Instr) (w p n ty : Nat) (c v : Option Nat) (s : State),
    sendForm i = some (c, p, n, ty, v) → encode i = some w →
    s.admits { word := w, reads := sendReads c p n v, ends := true } = true →
    let S := s.ctx.tagUnion (sendReads c p n v) ||| (if v = some 62 then 2 ^ s.ctx.lift.levels.length - 1 else 0)
    let act := activeOf s.ctx.lift S
    let x := (extended s.ctx.hints 8 ty).1
    let from_ := s.ctx.id.msg
    let type := if c = none ∧ x % 256 = 0 then from_.tag % 256 else x % 256
    let tag := if c = none then from_.tag else x / 256
    let words (k : Nat) : List Word := (List.range n).map fun j => atInst (s.ctx.sreg (p + j)) k
    let vec (k : Nat) : Option Vec := v.map fun u => (sourceOf s u).2 k
    let m (k dst : Nat) : Msg := { type := type, tag := tag, words := words k, vec := vec k, src := BitVec.ofNat 64 s.cur,
                                   dst := dst, vf := s.ctx.id.vf, launch := s.ctx.id.launch, sent := true }
    let credit := (s.core s.cur).noCredit = false
    x < 2 ^ 32 → (∀ u, v = some u → sourceReady s (1, u) ∧ matrixIdle s ∧ parityClean s) →
    (∀ dst : Nat → Nat, (∀ k ∈ act, dst k < 2048 ∧ inQuads s.myVf (dst k) = true ∧ match c with
        | some c => (atInst (s.ctx.sreg c) k).toNat = dst k
        | none => s.ctx.id.node = none ∧ s.ctx.id.system = false ∧ from_.src.toNat = dst k) →
      (¬ credit → ∃ t, exec i s = .next t ∧ waits s t) ∧
      (credit → ∃ t, exec i s = .next t ∧ t.net = s.net ++ act.map (fun k => ⟨0, s.cur, dst k, .msg (m k (dst k))⟩) ∧
        t.host = s.host ∧ goesOn s t ∧ keepsMemory s t ∧ t.ctx.startsRegion [] ∧
        ∀ u, v = some u → isPort u = true → tget (t.core s.cur).fifos [] u = (tget (s.core s.cur).fifos [] u).drop 1)) ∧
    (c = none → s.ctx.id.node = none → s.ctx.id.system = false → from_.src = 0x10000 → credit →
      ∃ t, exec i s = .next t ∧ t.host = s.host ∧ t.net = s.net ++ act.map (fun k => ⟨0, s.cur, hostNode, .msg (m k 0)⟩) ∧
        goesOn s t ∧ keepsMemory s t ∧ t.ctx.startsRegion []) ∧
    (c = none → s.ctx.id.node.isSome = true ∨ s.ctx.id.system = true → S = 0 →
      ∃ t, exec i s = .next t ∧ s.parksWith t w 0x19 0 0 false false)

/-- R161, R162: `bind` enters a checked binding for a type, `unbind` removes it; a type from 240 to 252 or beyond 255 is HBIND. With
nothing pending for the type, `bind` changes no queue; `unbind` moves the mailbox's messages of an ordinary type to the pending queue. -/
def Obligations.BindingTable : Prop :=
  (∀ (t e c va : Nat) (s : State),
    let ty := (s.ctx.sv t).toNat
    let f := (s.ctx.sv c).toNat
    s.admits { word := wordBind t e c, reads := [t, e, c], once := true } = true → (ty < 240 ∨ (253 ≤ ty ∧ ty ≤ 255)) →
    ptrCheck s.myVf (s.ctx.sv e) permX 4 = .ok va → f < 2 ^ 14 → f / 16 % 16 = 0 → 1 ≤ f % 16 → f % 16 ≤ 8 →
    f / 256 ≤ 48 →
    let q := (s.core s.cur).q
    let bs := tput q.bindings ty ⟨s.ctx.sv e, f % 16, f / 256⟩
    ∃ u, exec (.bind t e c) s = .next u ∧ (u.core s.cur).q.bindings = bs ∧ goesOn s u ∧ keepsMemory s u ∧
      ((∀ m ∈ q.pendq, m.type ≠ ty) → (u.core s.cur).q = { q with bindings := bs } ∧ u.net = s.net)) ∧
  (∀ (t : Nat) (s : State),
    let ty := (s.ctx.sv t).toNat
    s.admits { word := wordUnbind t, reads := [t], once := true } = true → (ty < 240 ∨ (253 ≤ ty ∧ ty ≤ 255)) →
    let q := (s.core s.cur).q
    let ms := q.mailbox.filter fun m => m.type == ty
    q.pendq.length + ms.length ≤ 16 →
    ∃ u, exec (.unbind t) s = .next u ∧ goesOn s u ∧ keepsMemory s u ∧ u.net = s.net ∧
      (u.core s.cur).q = (if 240 ≤ ty then { q with bindings := tdel q.bindings ty }
        else { q with bindings := tdel q.bindings ty, mailbox := q.mailbox.filter (fun m => m.type != ty),
                      pendq := q.pendq ++ ms })) ∧
  (∀ (t e c : Nat) (s : State),
    let ty := (s.ctx.sv t).toNat
    (240 ≤ ty ∧ ty < 253 ∨ 256 ≤ ty) →
    (s.admits { word := wordBind t e c, reads := [t, e, c], once := true } = true →
      ∃ u, exec (.bind t e c) s = .next u ∧ s.parksWith u (wordBind t e c) 0x19 0 0 false false) ∧
    (s.admits { word := wordUnbind t, reads := [t], once := true } = true →
      ∃ u, exec (.unbind t) s = .next u ∧ s.parksWith u (wordUnbind t) 0x19 0 0 false false))

/-- R163, R164, R165, R170: `done` ends the activation and frees its context, and begins the completion of the node whose start
activation it was, unless the node is held; `refuse` ends one that an ordinary message started and sends the message back with reason 3,
to the core that sent it or toward the host's event ring. Both wait for matrix commands, fault LJOIN in an open frame and ACCF for a
pending accumulator trap; `refuse` in an activation that a node's dispatch or a system message started is HBIND. `msgrd` reads the
message. -/
def Obligations.ActivationsEnd : Prop :=
  (∀ s : State, s.admits { word := wordDone, ends := true } = true →
    (mayEnd s → ∃ t, exec .done s = .next t ∧ t.ctx = {} ∧ keepsMemory s t ∧
      (notAborting s → t.net = s.net ∧
        ∀ ref n, s.ctx.id.node = some ref → s.nodeAt ref = some n → n.state = .running → n.held = false → n.completing = none →
          t.nodeAt ref = some { n with completing := some (s.ctx.ownerOf s.cur s.curCtx), pages := s.ctx.pages })) ∧
    mayNotEnd .done wordDone s) ∧
  (∀ s : State, s.admits { word := wordRefuse, ends := true } = true →
    let m := s.ctx.id.msg
    (s.ctx.id.node = none → s.ctx.id.system = false →
      (mayEnd s → ∃ t, exec .refuse s = .next t ∧ t.ctx = {} ∧ keepsMemory s t ∧ (notAborting s →
        (m.fromCore = true → t.net = s.net ++ [⟨2, s.cur, m.src.toNat, .msg (refusalOf s.cur m 3)⟩]) ∧
        (m.fromHost = true → t.net = s.net ++ [⟨2, s.cur, hostNode, .msg (refusalOf s.cur m 3)⟩]))) ∧
      mayNotEnd .refuse wordRefuse s) ∧
    (s.ctx.id.node.isSome = true ∨ s.ctx.id.system = true →
      ∃ t, exec .refuse s = .next t ∧ s.parksWith t wordRefuse 0x19 0 0 false false)) ∧
  (∀ (d i : Nat) (v : Word) (s : State), (Instr.msgrd d i).wf = true →
    s.admits { word := wordMsgrd d i, writes := [d], once := true } = true → scalarRoom s d 0 (fun _ => v) →
    let m := s.ctx.id.msg
    v = (if i < 6 then m.words[i]?.getD 0 else if i = 6 then (if s.ctx.id.node.isSome then 0 else BitVec.ofNat 64 (m.type + m.tag * 256))
      else if i = 7 then m.src else if i = 8 then m.sys else BitVec.ofNat 64 ((m.vec.getD 0).toNat / 2 ^ (64 * (i - 16)))) →
    writesScalar (.msgrd d i) s d 0 fun _ => v)

/-- R174, R175: `jset` posts the setting of a local join record, `arrive` an arrival at a core's record with its earlier writes released
toward it, both ending the region; `jget` reads count, generation and type of local records, once nothing the core sent itself waits. -/
def Sys2Proof.Machine.Claims.joinInstructions : Prop :=
  (∀ (a b ty : Nat) (s : State),
    let w := wordJset a b ty
    s.admits { word := w, reads := [a, b], ends := true } = true → s.ctx.tagUnion [a, b] = 0 → wordAtInst s a 0 (s.ctx.sv a).toNat →
    s.ctx.sv b ≠ 0 → (s.ctx.sv b).toNat < 2 ^ 32 → ty < 240 → matrixIdle s →
    ∃ t, exec (.jset a b ty) s = .next t ∧ goesOn s t ∧ keepsMemory s t ∧ t.ctx.startsRegion [] ∧
      t.net = s.net ++ [⟨0, s.cur, s.cur, .remote (.jset (s.ctx.sv a).toNat (s.ctx.sv b).toNat ty (s.owner w))⟩]) ∧
  (∀ (a b p c : Nat) (s : State),
    let w := wordArrive a b
    let regs := if b = 0 then [a] else [a, b]
    let n := if b = 0 then 1 else (s.ctx.sv b).toNat
    s.admits { word := w, reads := regs, ends := true } = true → s.ctx.tagUnion regs = 0 →
    resolveRef s (s.ctx.sv a) true = .ok (p, c) → p + 16 ≤ 786432 → p % 16 = 0 → 1 ≤ n → n < 2 ^ 32 → matrixIdle s →
    releasedToward s (dieOf c) →
    ∃ t, exec (.arrive a b) s = .next t ∧ goesOn s t ∧ keepsMemory s t ∧ t.ctx.startsRegion [] ∧
      (tlook t.writes s.serial).isSome = true ∧
      t.net = s.net ++ [⟨0, s.cur, c, .remote (.arrive p n (s.owner w) s.serial)⟩]) ∧
  (∀ (d a : Nat) (addr : Nat → Nat) (s : State),
    let S := s.ctx.tagUnion [a]
    s.admits { word := wordJget d a, reads := [a], writes := [d] } = true → matrixIdle s →
    (∀ k ∈ activeOf s.ctx.lift S, wordAtInst s a k (addr k)) →
    let v (k : Nat) : Word :=
      if k ∈ activeOf s.ctx.lift S then BitVec.ofNat 64 (mreadNat (s.core s.cur).spad (addr k) 16 / 2 ^ 32 % 2 ^ 57) else 0
    scalarRoom s d S v →
    (s.ownOps s.cur = false → writesScalar (.jget d a) s d S v) ∧
    (s.ownOps s.cur = true → ∃ t, exec (.jget d a) s = .next t ∧ waits s t))

/-- R170, R172, R173: `gdef` defines a node from a descriptor in the own scratchpad and answers its reference, or a refusal code, the
room in node SRAM being checked last (L64, a choice of the model); `gsucc` adds an edge to a pending node, or answers 1, 2 or 3; `gdone`
completes and `gdone.hold` holds a running node, answering 0, or 1 where it is not running, which a node that is completing already
counts as (L27, a choice of the model); `gqry` reads a node. Operands untagged. -/
def Sys2Proof.Machine.Claims.graphInstructions : Prop :=
  (∀ (d a : Nat) (s : State), s.admits { word := wordGdef d a, reads := [a], writes := [d], ends := true } = true →
    s.ctx.tagUnion [a] = 0 → matrixIdle s → spadRange (s.ctx.sv a) 80 →
    let e := descOf (mread (s.core s.cur).spad (s.ctx.sv a).toNat 80)
    (∃ va, ptrCheck s.myVf e.entry permX 4 = .ok va) → (∀ v : Word, scalarRoom s d 0 (fun _ => v)) →
    let nodes := (s.die s.myDie).nodes
    ∃ t, exec (.gdef d a) s = .next t ∧ t.ctx.startsRegion [sCode d] ∧
      match requestFault s.isFloor e with
      | some f => answers s t d (BitVec.ofNat 64 (2 ^ 63 + f.1)) ∧ t.dies = s.dies
      | none =>
        if 65536 ≤ (s.die s.myDie).nodeUsed then answers s t d (BitVec.ofNat 64 (2 ^ 63 + 6)) ∧ t.dies = s.dies
        else ∃ i, tlook nodes i = none ∧ (∀ j < i, (tlook nodes j).isSome = true) ∧
          answers s t d (BitVec.ofNat 64 (s.myDie * 65536 + i)) ∧
          (t.die s.myDie).nodes = tput nodes i (nodeOf e s.ctx.id.vf s.ctx.id.launch)) ∧
  (∀ (d a b : Nat) (s : State), s.admits { word := wordGsucc d a b, reads := [a, b], writes := [d], ends := true } = true →
    s.ctx.tagUnion [a, b] = 0 → nodeRefOk s (s.ctx.sv a) → nodeRefOk s (s.ctx.sv b) →
    let p := (s.ctx.sv a).toNat
    let q := (s.ctx.sv b).toNat
    p ≠ q → (∀ v : Word, scalarRoom s d 0 (fun _ => v)) →
    ∃ t, exec (.gsucc d a b) s = .next t ∧
      ((∀ m, s.nodeAt q = some m → m.state ≠ .pending) → answers s t d 1 ∧ t.dies = s.dies) ∧
      (∀ m, s.nodeAt q = some m → m.state = .pending →
        ((∀ n, s.nodeAt p = some n → n.state = .done) → answers s t d 2 ∧ t.dies = s.dies) ∧
        (∀ n, s.nodeAt p = some n → n.state ≠ .done →
          let need := (s.die (p / 65536)).nodeUsed + nodeEntries (n.succs.length + 1) - nodeEntries n.succs.length
          (65536 < need → answers s t d 3 ∧ t.dies = s.dies) ∧
          (need ≤ 65536 → answers s t d 0 ∧ t.nodeAt p = some { n with succs := n.succs ++ [q] } ∧
            t.nodeAt q = some { m with count := m.count + 1 })))) ∧
  (∀ (d a : Nat) (hold : Bool) (s : State),
    let i : Instr := if hold then .gdoneHold d a else .gdone d a
    let w := if hold then wordGdoneHold d a else wordGdone d a
    s.admits { word := w, reads := [a], writes := [d], ends := true } = true →
    s.ctx.tagUnion [a] = 0 → nodeRefOk s (s.ctx.sv a) → (∀ v : Word, scalarRoom s d 0 (fun _ => v)) →
    let p := (s.ctx.sv a).toNat
    ∃ t, exec i s = .next t ∧
      ((∀ n, s.nodeAt p = some n → n.state ≠ .running ∨ n.completing ≠ none) → answers s t d 1 ∧ t.dies = s.dies) ∧
      (∀ n, s.nodeAt p = some n → n.state = .running → n.completing = none → answers s t d 0 ∧
        t.nodeAt p = some (if hold then { n with held := true }
          else { n with completing := some (s.owner 0), pages := s.ctx.pages }))) ∧
  (∀ (d a : Nat) (s : State), s.admits { word := wordGqry d a, reads := [a], writes := [d] } = true →
    s.ctx.tagUnion [a] = 0 → nodeRefOk s (s.ctx.sv a) →
    let v := nodeWord s (s.ctx.sv a).toNat (s.nodeAt (s.ctx.sv a).toNat)
    scalarRoom s d 0 (fun _ => v) → writesScalar (.gqry d a) s d 0 fun _ => v)

/-- R176: `wput` appends a range to a queue of the own virtual function, its earlier writes released toward the queue's die, and answers
0, 1 when the queue is full, 2 for an empty range, of a full queue and an empty range the first (L27, a choice of the model); `wtake`
takes from the oldest range, all ones from an empty queue; `wqcfg` takes, empties or gives up a queue and answers how many ranges it
held. That a queue nobody owns can only be taken (L27), and that bits 0 and 1 together empty and release a queue (L64), are choices of
the model. Operands untagged. -/
def Sys2Proof.Machine.Claims.workQueues : Prop :=
  (∀ (d a b die q : Nat) (s : State), s.admits { word := wordWput d a b, reads := [a, b], writes := [d], ends := true } = true →
    s.ctx.tagUnion [a, b] = 0 → queueAt s (s.ctx.sv a) die q → (s.workQ (die, q)).owner = some s.ctx.id.vf →
    releasedToward s die → (∀ v : Word, scalarRoom s d 0 (fun _ => v)) →
    let lo := (s.ctx.sv b).toNat % 2 ^ 32
    let hi := (s.ctx.sv b).toNat / 2 ^ 32
    let old := s.workQ (die, q)
    ∃ t, exec (.wput d a b) s = .next t ∧
      (if 1024 ≤ old.ranges.length then answers s t d 1 ∧ t.workQ (die, q) = old
       else if hi ≤ lo then answers s t d 2 ∧ t.workQ (die, q) = old
       else answers s t d 0 ∧ t.workQ (die, q) = { old with ranges := old.ranges ++ [(lo, hi)] })) ∧
  (∀ (d a b die q : Nat) (s : State), s.admits { word := wordWtake d a b, reads := [a, b], writes := [d], ends := true } = true →
    s.ctx.tagUnion [a, b] = 0 → queueAt s (s.ctx.sv a) die q → (s.workQ (die, q)).owner = some s.ctx.id.vf →
    (∀ v : Word, scalarRoom s d 0 (fun _ => v)) →
    let n := (s.ctx.sv b).toNat
    let old := s.workQ (die, q)
    ∃ t, exec (.wtake d a b) s = .next t ∧ match old.ranges with
      | [] => answers s t d (BitVec.allOnes 64) ∧ t.workQ (die, q) = old
      | (lo, hi) :: rest =>
        let m := if n = 0 then hi else min hi (lo + n)
        answers s t d (BitVec.ofNat 64 (lo + m * 2 ^ 32)) ∧
          t.workQ (die, q) = { old with ranges := if m = hi then rest else (m, hi) :: rest }) ∧
  (∀ (d a b die q : Nat) (s : State), s.admits { word := wordWqcfg d a b, reads := [a, b], writes := [d] } = true →
    s.ctx.tagUnion [a, b] = 0 → queueAt s (s.ctx.sv a) die q → (∀ v : Word, scalarRoom s d 0 (fun _ => v)) →
    let f := (s.ctx.sv b).toNat
    let old := s.workQ (die, q)
    f < 4 → (old.owner = some s.ctx.id.vf ∨ (old.owner = none ∧ f % 2 = 1)) →
    ∃ t, exec (.wqcfg d a b) s = .next t ∧
      (f = 0 → answers s t d 0 ∧ t.workQ (die, q) = old) ∧
      (f ≠ 0 → answers s t d (BitVec.ofNat 64 old.ranges.length) ∧
        t.workQ (die, q) = ⟨if 2 ≤ f then none else some s.ctx.id.vf, []⟩))

/-- R178, R179, R180: `hcfg` makes a ring of slots in the own scratchpad, empty; `hadv` frees filled slots, `hadv.p` fills free ones, and
each parks with BOUNDS, detail 3, when fewer are there; `hget` reads a handle; a handle without slots is BOUNDS. -/
def Sys2Proof.Machine.Claims.bufferHandles : Prop :=
  (∀ (h a z0 z t : Nat) (s : State), (Instr.hcfg h a z0 z t).wf = true →
    s.admits { word := wordHcfg h a z0 z t, reads := [a], once := true } = true → fillsHandle s (h - 52) = false →
    let slots : Nat := 2 ^ z0
    let size : Nat := 8 * 2 ^ z
    t + 1 ≤ slots → spadRange (s.ctx.sv a) (slots * size) →
    ∃ u, exec (.hcfg h a z0 z t) s = .next u ∧
      u.ctx.handle (h - 52) = { base := (s.ctx.sv a).toNat, slots := slots, z := z, take := t + 1 } ∧
      (∀ k, k ≠ h - 52 → u.ctx.handle k = s.ctx.handle k) ∧ u.ctx.regs = s.ctx.regs ∧ u.ctx.pc = pc4 s ∧ s.onlyCtx u) ∧
  (∀ (h n : Nat) (produce : Bool) (s : State),
    let i : Instr := if produce then .hadvP h n else .hadv h n
    let w := if produce then wordHadvP h n else wordHadv h n
    let v := s.ctx.handle (h - 52)
    let there := if produce then s.ctx.freeSlots (h - 52) else v.filled
    i.wf = true → s.admits { word := w, once := true } = true → v.slots ≠ 0 →
    (n ≤ there → ∃ u, exec i s = .next u ∧
      u.ctx.handle (h - 52) = (if produce then { v with widx := (v.widx + n) % v.slots, filled := v.filled + n }
        else { v with ridx := (v.ridx + n) % v.slots, filled := v.filled - n }) ∧
      (∀ k, k ≠ h - 52 → u.ctx.handle k = s.ctx.handle k) ∧ u.ctx.regs = s.ctx.regs ∧ u.ctx.pc = pc4 s ∧ s.onlyCtx u) ∧
    (there < n → ∃ u, exec i s = .next u ∧ s.parksWith u w 0x05 3 (BitVec.ofNat 64 n) false false)) ∧
  (∀ (d h : Nat) (s : State), s.admits { word := wordHget d h, writes := [d], once := true } = true →
    let v := s.ctx.handle (h - 52)
    let x : Word := BitVec.ofNat 64
      (v.filled + v.slots * 2 ^ 8 + v.ridx * 2 ^ 16 + v.widx * 2 ^ 24 + (v.take - 1) * 2 ^ 32 + v.z * 2 ^ 40 + v.base * 2 ^ 44)
    (v.slots ≠ 0 → scalarRoom s d 0 (fun _ => x) → writesScalar (.hget d h) s d 0 fun _ => x) ∧
    (v.slots = 0 → ∃ u, exec (.hget d h) s = .next u ∧
      s.parksWith u (wordHget d h) 0x05 3 (BitVec.ofNat 64 h) false false))

/-- Join words and buffer handles (R175, R178, R179). -/
def Obligations.JoinsAndHandles : Prop := joinInstructions ∧ bufferHandles

/-- The graph instructions and the work queues (R172, R176). That `gdef` answers the lowest free node of its graph is the model's choice
(L26). -/
def Obligations.GraphsAndQueues : Prop := graphInstructions ∧ workQueues

end
/-! ## Complexes, cochains, seams, remeshing -/

namespace Sys2Proof.Machine.Claims

/-- The cochain unit of the own core is the executing context's at once, and no traffic comes between its words (R306). -/
def unitFree (s : State) : Prop := s.unitQueue = [] ∧ (s.core s.cur).pace = 0 ∧ s.ctx.held = none

/-- A cochain word of the own core has written one cochain register: every other register, HBM, the other scratchpads and the traffic are
as before. -/
def writesCochain (s t : State) (d : Nat) (k : KReg) : Prop :=
  t.ctx.kreg d = k ∧ (∀ c, c < 256 → c ≠ kCode d → t.ctx.save c = s.ctx.save c) ∧ t.ctx.pc = pc4 s ∧ t.hbm = s.hbm ∧
  t.net = s.net ∧ ∀ c, c ≠ s.cur → (t.core c).spad = (s.core c).spad

/-- The cochain operators (R296 to R305): destination, cochain sources, scalar source, rounding code, agreement, and the element at a
row and channel. -/
def cochainForm : Instr → Option (Nat × List Nat × Option Nat × Nat × KSpec × (KIn → Nat → Nat → KElem))
  | .kd d a r => some (d, [a], none, r, specUp, fun i c j => topoSum i (i.x.face i.dst.deg c) j)
  | .kdt d a r => some (d, [a], none, r, specDown, fun i c j => topoSum i (i.x.cofaces i.dst.deg c) j)
  | .kstar d a r => some (d, [a], none, r, specFloat, fun i c j =>
      (fMulAdd (kFmt i.dst.fmt) i.mode (i.x.weight i.dst.deg c) (i.val 0 c j) []).elem)
  | .kstari d a r => some (d, [a], none, r, specFloat, fun i c j =>
      (divVal (kFmt i.dst.fmt) i.mode (i.val 0 c j) (i.x.weight i.dst.deg c)).elem)
  | .kcod d a r => some (d, [a], none, r, specDownFloat, fun i f j =>
      let ts := (i.x.cofaces i.dst.deg f).map fun t =>
        let p := prodTerm (i.x.weight (i.dst.deg + 1) t.1) (i.val 0 t.1 j)
        (if t.2 < 0 then p.1.flip else p.1, p.2)
      let q := sumDiv (kFmt i.dst.fmt) i.mode (ts.map fun t => t.1) (i.x.weight i.dst.deg f)
      ⟨q.bits, ts.foldl (fun fl t => fl ||| t.2) q.flags, false⟩)
  | .kwedge d a b r => some (d, [a, b], none, r, specWedge, fun i c j =>
      let n := i.dst.deg + 1
      let ts := (perms n (List.range n)).map fun t =>
        let u := t.map (at0 (i.x.vert i.dst.deg c))
        let q := prodTerm (alpha i 0 i.dst.deg c j (u.take ((i.src 0).deg + 1))) (alpha i 1 i.dst.deg c j (u.drop (i.src 0).deg))
        (if oddPerm t then q.1.flip else q.1, q.2)
      let q := sumRound (kFmt i.dst.fmt) i.mode (ts.map fun t => t.1) 1 (fact n)
      ⟨q.bits, ts.foldl (fun fl t => fl ||| t.2) q.flags, false⟩)
  | .kinterp d a b r => some (d, [a, b], none, r, specInterp, fun i c j =>
      let ts := (i.x.vert i.dst.deg c).mapIdx fun n v => prodTerm (i.val 1 c n) (i.val 0 v j)
      let q := sumRound (kFmt i.dst.fmt) i.mode (ts.map fun t => t.1) 1 1
      ⟨q.bits, ts.foldl (fun fl t => fl ||| t.2) q.flags, false⟩)
  | .kadd d a b r => some (d, [a, b], none, r, specAdd, fun i c j =>
      if i.dst.fmt = 0 then bxElem (sxt 32 (i.elem 0 c j) + sxt 32 (i.elem 1 c j))
      else (fAdd (kFmt i.dst.fmt) i.mode (i.elem 0 c j) (i.elem 1 c j)).elem)
  | .ksub d a b r => some (d, [a, b], none, r, specAdd, fun i c j =>
      if i.dst.fmt = 0 then bxElem (sxt 32 (i.elem 0 c j) - sxt 32 (i.elem 1 c j))
      else (fSub (kFmt i.dst.fmt) i.mode (i.elem 0 c j) (i.elem 1 c j)).elem)
  | .kmul d a b r => some (d, [a, b], none, r, specFloat, fun i c j =>
      (fMul (kFmt i.dst.fmt) i.mode (i.elem 0 c j) (i.elem 1 c j)).elem)
  | .ksc d a b r => some (d, [a], some b, r, specSame, fun i c j =>
      let x := i.sc.toNat % 2 ^ 32
      if i.dst.fmt = 0 then bxElem (sxt 32 (i.elem 0 c j) * sxt 32 x)
      else (fMulAdd (kFmt i.dst.fmt) i.mode (i.val 0 c j) (f32.read x) []).elem)
  | .kmov d a => some (d, [a], none, 0, specSame, fun i c j => ⟨i.elem 0 c j, 0, false⟩)
  | .kcvtBx d a r => some (d, [a], none, r, specCvt 0, cvtBx)
  | .kcvtBxFix d a r => some (d, [a], none, r, specCvt 0, cvtBx)
  | .kcvtF32 d a r => some (d, [a], none, r, specCvt 1, cvtFloat)
  | .kcvtF16 d a r => some (d, [a], none, r, specCvt 2, cvtFloat)
  | .kcvtBf16 d a r => some (d, [a], none, r, specCvt 3, cvtFloat)
  | _ => none

/-- The exponent byte of a result: `kcvt.bx` chooses one from its source (R90), the other conversions keep the destination's, and every
other bx result takes that of its first source (R296, R304). -/
def cochainExp (i : Instr) (ks : List KReg) (k : KReg) (mode : Nat) (rows : List (List (List Nat))) : Nat :=
  match i with
  | .kcvtBx _ _ _ => wrapN 8 (autoE mode (((rows.head?.getD []).flatten).map fun x => kVal (kAt ks 0) x))
  | .kcvtBxFix _ _ _ => k.exp
  | .kcvtF32 _ _ _ => k.exp
  | .kcvtF16 _ _ _ => k.exp
  | .kcvtBf16 _ _ _ => k.exp
  | _ => if k.fmt = 0 then (kAt ks 0).exp else k.exp

/-- A cochain register is defined and bound to the current complex of its slot (R292). -/
def liveReg (s : State) (n : Nat) : Prop :=
  (s.ctx.kreg n).defined = true ∧ (s.core s.cur).bindState (s.ctx.kreg n) = .live

/-- The remeshing operation an instruction names (R323, R325): destination, slot, registers read, the operation. -/
def remeshOp (s : State) : Instr → Option (Nat × Nat × List Nat × RmOp)
  | .rmpoke d a b x =>
    let w := (s.ctx.sv b).toNat
    some (d, x, [a, b], .poke (s.ctx.sv a).toNat (w % 65536) (w / 2 ^ 16 % 65536) (w / 2 ^ 32 % 65536))
  | .rmsplit d a b x =>
    let w := (s.ctx.sv b).toNat
    some (d, x, [a, b], .split (s.ctx.sv a).toNat (w % 65536) (w / 2 ^ 16 % 65536))
  | .rmflip d a x => some (d, x, [a], .flip (s.ctx.sv a).toNat)
  | .rmclps d a b x => some (d, x, [a, b], .clps (s.ctx.sv a).toNat (decide (s.ctx.sv b = 1)))
  | _ => none

/-- Reason 2 of R324 is clear: the index names a live cell of the degree. -/
def remeshIndex (s : State) (p : PendCplx) (i : Instr) : Prop :=
  let lives (t : Table (List Nat)) (a : Nat) : Prop := (s.ctx.sv a).toNat < 65536 ∧ (tlook t (s.ctx.sv a).toNat).isSome = true
  match i with
  | .rmpoke _ a _ _ => lives p.tris a
  | .rmsplit _ a _ _ => lives p.edges a
  | .rmflip _ a _ => lives p.edges a
  | .rmclps _ a _ _ => lives p.edges a
  | _ => False

/-- Reason 3 of R324 is clear: no weight is zero, and no bit that must be zero is set. -/
def remeshOperand (s : State) : Instr → Prop
  | .rmpoke _ _ b _ =>
    let w := (s.ctx.sv b).toNat
    w < 2 ^ 48 ∧ w % 65536 ≠ 0 ∧ w / 2 ^ 16 % 65536 ≠ 0 ∧ w / 2 ^ 32 ≠ 0
  | .rmsplit _ _ b _ =>
    let w := (s.ctx.sv b).toNat
    w < 2 ^ 32 ∧ w % 65536 ≠ 0 ∧ w / 2 ^ 16 ≠ 0
  | .rmclps _ _ b _ => (s.ctx.sv b).toNat < 2
  | _ => True

/-- Reason 6 of R324 is clear: counts, the room of the complex store, the number of operations recorded. -/
def remeshRoom (k : Core) (sl : Slot) (p q : PendCplx) : Prop :=
  q.nv < 65536 ∧ q.ne < 65536 ∧ q.nt < 65536 ∧ k.storeUsed - sl.store + Slot.store { sl with pend := some q } ≤ Config.complexBytes ∧
  p.ops.length < 1024

/-- A slot word has completed: slot x holds v, the other slots and memory are as before, d holds the answer. -/
def slotAnswers (s t : State) (x : Nat) (v : Slot) (d : Nat) (r : Word) : Prop :=
  (t.core s.cur).slot x = v ∧ (∀ y, y ≠ x → (t.core s.cur).slot y = (s.core s.cur).slot y) ∧
  t.ctx.sreg d = scalarResult s d 0 (fun _ => r) ∧ (∀ c, c < 256 → c ≠ sCode d → t.ctx.save c = s.ctx.save c) ∧
  t.ctx.pc = pc4 s ∧ keepsMemory s t

/-- Rows of a register from cell 0 upward, written at an instance number (R281, R368). -/
def rowsPut (k : KReg) (n inst : Nat) (rows : List (List Nat)) (m : Memory) : Memory :=
  (rows.mapIdx fun c r => (c, r)).foldl (fun m (e : Nat × List Nat) => kPutRow k n inst e.1 e.2 m) m

end Sys2Proof.Machine.Claims

section
open Sys2Proof Sys2Proof.Machine Sys2Proof.Machine.Claims

/-- R274, R278, R285 to R290, R312: `cxbind` binds a flawless image as the slot's next generation and registers it with its owners, or
answers the flaw; `cxdrop` drops the previous tables, `cxdrop.all` all; `cxinfo` and `kinfo` read; `kdef` defines a cochain register on
the current complex, `kview` a view of channels of another. The cochain unit is free, and the model lets it finish at once (L71). -/
def Obligations.ComplexInstructions : Prop :=
  (∀ (d a x : Nat) (s : State),
    let w := wordCxbind d a x
    let p := (s.ctx.sv a).toNat
    let m := (s.core s.cur).spad
    let k := s.core s.cur
    let sl := k.slot x
    let g := if sl.ctr = 65535 then 1 else sl.ctr + 1
    s.admits { word := w, reads := [a], writes := [d], ends := true, once := true } = true → spadRange (s.ctx.sv a) 80 →
    p + mreadNat m (p + 28) 4 ≤ 786432 → matrixIdle s → unitFree s → (∀ v : Word, scalarRoom s d 0 (fun _ => v)) →
    ∃ t, exec (.cxbind d a x) s = .next t ∧ t.ctx.startsRegion [sCode d] ∧
      match readImage (fun o n => mreadNat m (p + o) n) s.ctx.id.slice (Config.complexBytes - (k.storeUsed - sl.store)) with
      | .error f => slotAnswers s t x sl d (BitVec.ofNat 64 (2 ^ 63 + f.1 * 65536 + f.2)) ∧ t.net = s.net
      | .ok c => slotAnswers s t x { ctr := g, cur := some { c with gen := g }, named := c.ownerSlices } d (BitVec.ofNat 64 g) ∧
          t.net = (registerCplx s (s.owner w) x s.ctx.id.slice sl.named c).net) ∧
  (∀ (x : Nat) (s : State),
    let sl := (s.core s.cur).slot x
    unitFree s → (s.admits { word := wordCxdrop x, ends := true, once := true } = true →
      ∃ t, exec (.cxdrop x) s = .next t ∧ (t.core s.cur).slot x = { sl with prev := none, log := none } ∧ goesOn s t ∧
        keepsMemory s t ∧ t.net = s.net ∧ t.ctx.startsRegion []) ∧
    (s.admits { word := wordCxdropAll x, ends := true, once := true } = true →
      ∃ t, exec (.cxdropAll x) s = .next t ∧ (t.core s.cur).slot x = { ctr := sl.ctr, named := sl.named } ∧ goesOn s t ∧
        keepsMemory s t ∧ t.net = s.net ∧ t.ctx.startsRegion [])) ∧
  (∀ (d i x : Nat) (s : State), s.admits { word := wordCxinfo d i x, writes := [d] } = true →
    let v := cxinfoWord (s.core s.cur) x i
    scalarRoom s d 0 (fun _ => v) → writesScalar (.cxinfo d i x) s d 0 fun _ => v) ∧
  (∀ (k a b : Nat) (c : Cplx) (s : State), s.admits { word := wordKdef k a b, reads := [a, b], writes := [kCode k], once := true } = true →
    let w0 := s.ctx.sv a
    let w1 := s.ctx.sv b
    let r : KReg := { w0 := w0, w1 := w1 }
    let T := destTags s.ctx.lift 0 (s.ctx.kreg k).tags
    w0 &&& ~~~ 0x0000001FFFFF0000 = 0 → w1 &&& ~~~ 0x00000FFFFFFFFFFF = 0 → ((s.core s.cur).slot r.slot).cur = some c →
    unitFree s → r.deg ≤ c.dim → (r.fmt ≠ 0 → r.exp = 0) → r.base % 8 = 0 → (r.choff + r.chm + 1) * r.es ≤ r.rowBytes →
    kSpan s r c 0 = .ok () → kSpan s r c T = .ok () →
    ∃ t, exec (.kdef k a b) s = .next t ∧ keepsMemory s t ∧
      writesCochain s t k { w0 := w0 ||| BitVec.ofNat 64 (c.gen * 2 ^ 48 + T * 2 ^ 44 + 2 ^ 37), w1 := w1 }) ∧
  (∀ (d k i : Nat) (s : State), s.admits { word := wordKinfo d k i, reads := [kCode k], writes := [d] } = true →
    let r := s.ctx.kreg k
    let c := (s.core s.cur).cplxOf r
    let v : Word := if r.defined = true then
        (if i = 0 then r.w0 else if i = 1 then r.w1 else BitVec.ofNat 64 (nat4 c.own r.deg + nat4 c.gh r.deg * 65536)) else 0
    (r.defined = true → (s.core s.cur).bindState r = .live) → scalarRoom s d 0 (fun _ => v) →
    writesScalar (.kinfo d k i) s d 0 fun _ => v) ∧
  (∀ (d a b : Nat) (s : State), s.admits { word := wordKview d a b, reads := [kCode a, b], writes := [kCode d] } = true →
    (s.ctx.sreg b).tags = 0 → liveReg s a → (s.ctx.kreg a).pushed = false → unitFree s →
    let r := s.ctx.kreg a
    let c0 := (s.ctx.sv b).toNat % 256
    let n := (s.ctx.sv b).toNat / 256
    1 ≤ n → n ≤ 256 → c0 + n ≤ r.chm + 1 → r.choff + c0 < 256 →
    let y : KReg := { r with w0 := setFld (setFld r.w0 41 39 0) 23 16 (n - 1), w1 := setFld r.w1 43 36 (r.choff + c0) }
    ∃ t, exec (.kview d a b) s = .next t ∧ keepsMemory s t ∧ writesCochain s t d y.clean)

/-- R281, R282, R292 to R305, R97: on registers that are live, agree, do not overlap and expect nothing, a cochain operator writes the
rows of its destination, one row per cell and one element per channel, sets its exponent byte, makes it clean, and accumulates the flags;
nothing else changes. `kdot` sums the products over the owned rows into a scalar. Untagged registers, outside open frames; the cochain
unit is free, and the model lets it finish at once (L71). -/
def Obligations.CochainOperators : Prop :=
  (∀ (i : Instr) (w d r : Nat) (srcs : List Nat) (sc : Option Nat) (sp : KSpec) (f : KIn → Nat → Nat → KElem) (s : State),
    cochainForm i = some (d, srcs, sc, r, sp, f) → encode i = some w →
    let reads := srcs.map kCode ++ sc.toList
    let ns := srcs ++ [d]
    let k := s.ctx.kreg d
    let ks := srcs.map s.ctx.kreg
    let x := (s.core s.cur).cplxOf k
    let n := x.cells k.deg
    let m := (s.core s.cur).spad
    s.admits { word := w, reads := reads, writes := [kCode d] } = true → s.ctx.tagUnion reads = 0 → s.ctx.lift.frames = [] →
    (∀ n ∈ ns, liveReg s n ∧ (s.ctx.kreg n).pushed = false) → kAgree s ns sp = .ok () →
    (∀ a ∈ ks, kOverlaps s.ctx.lift k x 0 a x = false ∧ kSpan s a x a.tags = .ok ()) → kSpan s k x 0 = .ok () → matrixIdle s →
    unitFree s → fld s.ctx.sp.kmode 0 0 = 0 →
    let rows := ks.map fun a => kRows m a (x.cells a.deg) 0
    let mode := if r = 4 then drm s.ctx.sp.fst else r
    let e := cochainExp i ks k mode rows
    let k' : KReg := { k with w0 := setFld k.w0 31 24 e }
    let inp : KIn := ⟨x, ks, k', mode, rows, (sc.map s.ctx.sv).getD 0, e⟩
    let out := (List.range n).map fun c => (List.range (k.chm + 1)).map fun j => f inp c j
    let fl := (out.flatten.foldl (fun a e => a ||| e.fl) 0) &&& (fOF + fNV + fNX)
    ∃ t, exec i s = .next t ∧ (t.core s.cur).spad = rowsPut k n 0 (out.map fun r => r.map KElem.bits) m ∧
      t.ctx.sp = { s.ctx.sp with fst := s.ctx.sp.fst ||| BitVec.ofNat 64 fl } ∧
      writesCochain s t d ((k'.withTags 0).clean.orStatus fl)) ∧
  (∀ (d a b r : Nat) (s : State), s.admits { word := wordKdot d a b r, reads := [kCode a, kCode b], writes := [d] } = true →
    s.ctx.tagUnion [kCode a, kCode b] = 0 → liveReg s a → liveReg s b → kAgree s [a, b] specSame = .ok () →
    let ka := s.ctx.kreg a
    let kb := s.ctx.kreg b
    let x := (s.core s.cur).cplxOf ka
    let n := x.cells ka.deg
    let m := (s.core s.cur).spad
    kSpan s ka x ka.tags = .ok () → kSpan s kb x kb.tags = .ok () → matrixIdle s → unitFree s →
    let ts := ((List.range (nat4 x.own ka.deg)).map fun c =>
      List.zipWith (fun p q => prodTerm (kVal ka p) (kVal kb q)) (kRow m ka n 0 c) (kRow m kb n 0 c)).flatten
    let q := sumRound f32 (if r = 4 then drm s.ctx.sp.fst else r) (ts.map fun t => t.1) 1 1
    let fl := (ts.foldl (fun fl t => fl ||| t.2) q.flags) &&& (fOF + fNV + fNX)
    let v : Word := BitVec.ofNat 64 q.bits
    (∀ v : Word, scalarRoom s d 0 (fun _ => v)) →
    ∃ t, exec (.kdot d a b r) s = .next t ∧ answers s t d v ∧
      t.ctx.sp = { s.ctx.sp with fst := s.ctx.sp.fst ||| BitVec.ofNat 64 fl })

/-- R314, R316 to R319: `kspush` and `kacc` hand rows to the seam unit, one for each copy record or ghost and active instance, and make
the register expect its arrivals, or ready when there are none; both end the region. `kswait` goes on when the register expects nothing,
waits otherwise, and faults SEAMTO once its timeout has passed. The cochain unit is free, and the model lets it finish at once (L71). -/
def Obligations.SeamInstructions : Prop :=
  (∀ (k : Nat) (s : State), s.admits { word := wordKspush k, reads := [kCode k], ends := true } = true →
    let a := s.ctx.kreg k
    let c := s.core s.cur
    let x := c.cplxOf a
    let n := (activeOf s.ctx.lift a.tags).length
    let outs := ((recordsOf c a.slot a.deg).filter fun r => decide (r.loc < nat4 x.own a.deg)).map fun r => (r.holder, r.ord, r.loc)
    unitFree s → liveReg s k → a.pushed = false → kSpan s a x a.tags = .ok () → (a.tags ≠ 0 → s.ctx.lift.frames = []) → matrixIdle s →
    c.seam.early = [] →
    ∃ t, exec (.kspush k) s = .next t ∧ writesCochain s t k (a.push 0 (nat4 x.gh a.deg * n) 0 []) ∧ keepsMemory s t ∧
      (t.core s.cur).seam.out = ((handRows s (wordKspush k) k 0 c.spad outs).core s.cur).seam.out ∧
      (t.core s.cur).seam.out.length = c.seam.out.length + outs.length * n ∧ t.ctx.region.entry = pc4 s) ∧
  (∀ (k r : Nat) (s : State), s.admits { word := wordKacc k r, reads := [kCode k], ends := true } = true →
    let a := s.ctx.kreg k
    let c := s.core s.cur
    let x := c.cplxOf a
    let n := (activeOf s.ctx.lift a.tags).length
    let recs := recordsOf c a.slot a.deg
    let outs := (x.ghostOwners a.deg).mapIdx fun g o => (o.1, g, nat4 x.own a.deg + g)
    let mode := if r = 4 then drm s.ctx.sp.fst else r
    unitFree s → liveReg s k → a.pushed = false → kSpan s a x a.tags = .ok () → (a.tags ≠ 0 → s.ctx.lift.frames = []) → matrixIdle s →
    c.storeUsed + recs.length * n * (a.es * (a.chm + 1)) ≤ Config.complexBytes → c.seam.early = [] →
    ∃ t, exec (.kacc k r) s = .next t ∧ keepsMemory s t ∧
      writesCochain s t k (a.push 1 (recs.length * n) mode (recs.map fun r => (r.holder, r.ord, r.loc))) ∧
      (t.core s.cur).seam.out = ((handRows s (wordKacc k r) k 1 c.spad outs).core s.cur).seam.out ∧
      (t.core s.cur).seam.out.length = c.seam.out.length + outs.length * n ∧ t.ctx.region.entry = pc4 s) ∧
  (∀ (k : Nat) (s : State), s.admits { word := wordKswait k, reads := [kCode k] } = true →
    let a := s.ctx.kreg k
    unitFree s → liveReg s k → kSpan s a ((s.core s.cur).cplxOf a) a.tags = .ok () → (a.tags ≠ 0 → s.ctx.lift.frames = []) →
    (a.pushed = false → ∃ t, exec (.kswait k) s = .next t ∧ s.quiet t []) ∧
    (a.pushed = true → s.ctx.tmo = false →
      ∃ t, exec (.kswait k) s = .next t ∧ t = s.modCtx fun x => { x with wait := .seam k }) ∧
    (a.pushed = true → s.ctx.tmo = true → ∃ t, exec (.kswait k) s = .next t ∧
      s.parksWith t (wordKswait k) 0x0A (if a.kind = 0 then 1 else 2) (BitVec.ofNat 64 (k + a.count % 65536 * 16)) false false))

/-- R321, R322, R324, R325, R326: a remeshing operation that meets no reason of R324 is applied to the slot's pending complex, copied from
the current one at first, and answers its principal cell. Otherwise the slot stands as it was: reason 1 without a 2-dimensional simplicial
complex, 2 for an index, 3 for a weight; then on a seam cell it faults SEAMRM, the record naming the first of them in the order of L48, a
choice of the model; then reason 4 or 5, and 6 for want of room. `rmcmit` makes the pending complex the next generation and the current
one the previous and renumbers the copy records, or answers 1, 9, 7 or 8, in this order (L48, a choice of the model). The cochain unit is
free, and the model lets it finish at once (L71). -/
def Sys2Proof.Machine.Claims.remeshing : Prop :=
  (∀ (i : Instr) (w d x : Nat) (regs : List Nat) (op : RmOp) (s : State),
    remeshOp s i = some (d, x, regs, op) → encode i = some w →
    s.admits { word := w, reads := regs, writes := [d], ends := true, once := true } = true →
    (∀ v : Word, scalarRoom s d 0 (fun _ => v)) → unitFree s →
    let k := s.core s.cur
    let sl := k.slot x
    let fails (r : Nat) : Prop := ∃ t, exec i s = .next t ∧ slotAnswers s t x sl d (BitVec.ofNat 64 (2 ^ 63 + r)) ∧ t.net = s.net
    (sl.cur = none → fails 1) ∧ (∀ c, sl.cur = some c → c.dim ≠ 2 ∨ c.simp = false → fails 1) ∧
    (∀ c, sl.cur = some c → c.dim = 2 → c.simp = true →
      let p := sl.pend.getD c.pending
      let q := p.apply op
      (¬ remeshIndex s p i → fails 2) ∧ (remeshIndex s p i → ¬ remeshOperand s i → fails 3) ∧
      (remeshIndex s p i → remeshOperand s i →
      (∀ e r, (p.touched op).find? (fun e => (seamCell k x c e).isSome) = some e → seamCell k x c e = some r →
        ∃ t, exec i s = .next t ∧ s.parksWith t w 0x0B r (BitVec.ofNat 64 (e.2 + e.1 * 65536)) false false) ∧
      ((∀ e ∈ p.touched op, seamCell k x c e = none) →
        (∀ r, p.geometry op = some r → fails r) ∧ (p.geometry op = none → ¬ remeshRoom k sl p q → fails 6) ∧
        (p.geometry op = none → remeshRoom k sl p q →
          ∃ t, exec i s = .next t ∧ slotAnswers s t x { sl with pend := some q } d (BitVec.ofNat 64 (p.principal op)) ∧
            t.net = s.net ∧ t.ctx.startsRegion [sCode d]))))) ∧
  (∀ (d a x : Nat) (s : State), s.admits { word := wordRmcmit d a x, reads := [a], writes := [d], ends := true, once := true } = true →
    (∀ v : Word, scalarRoom s d 0 (fun _ => v)) → matrixIdle s → unitFree s →
    let k := s.core s.cur
    let sl := k.slot x
    let v := (s.ctx.sv a).toNat
    let fails (r : Nat) : Prop :=
      ∃ t, exec (.rmcmit d a x) s = .next t ∧ slotAnswers s t x sl d (BitVec.ofNat 64 (2 ^ 63 + r)) ∧ t.net = s.net
    isSpad (s.ctx.sv a) = true → v % 4 = 0 → (∀ c p, sl.cur = some c → sl.pend = some p → v + 4 * (p.newCells c).length ≤ 786432) →
    v ≤ 786432 →
    (sl.cur = none → fails 1) ∧ (∀ c, sl.cur = some c → c.dim ≠ 2 ∨ c.simp = false → fails 1) ∧
    (∀ c, sl.cur = some c → c.dim = 2 → c.simp = true → sl.pend = none → fails 9) ∧
    (∀ c p, sl.cur = some c → c.dim = 2 → c.simp = true → sl.pend = some p →
      let ws := (List.range (p.newCells c).length).map fun i => mreadNat k.spad (v + 4 * i) 4
      let g := if sl.ctr = 65535 then 1 else sl.ctr + 1
      (k.slotPushed x = true → fails 7) ∧
      (k.slotPushed x = false → (∃ w ∈ ws, goodWeight w = false) → fails 8) ∧
      (k.slotPushed x = false → (∀ w ∈ ws, goodWeight w = true) →
        ∃ t, exec (.rmcmit d a x) s = .next t ∧ t.net = s.net ∧
          (t.core s.cur).seam.recs = k.seam.recs.map (fun r =>
            if r.slot = x then { r with loc := ((p.orders c)[r.deg]?.getD []).findIdx fun j => j == r.loc } else r) ∧
          slotAnswers s t x { sl with ctr := g, cur := some (p.commit c g ws), prev := some c, pend := none,
                                      log := some ⟨p.ops, p.orders c⟩ } d (BitVec.ofNat 64 g))))

/-- R327 to R329: `kxfer` replays the log of the last commit on the rows that the previous complex gives its source, and writes them, in
the order of the current complex, to its destination. Untagged registers, outside open frames; the cochain unit is free, and the model
lets it finish at once (L71). -/
def Sys2Proof.Machine.Claims.cochainTransfer : Prop :=
  ∀ (d a r : Nat) (new old : Cplx) (log : CommitLog) (s : State),
    s.admits { word := wordKxfer d a r, reads := [kCode a], writes := [kCode d] } = true →
    kxferChecks s d a = .ok (new, old, log) → (s.ctx.kreg a).tags = 0 → s.ctx.lift.frames = [] →
    let kd := s.ctx.kreg d
    let ka := s.ctx.kreg a
    let m := (s.core s.cur).spad
    kOverlaps s.ctx.lift kd new 0 ka old = false → kSpan s ka old 0 = .ok () → kSpan s kd new 0 = .ok () →
    ka.pushed = false → kd.pushed = false → matrixIdle s → unitFree s → fld s.ctx.sp.kmode 0 0 = 0 →
    let rows : Rows := (kRows m ka (old.cells ka.deg) 0).mapIdx fun j row =>
      (j, row.map fun v => ⟨if ka.fmt = 0 then sxt 32 v else v, 0, false⟩)
    let res := replay ka (if r = 4 then drm s.ctx.sp.fst else r) ka.deg log.ops old.pending ⟨rows, 0, []⟩
    let out := (log.map[ka.deg]?.getD []).map fun j => (tget res.rows [] j).map KElem.bits
    let fl := res.flags &&& (fOF + fNV + fNX)
    let n := ((s.core s.cur).cplxOf kd).cells kd.deg
    ∃ t, exec (.kxfer d a r) s = .next t ∧ (t.core s.cur).spad = rowsPut kd n 0 out m ∧
      t.ctx.sp = { s.ctx.sp with fst := s.ctx.sp.fst ||| BitVec.ofNat 64 fl } ∧
      writesCochain s t d ((kd.withTags 0).clean.orStatus fl)

/-- The instructions that change a complex, and the move of a cochain to a new generation (R325 to R327). -/
def Obligations.RemeshingAndTransfer : Prop := remeshing ∧ cochainTransfer

end
/-! ## The matrix unit and the lift -/

namespace Sys2Proof.Machine.Claims

/-- A matrix command may be accepted (R336, R357, R377): admitted, in no open frame, with room in the queue and no repetition waiting. -/
def matrixReady (s : State) (w : Nat) (regs writes : List Nat) : Prop :=
  s.admits { word := w, reads := regs, writes := writes, ends := true, once := true } = true ∧ s.ctx.lift.frames = [] ∧
  s.me.backlog = [] ∧ s.me.queue.length < 16

/-- A command is accepted (R336): it stands last in the own member's queue, the member as commands see it is changed by f, a load of the
B buffer records its layout id on the blocks it writes (R338), no register and no memory changes, the region ends, and the next word
follows at once. -/
def takesCommand (i : Instr) (s : State) (w : Nat) (cmd : MCmd) (f : Member → Member) (id : Nat) : Prop :=
  ∃ t, exec i s = .next t ∧ t.me = { f s.me with queue := s.me.queue ++ [⟨cmd, s.owner w, s.unit.seq, none⟩] } ∧
    t.unit.seq = s.unit.seq + 1 ∧ t.unit.bbuf = s.unit.bbuf ∧ t.unit.ids = (s.unit.record cmd.blocks id).ids ∧
    goesOn s t ∧ keepsMemory s t ∧ t.net = s.net ∧ t.ctx.startsRegion []

/-- A register of any file holds results by instance (R370). -/
def fileHolds (s t : State) (f d S : Nat) (res : Nat → Nat) : Prop :=
  match f with
  | 0 => t.ctx.sreg d = scalarResult s d S fun k => BitVec.ofNat 64 (res k)
  | 1 => t.ctx.vreg d = vectorResult s d S fun k => BitVec.ofNat 1024 (res k)
  | _ => t.ctx.preg d = writeTagged s.ctx.lift (s.ctx.preg d) S fun k => BitVec.ofNat 32 (res k)

/-- Room for it in the vector pool (R369). -/
def fileRoom (s : State) (f d S : Nat) (res : Nat → Nat) : Prop :=
  match f with
  | 0 => scalarRoom s d S fun k => BitVec.ofNat 64 (res k)
  | 1 => vectorRoom s d S
  | _ => s.roomFor (s.ctx.putP d (writeTagged s.ctx.lift (s.ctx.preg d) S fun k => BitVec.ofNat 32 (res k)))

/-- A lift word writes one register of a file and accumulates flags. -/
def liftWrites (i : Instr) (s : State) (f d S : Nat) (res : Nat → Nat) (flags : Nat) : Prop :=
  ∃ t, exec i s = .next t ∧ fileHolds s t f d S res ∧ (∀ c, c < 256 → c ≠ 64 * f + d → t.ctx.save c = s.ctx.save c) ∧
    t.ctx.sp = { s.ctx.sp with fst := s.ctx.sp.fst ||| BitVec.ofNat 64 flags } ∧ t.ctx.lift = s.ctx.lift ∧ t.ctx.pc = pc4 s ∧
    keepsMemory s t ∧ t.net = s.net

/-- A lift word on cochain registers (R386 to R388): the checks pass, and the rows by active instance go to the destination. -/
def liftsCochain (i : Instr) (s : State) (d a S : Nat) (fill : Bool) (rows : (Nat → List (List Nat)) → Nat → List (List KElem)) :
    Prop :=
  let l := s.ctx.lift
  let k := s.ctx.kreg d
  let r := s.ctx.kreg a
  let x := (s.core s.cur).cplxOf k
  let T := destTags l S k.tags
  liveReg s a → liveReg s d → r.pushed = false → k.pushed = false → kAgree s [a, d] specSame = .ok () →
  (fill = false → kOverlaps l k x T r x = false) → kSpan s r x r.tags = .ok () → kSpan s k x T = .ok () → matrixIdle s →
  unitFree s → fld s.ctx.sp.kmode 0 0 = 0 →
  let rowsAt (j : Nat) : List (List Nat) := kRows (s.core s.cur).spad r (x.cells r.deg) (instNumber l r.tags j)
  let out : Table (List (List KElem)) := (activeOf l S).map fun j => (j, rows rowsAt j)
  let k' : KReg := if k.fmt = 0 then { k with w0 := setFld k.w0 31 24 r.exp } else k
  let fl := kFlags out
  ∃ t, exec i s = .next t ∧
    (t.core s.cur).spad = putAll (kOut s d S (s.core s.cur).spad (out.map fun p => (p.1, rowBits p.2))) (s.core s.cur).spad ∧
    t.ctx.sp = { s.ctx.sp with fst := s.ctx.sp.fst ||| BitVec.ofNat 64 fl } ∧
    writesCochain s t d ((k'.withTags T).clean.orStatus fl)

/-- The rows of a cochain register along its tag sets without axis n, or all of them. -/
def without (tags n : Nat) : Nat := if bitOf tags n then tags - 2 ^ n else tags

end Sys2Proof.Machine.Claims

section
open Sys2Proof Sys2Proof.Machine Sys2Proof.Machine.Claims

/-- R336, R339, R341, R345, R348, R350, R351, R215: each matrix command makes its checks, reads its operands, and joins the queue of the
own member; the member as later commands see it changes at once. Operands of `mmldb` untagged. -/
def Obligations.MatrixCommandsAreQueued : Prop :=
  (∀ (a : Nat) (s : State), matrixReady s (wordMmcfg a) [a] [] → cfgBad (s.ctx.sv a) = false → s.me.st = 0 →
    takesCommand (.mmcfg a) s (wordMmcfg a) (.cfg (s.ctx.sv a))
      (fun m => { m with cfg := s.ctx.sv a, configured := true, kc := 0, tb := 0, pb := 1 }) 0) ∧
  (∀ (a i j : Nat) (s : State),
    let c := s.me.cfg
    let n := mK c * mRow c
    matrixReady s (wordMmldb a i j) [a] [] → mBase c + n ≤ 262144 → spadRange (s.ctx.sv a) n → matrixIdle s →
    takesCommand (.mmldb a i j) s (wordMmldb a i j) (.ldb [(s.ctx.sv a).toNat] (mBase c) n) (fun m => { m with tb := 0, pb := 1 })
      (i + 64 * j)) ∧
  (∀ (x y z w : Nat) (s : State),
    let n := (s.ctx.sv z).toNat
    let b := (s.ctx.sv x).toNat
    let o := s.wsWindow.1 + (s.ctx.sv y).toNat
    let word := wordWsldB x y z w
    let id := (s.die s.myDie).nextJob
    let job : Job := ⟨id, s.owner word, s.serial, .bbuf (octetOf s.cur) b, .store o, n, 1, n, n, none, none, true, 0, false, []⟩
    matrixReady s word [x, y, z, w] [] → n % 64 = 0 → 64 ≤ n → n ≤ 786432 → b + n ≤ 262144 → b % 64 = 0 →
    (s.ctx.sv y).toNat + n ≤ s.wsWindow.2 → (s.ctx.sv y).toNat % 64 = 0 →
    takesCommand (.wsldB x y z w) s word (.wsldb s.myDie id b n) (fun m => m) ((s.ctx.sv w).toNat % 256) ∧
      ∀ t, exec (.wsldB x y z w) s = .next t → (t.die s.myDie).jobs = (s.die s.myDie).jobs ++ [job]) ∧
  (∀ (a : Nat) (za zb : List Int) (s : State),
    let c := s.me.cfg
    let v := (s.ctx.sv a).toNat
    matrixReady s (wordMmzp a) [a] [] → v < 2 ^ 40 → mMode c ≠ 1 → mMode c < 6 → matrixIdle s →
    let rows (o n : Nat) : List Nat := (List.range n).map fun k => o + k * mPz c
    (∀ x, x ∈ rows (v % 2 ^ 20) (mM c) ∨ x ∈ rows (v / 2 ^ 20) (mN c) → x < 786432) →
    zeroPoints s (mMode c) true (rows (v % 2 ^ 20) (mM c)) = .ok za → zeroPoints s (mMode c) false (rows (v / 2 ^ 20) (mN c)) = .ok zb →
    takesCommand (.mmzp a) s (wordMmzp a) (.zp za zb) (fun m => m) 0) ∧
  (∀ (a b r : Nat) (s : State),
    let c := s.me.cfg
    let fits (x : Word) (n : Nat) : Prop := isSpad x = true ∧ x.toNat + ((n - 1) * mPs c + 2) ≤ 786432 ∧ x.toNat % 2 = 0
    matrixReady s (wordSacc a b r) [a, b] [] → s.me.st = 2 → mMode c < 6 → fits (s.ctx.sv a) (mM c) → fits (s.ctx.sv b) (mN c) →
    matrixIdle s →
    takesCommand (.sacc a b r) s (wordSacc a b r)
      (.sacc (scales s (s.ctx.sv a).toNat (mPs c) (mM c)) (scales s (s.ctx.sv b).toNat (mPs c) (mN c))
        (if r = 4 then fld s.ctx.sp.fst 10 8 else r)) (fun m => { m with st := 0 }) 0) ∧
  (∀ s : State, matrixReady s wordMmdrn [] [] → s.me.st = 1 → mMode s.me.cfg < 6 →
    takesCommand .mmdrn s wordMmdrn .drn (fun m => { m with st := 2 }) 0) ∧
  (∀ (d a o m : Nat) (s : State), matrixReady s (wordMmmrg d a) [a] [d] →
    (s.ctx.sv a).toNat = o + m * 256 + s.myDie * 65536 → o < 32 → m < 8 → s.myDie < 8 →
    let oct := s.myDie * 32 + o
    ¬ (oct = octetOf s.cur ∧ m = memberOf s.cur) → inQuads s.myVf (coreOf oct m) = true → s.me.st = 1 →
    ∃ t, exec (.mmmrg d a) s = .next t ∧ goesOn s t ∧ keepsMemory s t ∧ t.net = s.net ∧ t.ctx.startsRegion [sCode d] ∧
      t.me = { s.me with queue := s.me.queue ++ [⟨.mrg d oct m, s.owner (wordMmmrg d a), s.unit.seq, none⟩] }) ∧
  (∀ (c : Nat) (s : State), matrixReady s (wordMmclr c) [] [] →
    takesCommand (.mmclr c) s (wordMmclr c) (.clr c)
      (fun m => { m with st := if bitOf c 1 then 0 else m.st, kc := if bitOf c 3 then 0 else m.kc }) 0) ∧
  (∀ (a b : Nat) (s : State),
    let c := s.me.cfg
    let p := if b = 0 then 4 * mN c else (s.ctx.sv b).toNat
    matrixReady s (wordMmst a b) (if b = 0 then [a] else [a, b]) [] → p % 8 = 0 → 4 * mN c ≤ p →
    spadRange (s.ctx.sv a) ((mM c - 1) * p + 4 * mN c) → matrixIdle s →
    takesCommand (.mmst a b) s (wordMmst a b) (.mst (s.ctx.sv a).toNat p s.serial) (fun m => m) 0 ∧
      ∀ t, exec (.mmst a b) s = .next t → (tlook t.writes s.serial).isSome = true) ∧
  (∀ (d i : Nat) (s : State), s.admits { word := wordMmsta d i, writes := [d] } = true →
    let v : Word := if i = 0 then BitVec.ofNat 64 s.me.acst else stateWord s.unit s.me
    (∀ e ∈ s.me.queue ++ s.me.backlog, s.ctx.sta.getD s.unit.seq ≤ e.seq) → scalarRoom s d 0 (fun _ => v) →
    writesScalar (.mmsta d i) s d 0 fun _ => v)

/-- R338 to R341, R347, R354, R355: outside a repetition body `mmcnt` and `mmmul` check member, cursor and layout, read their A words,
pop their links and join the queue; inside one they are captured. `rep` opens a body at the next word; `repend` runs it again with the
next repetition, or closes it, a body of passes being checked and accepted as a whole. -/
def Obligations.PassesAndRepetitions : Prop :=
  (∀ (mul : Bool) (a b : Nat) (m' : Member) (s : State),
    let i : Instr := if mul then .mmmul a b else .mmcnt a b
    let w := if mul then wordMmmul a b else wordMmcnt a b
    i.wf = true → s.admits { word := w, reads := (passRegs a b).map vCode, ends := true } = true → s.ctx.rep = none →
    s.ctx.lift.frames = [] → sourceReady s (1, a) → sourceReady s (2, b) → parityClean s → matrixIdle s →
    s.me.backlog = [] → s.me.queue.length < 16 →
    passCheck s s.me mul s.ctx.hints.lay (instCount s.ctx.lift (passTags s a b)) = .ok m' →
    ∃ t, exec i s = .next t ∧
      t.me = { m' with queue := m'.queue ++ [⟨passCmd s s.me mul false a b, s.owner w, s.unit.seq, none⟩] } ∧
      goesOn s t ∧ keepsMemory s t ∧ t.net = s.net ∧ t.ctx.startsRegion [] ∧
      ∀ c, c = a ∨ c = b → isPort c = true → tget (t.core s.cur).fifos [] c = (tget (s.core s.cur).fifos [] c).drop 1) ∧
  (∀ (mul : Bool) (a b : Nat) (r : Rep) (s : State),
    let i : Instr := if mul then .mmmul a b else .mmcnt a b
    let w := if mul then wordMmmul a b else wordMmcnt a b
    s.admits { word := w } = true → s.ctx.rep = some r → s.ctx.lift.frames = [] →
    ∃ t, exec i s = .next t ∧ s.quiet t [] ∧
      t.ctx.rep = some { r with words := r.words + 1, matrix := some true, passes := r.passes ++
        [⟨mul, a, b, s.ctx.hints.lay, s.ctx.hints.take, r.j, s.ctx.pc⟩] }) ∧
  (∀ (n k : Nat) (s : State), (Instr.rep n k).wf = true → s.admits { word := wordRep n k } = true → s.ctx.rep = none →
    ∃ t, exec (.rep n k) s = .next t ∧ s.quiet t [] ∧
      t.ctx.rep = some ⟨n, if k < 32 then (k : Int) else (k : Int) - 64, 0, pc4 s, 0, none, []⟩) ∧
  (∀ (r : Rep) (s : State),
    let last := decide (r.n ≤ r.j + 1)
    s.ctx.rep = some r → s.admits { word := wordRepend, ends := last && r.matrix == some true } = true →
    (last = false → ∃ t, exec .repend s = .next t ∧ s.moves t [] r.start ∧
      t.ctx.rep = some { r with j := r.j + 1, words := 0 }) ∧
    (last = true → r.matrix ≠ some true → ∃ t, exec .repend s = .next t ∧ s.quiet t [] ∧ t.ctx.rep = none) ∧
    (last = true → r.matrix = some true → s.me.backlog = [] → ∀ u m cmds, repPasses r.step r.passes s s.me = .ok (u, m, cmds) →
      ∃ t, exec .repend s = .next t ∧ goesOn s t ∧ keepsMemory s t ∧ t.ctx.rep = none ∧ t.ctx.startsRegion [] ∧
        t.octets = (acceptAll (u.modMe fun _ => m) cmds).octets))

/-- R337, R338, R342 to R351, R215: when an engine's arbiter takes a member, on a die in RUN, the command at the head of its queue
executes on the member, its bank set, its tile or the B buffer, and leaves the queue: a configuration takes effect, a load fills the B
buffer from the scratchpad or, in blocks of 64 bytes that have not moved before, from the weight store, a pass runs its k-steps in
ascending order on the set held or else the lower-numbered free one, a drain makes the partials, `sacc` adds scaled partials to the tile
and frees the set, a store writes the tile's rows, a clear clears. -/
def Sys2Proof.Machine.Claims.matrixEngines : Prop :=
  ∀ (count : Bool) (o m run : Nat) (e : MEntry) (es : List MEntry) (s : State),
    let i : Instr := if count then .countEngineStep o else .serviceEngineStep o
    let u := s.octet o
    let x := u.member m
    arbitrate s o count (if count then u.cptr else u.sptr) (if count then u.crun else u.srun) = some (m, run) →
    x.queue = e :: es → (∀ d so sm, e.cmd = .mrg d so sm → so = o) → (s.die (o / 32)).pw.state = .run →
    ∃ t, exec i s = .next t ∧
      ((t.octet o).member m).queue.take es.length = es ∧
      match e.cmd with
      | .cfg v => ((t.octet o).member m).xcfg = v ∧ ((t.octet o).member m).za = [] ∧ ((t.octet o).member m).zb = []
      | .ldb srcs dst n => (t.octet o).bbuf =
          mwrite u.bbuf dst (srcs.map fun a => mread (s.core (coreOf o m)).spad a n).flatten
      | .wsldb die job _ _ => ∀ j off dst, (s.die die).job job = some j → j.src = .store off → j.dst = .bbuf o dst →
          (t.die die).job job = none ∧ (t.octet o).bbuf =
            ((List.range (j.rowlen * j.rows / 64)).filter fun k => !j.moved.contains k).foldl
              (fun mem k => mwrite mem (dst + 64 * k) (mread (s.die die).store (off + 64 * k) 64)) u.bbuf
      | .zp za zb => ((t.octet o).member m).za = za ∧ ((t.octet o).member m).zb = zb
      | .pass _ c ws pb k0 =>
        if 6 ≤ mMode c then ((t.octet o).member m).tile = (passTile u.bbuf c ws pb k0 x.tile).1
        else
          let b := x.set.getD (if u.set0.member = none then 0 else 1)
          ((t.octet o).member m).set = some b ∧ (t.octet o).bank b = (passSet u.bbuf c ws pb k0 (match x.set with
            | some b => u.bank b
            | none => { member := some m, mode := mMode c, M := mM c, N := mN c })).1
      | .drn => ∀ b, x.set = some b → (t.octet o).bank b = (drainSet x.xcfg x.za x.zb (u.bank b)).1
      | .mrg _ _ sm => ((t.octet o).member m).set = ((u.merge m (u.counting sm)).1.member m).set ∧
          (t.octet o).set0 = (u.merge m (u.counting sm)).1.set0 ∧ (t.octet o).set1 = (u.merge m (u.counting sm)).1.set1
      | .sacc sa sb rnd => ∀ b, x.set = some b → ((t.octet o).member m).set = none ∧
          ((t.octet o).member m).tile = (saccTile x.xcfg sa sb rnd (u.bank b) x.tile).1
      | .mst a p wid => tlook t.writes wid = none ∧ (s.isRunning (coreOf o m) = true →
          (t.core (coreOf o m)).spad = (List.range (mM x.xcfg)).foldl (fun mem r => mwrite mem (a + r * p) (tileRow x.xcfg x.tile r))
            (s.core (coreOf o m)).spad)
      | .clr c => (bitOf c 0 = true → ((t.octet o).member m).tile = []) ∧ (bitOf c 1 = true → ((t.octet o).member m).set = none) ∧
          (bitOf c 2 = true → ((t.octet o).member m).acst = 0)

/-- R348: a merge from another octet sends the source set over the network, and the command leaves the queue when it arrives, the sets
added and the outcome in its register, which the open region latches. -/
def Sys2Proof.Machine.Claims.mergesBetweenOctets : Prop :=
  (∀ (o m run d so sm : Nat) (own : Owner) (seq : Nat) (rep : Option Nat) (es : List MEntry) (s : State),
    let u := s.octet o
    arbitrate s o false u.sptr u.srun = some (m, run) → (u.member m).queue = ⟨.mrg d so sm, own, seq, rep⟩ :: es → so ≠ o →
    (s.die (o / 32)).pw.state = .run →
    ∃ t, exec (.serviceEngineStep o) s = .next t ∧ ((t.octet o).member m).moving = true ∧
      ((t.octet o).member m).queue = ⟨.mrg d so sm, own, seq, rep⟩ :: es ∧
      t.net = s.net ++ [⟨0, coreOf so sm, own.core, .mergeReq d o m so ((s.octet so).counting sm) own⟩]) ∧
  (∀ (k d o m so dst src : Nat) (set : Option BankSet) (own : Owner) (e : MEntry) (es : List MEntry) (s : State),
    s.flight k = some ⟨0, src, dst, .mergeReq d o m so set own⟩ → ((s.octet o).member m).moving = true →
    ((s.octet o).member m).queue = e :: es → (s.die (o / 32)).pw.state ≠ .hold →
    let r := (s.octet o).merge m set
    ∃ t, exec (.mergeSetArrival k) s = .next t ∧ t.net = dropAt s.net k ∧ ((t.octet o).member m).moving = false ∧
      ((t.octet o).member m).queue.take es.length = es ∧ (t.octet o).set0 = r.1.set0 ∧ (t.octet o).set1 = r.1.set1 ∧
      (d ≠ 0 → ∀ c x, s.actAt own.act = some (c, x) → ∃ y, t.actAt own.act = some (c, y) ∧ y.sv d = BitVec.ofNat 64 r.2.2))

/-- R364 to R367, R383 to R390: `lcall` pushes a level, every active instance taking every index of the new axis, and `lret` pops it,
resetting the registers tagged on it and going to its return address; `laxis` and `laxis.tag` read levels and tag sets; `lidx` writes the
index; `ltag` adds an axis to a cochain register's tag set. -/
def Sys2Proof.Machine.Claims.liftLevels : Prop :=
  (∀ (o g e : Nat) (target : Word) (s : State), (Instr.lcall o g).wf = true →
    s.admits { word := wordLcall o g, ends := true } = true →
    relative s (immInt s.ctx.hints 18 o) target → fetchable s target → s.ctx.lift.frames = [] → s.ctx.lift.levels.length < 4 →
    s.ctx.sp.gauge[g]? = some e → 1 ≤ e → e ≤ 1024 → extProduct s.ctx.lift.levels * e ≤ 4096 →
    let l := s.ctx.lift
    let active := ((List.range e).map fun k => l.active.map fun i => i + k * 2 ^ (10 * l.levels.length)).flatten
    ∃ t, exec (.lcall o g) s = .next t ∧ s.onlyCtx t ∧ t.ctx.pc = target ∧ t.ctx.regs = s.ctx.regs ∧ t.ctx.sp = s.ctx.sp ∧
      t.ctx.handles = s.ctx.handles ∧ t.ctx.startsRegion [] ∧
      t.ctx.lift = { levels := l.levels ++ [⟨e, g, pc4 s⟩], frames := [], active := active }) ∧
  (∀ (ls : List Level) (v : Level) (s : State), s.admits { word := wordLret, ends := true } = true →
    s.ctx.lift.levels = ls ++ [v] → s.ctx.lift.frames = [] →
    let n := ls.length
    let r := s.ctx.regs
    ∃ t, exec .lret s = .next t ∧ t.ctx.pc = v.ret ∧ t.ctx.sp = s.ctx.sp ∧ keepsMemory s t ∧ t.net = s.net ∧
      t.ctx.startsRegion [] ∧ t.ctx.lift.levels = ls ∧ t.ctx.lift.frames = [] ∧
      t.ctx.lift.active = instances { levels := ls } (2 ^ n - 1) ∧
      t.ctx.regs.s = r.s.filter (fun e => !bitOf e.2.tags n) ∧ t.ctx.regs.v = r.v.filter (fun e => !bitOf e.2.tags n) ∧
      t.ctx.regs.p = r.p.filter (fun e => !bitOf e.2.tags n) ∧ t.ctx.regs.k = r.k.filter (fun e => !bitOf e.2.tags n)) ∧
  (∀ s : State, s.admits { word := wordLret, ends := true } = true → s.ctx.lift.levels = [] →
    ∃ t, exec .lret s = .next t ∧ s.parksWith t wordLret 0x0D 4 0 false false) ∧
  (∀ (d n : Nat) (v : Level) (s : State), s.admits { word := wordLaxis d n, writes := [d] } = true →
    s.ctx.lift.levels[n]? = some v → n < 4 →
    let l := s.ctx.lift
    let x : Word := BitVec.ofNat 64
      (v.ext + v.gauge * 2 ^ 16 + extProduct (l.levels.take (n + 1)) * 2 ^ 32 + l.active.length * 2 ^ 48)
    scalarRoom s d 0 (fun _ => x) → writesScalar (.laxis d n) s d 0 fun _ => x) ∧
  (∀ (d r f : Nat) (s : State), s.admits { word := wordLaxisTag d r f, writes := [d] } = true →
    let x : Word := BitVec.ofNat 64 (s.ctx.tagsOf (64 * f + r))
    scalarRoom s d 0 (fun _ => x) → writesScalar (.laxisTag d r f) s d 0 fun _ => x) ∧
  (∀ (d n : Nat) (s : State), s.admits { word := wordLidx d n, writes := [d] } = true → n < s.ctx.lift.levels.length →
    let v (k : Nat) : Word := BitVec.ofNat 64 (k / 2 ^ (10 * n) % 1024)
    scalarRoom s d (2 ^ n) v → writesScalar (.lidx d n) s d (2 ^ n) v) ∧
  (∀ (k n : Nat) (s : State), s.admits { word := wordLtag k n, writes := [kCode k] } = true → n < s.ctx.lift.levels.length →
    s.ctx.lift.frames = [] → liveReg s k →
    let r := s.ctx.kreg k
    kSpan s r ((s.core s.cur).cplxOf r) (r.tags ||| 2 ^ n) = .ok () →
    ∃ t, exec (.ltag k n) s = .next t ∧ keepsMemory s t ∧
      writesCochain s t k (if bitOf r.tags n then r else r.withTags (r.tags ||| 2 ^ n)))

/-- R98, R138, R386 to R388: `lred` reduces along an axis by a fixed tree, inactive instances entering as the identity, and copies a
register not tagged on it; `lsel` takes the instances of one index; `lbc` broadcasts along the axis; on every register file. -/
def Sys2Proof.Machine.Claims.liftMovements : Prop :=
  (∀ (d a o n f ty : Nat) (s : State), (Instr.lred d a o n f ty).wf = true →
    s.admits { word := wordLred d a o n f ty, reads := [64 * f + a], writes := [64 * f + d] } = true →
    n < s.ctx.lift.levels.length →
    let x := s.ctx
    let tags := x.tagsOf (64 * f + a)
    let S := without tags n
    let tree (j : Nat) : FR := treeReduce (lredNode f o ty (drm x.sp.fst)) 13
      (alongAxis x.lift tags n (lredIdent f o ty) (fun i => x.fileVal f a i) j)
    let res (j : Nat) : Nat := if bitOf tags n then (if j ∈ activeOf x.lift S then (tree j).bits else 0) else x.fileVal f a j
    let flags := if bitOf tags n then (activeOf x.lift S).foldl (fun acc j => acc ||| (tree j).flags) 0 else 0
    (f < 3 → (f = 1 → parityClean s) → fileRoom s f d S res → liftWrites (.lred d a o n f ty) s f d S res flags) ∧
    (f = 3 → liftsCochain (.lred d a o n f ty) s d a S false fun rowsAt j =>
      if bitOf tags n then lredRows x.lift n (x.kreg a) (drm x.sp.fst) false rowsAt j else rawRows (rowsAt j))) ∧
  (∀ (d a b f n : Nat) (s : State), (Instr.lsel d a b f n).wf = true →
    s.admits { word := wordLsel d a b f n, reads := [64 * f + a, b], writes := [64 * f + d] } = true →
    n < s.ctx.lift.levels.length → (s.ctx.sreg b).tags = 0 → (s.ctx.sv b).toNat < extOf s.ctx.lift n →
    let x := s.ctx
    let tags := x.tagsOf (64 * f + a)
    let S := without tags n
    let from_ (j : Nat) : Nat := if bitOf tags n then setAxis n j (s.ctx.sv b).toNat else j
    (f < 3 → (f = 1 → parityClean s) → fileRoom s f d S (fun j => x.fileVal f a (from_ j)) →
      liftWrites (.lsel d a b f n) s f d S (fun j => x.fileVal f a (from_ j)) 0) ∧
    (f = 3 → liftsCochain (.lsel d a b f n) s d a S false fun rowsAt j => rawRows (rowsAt (from_ j)))) ∧
  (∀ (d a f n : Nat) (s : State), (Instr.lbc d a f n).wf = true →
    s.admits { word := wordLbc d a f n, reads := [64 * f + a], writes := [64 * f + d] } = true →
    n < s.ctx.lift.levels.length →
    let x := s.ctx
    let tags := x.tagsOf (64 * f + a)
    let S := tags ||| 2 ^ n
    (f < 3 → (f = 1 → parityClean s) → fileRoom s f d S (fun j => x.fileVal f a j) →
      liftWrites (.lbc d a f n) s f d S (fun j => x.fileVal f a j) 0) ∧
    (f = 3 → liftsCochain (.lbc d a f n) s d a S (d == a && decide (tags < 2 ^ n)) fun rowsAt j => rawRows (rowsAt j)))

/-- The engines of a matrix unit, and merges between octets (R337, R341, R343 to R348). -/
def Obligations.EnginesAndMerges : Prop := matrixEngines ∧ mergesBetweenOctets

/-- The levels of a lift, and what moves data across them (R383 to R390). -/
def Obligations.LiftInstructions : Prop := liftLevels ∧ liftMovements

end
/-! ## Flows and remote operations -/

namespace Sys2Proof.Machine.Claims

/-- A handle names flow n of a die, opened by the executing core (R398, R401). -/
def flowNamed (s : State) (h : Word) (die n : Nat) (f : Flow) : Prop :=
  die < 8 ∧ n < 1024 ∧ h = BitVec.ofNat 64 (n + die * 2 ^ 16) ∧ tlook (s.die die).flows n = some f ∧ f.core = s.cur

/-- The fields of a remote descriptor (R405): window offset, window, bytes. -/
def remoteIs (y : Word) (off win n : Nat) : Prop :=
  off = y.toNat % 2 ^ 40 ∧ win = y.toNat / 2 ^ 40 % 256 ∧ n = y.toNat / 2 ^ 48 + 1

/-- A pinned path lies in the flow's set (R412). -/
def pinFits (f : Flow) (p : Nat) : Prop := p / 8 % 2 = 1 → f.set / 2 ^ (p % 8) % 2 = 1

/-- A flow has room for one more operation (R406). -/
def flowRoom (f : Flow) : Prop := f.ops.length < 256

/-- A word issued one operation on a flow (R406, R412): it stands last, with packets of consecutive numbers that carry the given bytes, in
order and none larger than a packet may be, a pinned one on its path and any other first packet on the path the flow chooses; each waits
while the receiver of a UE flow gives no credit (R419); on a Lace path a single packet has gone to the port. Nothing of memory or of the
registers has changed, and the region has ended. -/
def issues (s t : State) (die n : Nat) (f : Flow) (o : FabOpRec) (pin : Nat) (bs : List Byte) : Prop :=
  ∃ pkts : List FabPkt, pkts ≠ [] ∧
    tlook (t.die die).flows n = some { f with nextOp := f.nextOp + 1, nextPkt := f.nextPkt + pkts.length,
                                              ops := f.ops ++ [{ o with id := f.nextOp, pkts := pkts }] } ∧
    (pkts.map fun k => k.data).flatten = bs ∧ pkts.map (fun k => k.num) = (List.range pkts.length).map (fun k => f.nextPkt + k) ∧
    (∀ k ∈ pkts, k.data.length ≤ (if f.ue then 4096 else 192) ∧ (pin / 8 % 2 = 1 → k.path = pin % 8) ∧
      k.waits = (f.ue && f.noCredit)) ∧
    (pin / 8 % 2 = 0 → pkts.head?.map (fun k => k.path) = some (choosePath s f)) ∧
    (f.ue = false → ∀ k e, pkts = [k] → (s.vf f.vf).path k.path = some e → t.portAt e.port = (s.portAt e.port).send
      [linkOp 0 [o.kind, n, f.nextPkt, o.win, o.off, o.n, o.op, if o.flagged then 1 else 0] k.data]) ∧
    goesOn s t ∧ keepsMemory s t ∧ t.net = s.net ∧ t.ctx.startsRegion []

/-- The instructions that name a flow by a handle: its register, the word, and whether the flow must be free of errors (R401, R413). -/
def onFlow : Instr → Option (Nat × Ins × Bool)
  | .fpath a b => some (a, { word := wordFpath a b, reads := [a, b], ends := true, once := true }, false)
  | .fclose a => some (a, { word := wordFclose a, reads := [a], ends := true, once := true }, false)
  | .fstat d a i => some (a, { word := wordFstat d a i, reads := [a], writes := [d], once := true }, false)
  | .fwait a => some (a, { word := wordFwait a, reads := [a], once := true }, true)
  | .rget h a b p => some (h, { word := wordRget h a b p, reads := [h, a, b], ends := true }, true)
  | .rput h a b p => some (h, { word := wordRput h a b p, reads := [h, a, b], ends := true }, true)
  | .rputSw h b p => some (h, { word := wordRputSw h b p, reads := [h, b], ends := true, once := true }, true)
  | .ramo h a b o => some (h, { word := wordRamo h a b o, reads := [h, a, b], ends := true }, true)
  | _ => none

end Sys2Proof.Machine.Claims

section
open Sys2Proof Sys2Proof.Machine Sys2Proof.Machine.Claims

/-- R398, R401 to R404, R411, R413: `fopen` opens the lowest free flow of the die to a peer over a set of trained paths of its kind, and
answers its handle, or code 1, 2 or 3; `fpath` replaces the set; `fclose` frees the flow once nothing of it is outstanding, and waits
otherwise; `fstat` reads it; `fwait` holds until the operations issued before it are over, and parks with FLOW on a flow in error. The
widths that `fstat` cuts its counts to are the model's choice (L68). -/
def Sys2Proof.Machine.Claims.flowInstructions : Prop :=
  (∀ (d a b : Nat) (s : State),
    s.admits { word := wordFopen d a b, reads := [a, b], writes := [d], ends := true, once := true } = true →
    let x := (s.ctx.sv a).toNat
    let c := (s.ctx.sv b).toNat
    let peer := s.myVf.peer x
    let set := c / 2 ^ 8 % 256
    let mode := c % 4
    let flows := (s.die s.myDie).flows
    x < 1024 → c / 2 ^ 16 % 2 ^ 27 = 0 → c / 4 % 64 = 0 → set ≠ 0 → mode ≠ 3 → (∀ p, peer = some p → mode = 2 → p.ue = true) →
    c / 2 ^ 44 % 16 = 0 → (∀ v : Word, scalarRoom s d 0 (fun _ => v)) →
    ∃ t, exec (.fopen d a b) s = .next t ∧
      ((∀ n < 1024, (tlook flows n).isSome = true) → answers s t d (BitVec.ofNat 64 (2 ^ 63 + 1)) ∧ t.dies = s.dies) ∧
      (∀ n < 1024, tlook flows n = none → (∀ m < n, (tlook flows m).isSome = true) →
        (peer = none → answers s t d (BitVec.ofNat 64 (2 ^ 63 + 2)) ∧ t.dies = s.dies) ∧
        (∀ p, peer = some p →
          ((∃ i < 8, set / 2 ^ i % 2 = 1 ∧ pathOk s s.myVf p.ue i = false) →
            answers s t d (BitVec.ofNat 64 (2 ^ 63 + 3)) ∧ t.dies = s.dies) ∧
          ((∀ i < 8, set / 2 ^ i % 2 = 1 → pathOk s s.myVf p.ue i = true) →
            answers s t d (BitVec.ofNat 64 (n + s.myDie * 2 ^ 16)) ∧ t.ctx.startsRegion [sCode d] ∧
            (t.die s.myDie).flows = tput flows n { core := s.cur, vf := s.ctx.id.vf, peer := x, ue := p.ue, mode := mode, set := set,
                                                   swe := decide (c / 2 ^ 43 % 2 = 1), sw := c / 2 ^ 44 })))) ∧
  (∀ (a b die n : Nat) (f : Flow) (s : State),
    s.admits { word := wordFpath a b, reads := [a, b], ends := true, once := true } = true → flowNamed s (s.ctx.sv a) die n f →
    let c := (s.ctx.sv b).toNat
    let ok : Prop := c < 256 ∧ c ≠ 0 ∧ ∀ i < 8, c / 2 ^ i % 2 = 1 → pathOk s (s.vf f.vf) f.ue i = true
    (ok → ∃ t, exec (.fpath a b) s = .next t ∧ tlook (t.die die).flows n = some { f with set := c } ∧ goesOn s t ∧ keepsMemory s t ∧
      t.ctx.startsRegion []) ∧
    (¬ ok → ∃ t, exec (.fpath a b) s = .next t ∧ s.parksWith t (wordFpath a b) 0x05 3 (s.ctx.sv b) false false)) ∧
  (∀ (a die n : Nat) (f : Flow) (s : State),
    s.admits { word := wordFclose a, reads := [a], ends := true, once := true } = true → flowNamed s (s.ctx.sv a) die n f →
    (f.ops = [] → ∃ t, exec (.fclose a) s = .next t ∧ (t.die die).flows = tdel (s.die die).flows n ∧ goesOn s t ∧
      keepsMemory s t ∧ t.ctx.startsRegion []) ∧
    (f.ops ≠ [] → ∃ t, exec (.fclose a) s = .next t ∧ waits s t)) ∧
  (∀ (d a i die n : Nat) (f : Flow) (v : Word) (s : State), (Instr.fstat d a i).wf = true →
    s.admits { word := wordFstat d a i, reads := [a], writes := [d], once := true } = true → flowNamed s (s.ctx.sv a) die n f →
    (i = 0 ∧ v = BitVec.ofNat 64 (2 ^ 63 + (if f.err = 0 then 0 else 2 ^ 62) + f.err * 2 ^ 48 + f.ops.length * 2 ^ 32 +
        f.set * 2 ^ 8 + (if f.ue then 4 else 0) + f.mode) ∨
     ∃ p e q, (s.vf f.vf).path p = some e ∧ q = s.portAt e.port ∧
       (i = 1 + p ∧ p < 8 ∧ v = BitVec.ofNat 64 (q.scores.foldl min 255 * 2 ^ 56 + min 255 (levelOf s f p) * 2 ^ 48 +
          (f.onPath p).length % 2 ^ 16 * 2 ^ 32 + tget f.acked 0 p % 2 ^ 32) ∨
        i = 16 + p ∧ v = BitVec.ofNat 64 (pack 8 q.scores + q.fec % 2 ^ 32 * 2 ^ 32))) →
    scalarRoom s d 0 (fun _ => v) → writesScalar (.fstat d a i) s d 0 fun _ => v) ∧
  (∀ (a die n : Nat) (f : Flow) (s : State),
    s.admits { word := wordFwait a, reads := [a], once := true } = true → flowNamed s (s.ctx.sv a) die n f → f.err = 0 →
    let before := s.ctx.sta.getD f.nextOp
    ((∀ o ∈ f.ops, before ≤ o.id) → ∃ t, exec (.fwait a) s = .next t ∧ s.quiet t []) ∧
    ((∃ o ∈ f.ops, o.id < before) →
      ∃ t, exec (.fwait a) s = .next t ∧ holdsAt s t ∧ t.ctx.sta = some before ∧ s.onlyCtx t))

/-- R401, R413: an instruction that names a flow parks with BOUNDS on a handle that names none, with PERM on a flow of another core, and,
where it acts on the flow's operations, with FLOW and the recorded detail on a flow in error. Operands untagged. -/
def Sys2Proof.Machine.Claims.handlesAreChecked : Prop :=
  ∀ (i : Instr) (a die n : Nat) (ins : Ins) (e : Bool) (s : State), onFlow i = some (a, ins, e) → i.wf = true →
    s.admits ins = true → s.ctx.tagUnion ins.reads = 0 →
    let h := s.ctx.sv a
    ((h.toNat % 2 ^ 10 + h.toNat / 2 ^ 16 % 8 * 2 ^ 16 ≠ h.toNat) →
      ∃ t, exec i s = .next t ∧ s.parksWith t ins.word 0x05 4 h true false) ∧
    (die < 8 → n < 1024 → h = BitVec.ofNat 64 (n + die * 2 ^ 16) →
      (tlook (s.die die).flows n = none → ∃ t, exec i s = .next t ∧ s.parksWith t ins.word 0x05 4 h true false) ∧
      ∀ f, tlook (s.die die).flows n = some f →
        (f.core ≠ s.cur → ∃ t, exec i s = .next t ∧ s.parksWith t ins.word 0x04 0 h true false) ∧
        (f.core = s.cur → f.err ≠ 0 → e = true →
          ∃ t, exec i s = .next t ∧ s.parksWith t ins.word 0x16 f.err 0 false false))

/-- R399, R405 to R407, R410, R412: `rget`, `rput`, `rput.sw` and `ramo` check flow, addresses, descriptor and pinned path and issue one
operation on the flow: kind 0 with no data, kind 1 with the source's bytes read at once, kind 2, or kind 3 with its two operands from
scratchpad; offsets and lengths are multiples of 8, a sync word's offset a multiple of 16, and a flow of mode 10 carries no raise and
no atomic. Operands untagged, the source of `rput` in the own scratchpad. -/
def Sys2Proof.Machine.Claims.remoteOperations : Prop :=
  ∀ (h die n off win m : Nat) (f : Flow) (y : Nat) (s : State),
    flowNamed s (s.ctx.sv h) die n f → f.err = 0 → flowRoom f → matrixIdle s → remoteIs (s.ctx.sv y) off win m → s.ctx.held = none →
    (∀ a p, s.admits { word := wordRget h a y p, reads := [h, a, y], ends := true } = true → s.ctx.tagUnion [h, a, y] = 0 →
      spadRange (s.ctx.sv a) m → off % 8 = 0 → m % 8 = 0 → pinFits f p →
      ∃ t, exec (.rget h a y p) s = .next t ∧ issues s t die n f
        ⟨0, 0, [], (s.ctx.sv a).toNat, m, off, win, 0, false, pinOf p, s.owner (wordRget h a y p)⟩ p []) ∧
    (∀ a p, s.admits { word := wordRput h a y p, reads := [h, a, y], ends := true } = true → s.ctx.tagUnion [h, a, y] = 0 →
      spadRange (s.ctx.sv a) m → off % 8 = 0 → m % 8 = 0 → pinFits f p →
      ∃ t, exec (.rput h a y p) s = .next t ∧ issues s t die n f
        ⟨0, 1, [], 0, m, off, win, 0, s.ctx.hints.flag, pinOf p, s.owner (wordRput h a y p)⟩ p
        (mread (s.core s.cur).spad (s.ctx.sv a).toNat m)) ∧
    (∀ p, s.admits { word := wordRputSw h y p, reads := [h, y], ends := true, once := true } = true → off % 16 = 0 →
      f.mode ≠ 2 → pinFits f p →
      ∃ t, exec (.rputSw h y p) s = .next t ∧ issues s t die n f
        ⟨0, 2, [], 0, m, off, win, 0, s.ctx.hints.flag, pinOf p, s.owner (wordRputSw h y p)⟩ p []) ∧
    (∀ a o, s.admits { word := wordRamo h a y o, reads := [h, a, y], ends := true } = true → s.ctx.tagUnion [h, a, y] = 0 →
      (s.ctx.sv a).toNat + 16 ≤ 786432 → (s.ctx.sv a).toNat % 16 = 0 → off % 8 = 0 → m = 8 → f.mode ≠ 2 →
      ∃ t, exec (.ramo h a y o) s = .next t ∧ issues s t die n f
        ⟨0, 3, [], (s.ctx.sv a).toNat, 8, off, win, o, false, none, s.owner (wordRamo h a y o)⟩ 0
        (mread (s.core s.cur).spad (s.ctx.sv a).toNat 16))

/-- The instructions on flows and the remote operations over them (R402 to R407, R411). The model's choices: `fopen` opens the lowest
free flow (L26); which path a packet takes, and when it waits for credit (L52). -/
def Obligations.FabricInstructions : Prop := flowInstructions ∧ handlesAreChecked ∧ remoteOperations

end
/-! ## Parked activations, invalidation, pre-emption, seams -/

namespace Sys2Proof.Machine.Claims

/-- A register names park number num (R259). -/
def parkNamed (x : Word) (num : Nat) : Prop := x.toNat < 2 ^ 32 ∧ x.toNat % 2 ^ 16 < 16 ∧ num = x.toNat / 2 ^ 16

/-- Writing scalar register d of the executing context takes no room in the pool (R369). -/
def scalarFlat (s : State) (d : Nat) : Prop :=
  ∀ v : Word, (s.ctx.putS d (writeTagged s.ctx.lift (s.ctx.sreg d) 0 fun _ => v)).instRegs ≤ s.ctx.instRegs

/-- The activation a piece of traffic belongs to has one confirmation less to wait for. -/
def confirmed (s t : State) (act id : Nat) : Prop :=
  ∀ c i h, (s.ctxAt c i).status ≠ .free → (s.ctxAt c i).id.act = act → (s.ctxAt c i).held = some h → h.id = id →
    (t.ctxAt c i).held = some { h with due := h.due - 1 }

/-- A context as it is saved (R265, R266): a running one at its region's start, a parked one with the mark that it is saved. -/
def asSaved (x : Ctx) : Ctx :=
  if x.status = .running then { x.tinkBack with want := false, dups := [] }
  else { x with want := false, dups := [], park := { x.park with saved := true } }

/-- A saved context back in its place. -/
def comeBack (x : Ctx) : Ctx := { x with park := { x.park with saved := false } }

/-- The one early seam arrival of a core is for a register of the given context (R315). -/
def earlyFor (s : State) (c : Nat) (y : Ctx) (r : SeamRow) : Prop :=
  (s.core c).seam.early = [r] ∧ (s.core c).seam.gone = [] ∧ r.kind = 0 ∧ seamMatches (s.core c) r y = true ∧
  seamAgrees r y.lift (y.kreg r.reg) = true

/-- That arrival lands when the context is brought back, as one lands that comes to it (R314, R315). -/
def meetsEarly (s t : State) (c i : Nat) (y : Ctx) (r : SeamRow) : Prop :=
  let a := y.kreg r.reg
  let cx := (s.core c).cplxOf a
  let b := (t.ctxAt c i).kreg r.reg
  (t.core c).seam.early = [] ∧ t.net = s.net ++ [⟨2, c, r.own.core, .ack r.wid []⟩] ∧
  (t.core c).spad = kPutRow a (cx.cells a.deg) r.inst (nat4 cx.own a.deg + r.ord) r.vals (s.core c).spad ∧
  b.count = a.count - 1 ∧ (a.count = 1 → fld b.w0 43 42 = 2)

/-- A context of a core is saved for a later restore (R265). -/
def savedAway (s t : State) (c i : Nat) : Prop :=
  t.ctxAt c i = {} ∧ (t.core c).savedCtxs = (s.core c).savedCtxs ++ [(i, asSaved (s.ctxAt c i))] ∧ keepsMemory s t ∧ t.net = s.net

/-- The instructions that name a parked activation (R259, R263): the reference's register and the word; `frec` with an index that it
reads. -/
def onPark : Instr → Option (Nat × Ins)
  | .frec d a i => if i < 6 ∨ 32 ≤ i then some (a, { word := wordFrec d a i, reads := [a], writes := [d], once := true }) else none
  | .fres d a f => some (a, { word := wordFres d a f, reads := [a, f], writes := [d], ends := true, once := true })
  | .fabt d a => some (a, { word := wordFabt d a, reads := [a], writes := [d], ends := true, once := true })
  | _ => none

end Sys2Proof.Machine.Claims

section
open Sys2Proof Sys2Proof.Machine Sys2Proof.Machine.Claims

/-- R253, R259, R263: `frec` reads the record, the region, the park state or a scalar register of a parked activation of its core, 0
for a park number that names none, and is ILL for another index; `fres` resumes a parked activation by tink-back, with renewed
descriptors for 1, one of the save area as soon as a context is free, one of a pre-empted context when that is restored; `fabt` ends it,
and aborts the launch of a node's start activation; both answer 0, or 1 where there is none; a reference with a reserved bit is BOUNDS,
and so is a flag of `fres` beyond 1. -/
def Sys2Proof.Machine.Claims.parkedActivations : Prop :=
  (∀ (d a i num : Nat) (s : State), s.admits { word := wordFrec d a i, reads := [a], writes := [d], once := true } = true →
    parkNamed (s.ctx.sv a) num →
    ∀ v : Word, (s.findPark s.cur num = none ∧ (i < 6 ∨ 32 ≤ i) ∧ v = 0 ∨
        ∃ p y, s.findPark s.cur num = some (p, y) ∧
          (i < 4 ∧ v = [y.sp.fault.f0, y.sp.fault.f1, y.sp.fault.f2, y.sp.fault.f3][i]?.getD 0 ∨
           i = 4 ∧ v = y.region.entry ∨
           i = 5 ∧ v = BitVec.ofNat 64 (1 + (if y.park.saved then 2 else 0) + min y.park.resumes 255 * 256) ∨
           32 ≤ i ∧ v = (y.sreg (i - 32)).val)) →
      scalarRoom s d 0 (fun _ => v) → writesScalar (.frec d a i) s d 0 fun _ => v) ∧
  (∀ (d a i : Nat) (s : State), s.admits { word := wordFrec d a i, reads := [a], writes := [d], once := true } = true →
    6 ≤ i → i < 32 → ∃ t, exec (.frec d a i) s = .next t ∧ s.parksWith t (wordFrec d a i) 0x01 0 0 false false) ∧
  (∀ (i : Instr) (a : Nat) (ins : Ins) (s : State), onPark i = some (a, ins) → s.admits ins = true →
    (∀ num, ¬ parkNamed (s.ctx.sv a) num) →
    ∃ t, exec i s = .next t ∧ s.parksWith t ins.word 0x05 4 (s.ctx.sv a) true false) ∧
  (∀ (d a f num : Nat) (s : State),
    s.admits { word := wordFres d a f, reads := [a, f], writes := [d], ends := true, once := true } = true →
    parkNamed (s.ctx.sv a) num →
    (2 ≤ (s.ctx.sv f).toNat → ∃ t, exec (.fres d a f) s = .next t ∧ s.parksWith t (wordFres d a f) 0x05 3 (s.ctx.sv f) false false) ∧
    ((s.ctx.sv f).toNat < 2 → scalarFlat s d →
    let resumed (x : Ctx) : Ctx :=
      let r := if s.ctx.sv f = 1 then x.renew (s.core s.cur) else x
      { r with park := { r.park with resumes := r.park.resumes + 1 } }
    ∃ t, exec (.fres d a f) s = .next t ∧ t.ctx.startsRegion [sCode d] ∧
      (s.findPark s.cur num = none → answers s t d 1) ∧
      (∀ i y, s.findPark s.cur num = some (.ctx i, y) → i ≠ s.curCtx → answers s t d 0 ∧
        { t.ctxAt s.cur i with dups := [] } = { (resumed (s.ctxAt s.cur i)).tinkBack with status := .running, dups := [] }) ∧
      (∀ i y, s.findPark s.cur num = some (.saved i, y) → answers s t d 0 ∧
        (t.core s.cur).savedParks = (s.core s.cur).savedParks.mapIdx fun j x =>
          if j = i then { resumed x with park := { (resumed x).park with resume := true } } else x) ∧
      (∀ i y, s.findPark s.cur num = some (.away i, y) → answers s t d 0 ∧
        (t.core s.cur).savedCtxs = (s.core s.cur).savedCtxs.mapIdx fun j e =>
          if j = i then (e.1, { (resumed e.2).tinkBack with status := .running }) else e))) ∧
  (∀ (d a num : Nat) (s : State),
    s.admits { word := wordFabt d a, reads := [a], writes := [d], ends := true, once := true } = true →
    parkNamed (s.ctx.sv a) num → scalarFlat s d →
    ∃ t, exec (.fabt d a) s = .next t ∧ t.ctx.startsRegion [sCode d] ∧
      (s.findPark s.cur num = none → answers s t d 1) ∧
      (∀ p y, s.findPark s.cur num = some (p, y) → (∀ i, p = .ctx i → i ≠ s.curCtx) → writesAnswer s t d 0 ∧
        (y.id.launch = none → t.net = s.net) ∧
        (∀ i, p = .ctx i → t.ctxAt s.cur i = {}) ∧
        (∀ i, p = .saved i → (t.core s.cur).savedParks = dropAt (s.core s.cur).savedParks i) ∧
        (∀ i, p = .away i → (t.core s.cur).savedCtxs = dropAt (s.core s.cur).savedCtxs i) ∧
        (∀ ref l x, y.id.node = some ref → y.id.launch = some l → tlook s.launches l = some x → x.status = 0 →
          ∃ z, tlook t.launches l = some z ∧ z.aborting = true)))

/-- R267: `icinv` and `tlbinv` ask every named die of the virtual function and their own, and hold until all have confirmed; a die drops
the instruction-cache lines, or the translations, of the range (of every address for length 0), and confirms `tlbinv` once the accesses
made through them are over, for which the model takes those of its function that the die issued before the request (L28). A range beyond
2^52 is BOUNDS, a mask with any of bits 63 to 8 set is DMASK. -/
def Sys2Proof.Machine.Claims.invalidation : Prop :=
  (∀ (m a b : Nat) (ic : Bool) (s : State),
    let i : Instr := if ic then .icinv m a b else .tlbinv m a b
    let w := if ic then wordIcinv m a b else wordTlbinv m a b
    s.admits { word := w, reads := [m, a, b], once := true } = true →
    (s.ctx.held = none → 2 ^ 52 ≤ (s.ctx.sv a).toNat ∨ 2 ^ 52 < (s.ctx.sv a).toNat + (s.ctx.sv b).toNat →
      ∃ t, exec i s = .next t ∧ s.parksWith t w 0x05 1 (s.ctx.sv a) true false) ∧
    (s.ctx.held = none → (s.ctx.sv a).toNat < 2 ^ 52 → (s.ctx.sv a).toNat + (s.ctx.sv b).toNat ≤ 2 ^ 52 →
      let all := s.ctx.sv b = 0
      let lo := if all then 0 else (s.ctx.sv a).toNat
      let hi := if all then 2 ^ 52 else (s.ctx.sv a).toNat + (s.ctx.sv b).toNat
      let ds := invalDies s (s.ctx.sv m).toNat
      ((s.ctx.sv m).toNat < 256 → ∃ t, exec i s = .next t ∧ holdsAt s t ∧ keepsMemory s t ∧
        t.ctx.held = some ⟨s.serial, ds.length, [], false, 0, 0, false, [], none⟩ ∧
        t.net = s.net ++ ds.map fun d => ⟨0, s.cur, schedNode d, .inval ic s.ctx.id.vf lo hi (s.owner w) s.serial none⟩) ∧
      (256 ≤ (s.ctx.sv m).toNat → ∃ t, exec i s = .next t ∧ s.parksWith t w 0x14 0 0 false false)) ∧
    (∀ h, s.ctx.held = some h →
      (h.due = 0 → ∃ t, exec i s = .next t ∧ s.quiet t []) ∧
      (h.due ≠ 0 → ∃ t, exec i s = .next t ∧ holdsAt s t ∧ s.onlyCtx t))) ∧
  (∀ (k ch src die vf lo hi id : Nat) (own : Owner) (s : State),
    s.flight k = some ⟨ch, src, schedNode die, .inval true vf lo hi own id none⟩ →
    ∃ t, exec (.invalidationRequestArrival k) s = .next t ∧ t.net = dropAt s.net k ∧ confirmed s t own.act id ∧ keepsMemory s t ∧
      ∀ c, dieOf c = die → ∀ e ∈ (t.core c).icache, e ∈ (s.core c).icache ∧
        ¬ (e.1 / 2 ^ 46 = vf ∧ lo / 64 ≤ e.1 % 2 ^ 46 ∧ e.1 % 2 ^ 46 * 64 < hi)) ∧
  (∀ (k ch src die vf lo hi id : Nat) (since : Option Nat) (own : Owner) (s : State),
    s.flight k = some ⟨ch, src, schedNode die, .inval false vf lo hi own id since⟩ →
    ∃ t, exec (.invalidationRequestArrival k) s = .next t ∧ keepsMemory s t ∧
      (since = none → t.net = lset s.net k ⟨ch, src, schedNode die, .inval false vf lo hi own id (some s.serial)⟩ ∧
        (∀ e ∈ (t.die die).tlb, e ∈ (s.die die).tlb ∧ ¬ (e.vf = vf ∧ e.va < hi ∧ lo < e.va + 2 ^ e.lg)) ∧
        ∀ c, dieOf c = die → ∀ e ∈ (t.core c).utlb, e ∈ (s.core c).utlb ∧ ¬ (e.vf = vf ∧ e.va < hi ∧ lo < e.va + 2 ^ e.lg)) ∧
      (∀ n, since = some n → olderAccess s die vf n = false → t.net = dropAt s.net k ∧ confirmed s t own.act id) ∧
      (∀ n, since = some n → olderAccess s die vf n = true → t = s))

/-- R53, R260, R264 to R266: a boundary pre-emption saves a context whose region has just begun, an immediate one any context with
nothing begun that outlives its region, restarted at its region's first word; another context is marked and saved later; a restore
puts a context back into its place; a core pre-empted as a whole, once all its contexts can be saved and its queues have drained, keeps
its state and can be restored, or moved to an idle core of the virtual function with its member of the matrix unit, its bind records, its
slice's place and its flows; the oldest parked activation is saved when all contexts are parked and a fault message waits; a stall that
runs out has let its cycles pass. A context brought back meets the early seam arrivals that wait for its registers (R315). A core that a
slice leaves keeps the generation counters of its slots (R274); what else it is left with, and the numbers 8 and up for contexts that were saved
before their core was, are the model's choice (L66). -/
def Obligations.Preemption : Prop :=
  (∀ (c i : Nat) (now : Bool) (s : State),
    let ev : Instr := if now then .preemptImmediate c (some i) else .preemptBoundary c (some i)
    let x := s.ctxAt c i
    let can := x.status = .parked ∨ (if now then x.interruptible else x.atBoundary) = true
    x.status ≠ .free →
    (can → ∃ t, exec ev s = .next t ∧ savedAway s t c i) ∧
    (¬ can → ∃ t, exec ev s = .next t ∧ t = s.setCtxAt c i { x with want := true })) ∧
  (∀ (c : Nat) (now : Bool) (s : State),
    let ev : Instr := if now then .preemptImmediate c none else .preemptBoundary c none
    let k := s.core c
    let m := s.memberAt c
    let can (x : Ctx) : Prop := x.status ≠ .running ∨ (if now then x.interruptible else x.atBoundary) = true
    let all := (∀ e ∈ k.ctxs, can e.2) ∧ k.q.ropq = [] ∧ m.queue = [] ∧ m.backlog = []
    k.preempted = false →
    (all → ∃ t, exec ev s = .next t ∧ (t.core c).preempted = true ∧ (t.core c).ctxs = [] ∧
      (t.core c).savedCtxs = ((k.ctxs.filter fun e => e.2.status != .free).map fun e => (e.1, asSaved e.2)) ++
        (k.savedCtxs.map fun e => (e.1 + 8, e.2)) ∧ keepsMemory s t ∧ t.net = s.net) ∧
    (¬ all → ∃ t, exec ev s = .next t ∧ (t.core c).preempted = false ∧ keepsMemory s t ∧ t.net = s.net ∧
      (t.core c).savedCtxs = k.savedCtxs ∧
      (t.core c).ctxs.map (fun e => (e.1, { e.2 with dups := [] })) = k.ctxs.map fun e => (e.1, if e.2.status = .running then
        { (if now = true ∧ e.2.interruptible = true then e.2.tinkBack else e.2) with want := true, dups := [] }
        else { e.2 with dups := [] }))) ∧
  (∀ (c i j : Nat) (y : Ctx) (s : State), findIdx (fun (e : Nat × Ctx) => e.1 == i) (s.core c).savedCtxs 0 = some (j, i, y) →
    (s.core c).preempted = false → (s.ctxAt c i).status = .free → y.id.nv + y.instRegs ≤ s.poolFree c →
    ∃ t, exec (.contextRestore c (some i)) s = .next t ∧ (t.core c).savedCtxs = dropAt (s.core c).savedCtxs j ∧ t.hbm = s.hbm ∧
      ((s.core c).seam.early = [] → { t.ctxAt c i with dups := [] } = { comeBack y with dups := [] } ∧ keepsMemory s t ∧
        t.net = s.net) ∧
      (∀ r, earlyFor s c (comeBack y) r → (∀ e ∈ (s.core c).ctxs, seamMatches (s.core c) r e.2 = false) →
        meetsEarly s t c i (comeBack y) r)) ∧
  (∀ (c : Nat) (s : State), (s.core c).preempted = true → s.isRunning c = true →
    ∃ t, exec (.contextRestore c none) s = .next t ∧ (t.core c).preempted = false ∧ t.hbm = s.hbm ∧
      ((s.core c).seam.early = [] → keepsMemory s t ∧ t.net = s.net ∧
        t.core c = { s.core c with
          preempted := false
          ctxs := ((s.core c).savedCtxs.filter fun e => decide (e.1 < 8)).map fun e => (e.1, comeBack e.2)
          savedCtxs := ((s.core c).savedCtxs.filter fun e => decide (8 ≤ e.1)).map fun e => (e.1 - 8, e.2) }) ∧
      (∀ i y r, (s.core c).savedCtxs = [(i, y)] → i < 8 → earlyFor s c (comeBack y) r → meetsEarly s t c i (comeBack y) r)) ∧
  (∀ (c dst v : Nat) (s : State),
    c ≠ dst → (s.core c).preempted = true → (∀ f ∈ (s.core c).fifos, f.2 = []) → (s.memberAt c).set = none →
    (s.memberAt c).st = 0 → (∀ d ∈ s.dies, ∀ f ∈ d.2.flows, f.2.core = c → f.2.ops = []) → (s.core dst).idle = true →
    s.nodesOn dst = [] → (∃ f, (v, f) ∈ s.vfs ∧ inQuads f c = true ∧ inQuads f dst = true) → s.isRunning dst = true →
    (s.memberAt dst).set = none → (s.memberAt dst).queue = [] →
    let k := s.core c
    let d := s.core dst
    ∃ t, exec (.coreMigration c dst) s = .next t ∧
      t.core dst = { k with zrd := d.zrd, zwr := d.zwr, rpr := d.rpr, rnr := d.rnr, noCredit := d.noCredit, pace := d.pace } ∧
      t.core c = { slots := k.slots.map (fun e => (e.1, { ctr := e.2.ctr })), parkCount := k.parkCount, zrd := k.zrd, zwr := k.zwr,
                   rpr := k.rpr, rnr := k.rnr, noCredit := k.noCredit, pace := k.pace } ∧ t.memberAt dst = s.memberAt c ∧
      t.memberAt c = {} ∧ t.hbm = s.hbm ∧ t.net = s.net ∧
      (∀ d i n, s.node d i = some n → t.node d i = some (if n.core = c then { n with core := dst } else n)) ∧
      (∀ d i f, tlook (s.die d).flows i = some f → tlook (t.die d).flows i = some (if f.core = c then { f with core := dst } else f)) ∧
      (∀ l x, tlook s.launches l = some x →
        tlook t.launches l = some { x with cores := x.cores.map fun e => (e.1, if e.2 = c then dst else e.2) })) ∧
  (∀ (c i : Nat) (x : Ctx) (s : State),
    let parked := (s.core c).ctxs.filter fun e => e.2.status == .parked
    parked.length = 8 → (∃ m ∈ (s.core c).q.mailbox, m.type = 254) → oldestPark (s.core c).parkCount parked = some (i, x) →
    ∃ t, exec (.parkedActivationSave c) s = .next t ∧ t.ctxAt c i = {} ∧ keepsMemory s t ∧
      (t.core c).savedParks = (s.core c).savedParks ++ [{ x with dups := [], park := { x.park with saved := true } }]) ∧
  (∀ (c i : Nat) (s : State), (s.ctxAt c i).stall ≠ 0 →
    ∃ t, exec (.hstallExpiry c i) s = .next t ∧ keepsMemory s t ∧ t.net = s.net ∧
      (s.isRunning c = true → t.ctxAt c i = { s.ctxAt c i with stall := 0 } ∧
        (t.die (dieOf c)).pw.cycle = ((s.die (dieOf c)).pw.cycle + (s.ctxAt c i).stall) % 2 ^ 64) ∧
      (s.isRunning c = false → t.ctxAt c i = s.ctxAt c i))

/-- R283, R312 to R317, R319: a copy record is kept at the owner's core, up to 8,192 for a slot, and a withdrawal removes those of a
holder; the seam unit sends its rows in order; an arriving row that no register matches is kept, or with 32 kept goes back to be sent
again; a push row lands in the ghost row it names and counts down, the last one making the register ready; one at a core that is not running
is reported as a write there is, its record naming the core alone (L72); a seam wait whose timeout passes tries again. -/
def Obligations.SeamUnitTurns : Prop :=
  (∀ (k ch src c sl wid : Nat) (r : CopyRec) (own : Owner) (s : State),
    s.flight k = some ⟨ch, src, c, .copyRec r sl own wid⟩ → s.isRunning c = true →
    let acked := dropAt s.net k ++ [⟨2, c, own.core, .ack wid []⟩]
    let held := (s.core c).seam.recs.filter fun e => e.slot == r.slot
    (s.core c).preempted = false →
    ∃ t, exec (.copyRecordArrival k) s = .next t ∧ keepsMemory s t ∧
      (held.length < 8192 → (t.core c).seam.recs = (s.core c).seam.recs ++ [r] ∧ t.net = acked) ∧
      (8192 ≤ held.length → (t.core c).seam.recs = (s.core c).seam.recs)) ∧
  (∀ (k ch src c slot holder wid : Nat) (own : Owner) (s : State),
    s.flight k = some ⟨ch, src, c, .withdraw slot holder own wid⟩ → (s.core c).preempted = false →
    ∃ t, exec (.copyRecordWithdrawal k) s = .next t ∧ keepsMemory s t ∧
      t.net = dropAt s.net k ++ [⟨2, c, own.core, .ack wid []⟩] ∧
      (t.core c).seam.recs = (s.core c).seam.recs.filter fun r => !(r.slot == slot && r.holder == holder)) ∧
  (∀ (c i d : Nat) (r : SeamRow) (s : State), s.isRunning c = true →
    findIdx (fun (r : SeamRow) => (s.coreOfSlice r.own.launch r.dst).isSome) (s.core c).seam.out 0 = some (i, r) →
    s.coreOfSlice r.own.launch r.dst = some d →
    ∃ t, exec (.seamSend c) s = .next t ∧ (t.core c).seam.out = dropAt (s.core c).seam.out i ∧ keepsMemory s t ∧
      t.net = s.net ++ [⟨seamChan c d, c, d, .seam r⟩]) ∧
  (∀ (c d : Nat) (r : SeamRow) (rest : List SeamRow) (s : State), s.isRunning c = true → (s.core c).seam.resend = r :: rest →
    s.coreOfSlice r.own.launch r.dst = some d →
    ∃ t, exec (.seamArrivalResend c) s = .next t ∧ (t.core c).seam.resend = rest ∧ keepsMemory s t ∧
      t.net = s.net ++ [⟨seamChan c d, c, d, .seam r⟩]) ∧
  (∀ (k ch src c : Nat) (r : SeamRow) (s : State), s.flight k = some ⟨ch, src, c, .seam r⟩ → s.isRunning c = false →
    ∃ t, exec (.seamArrival k) s = .next t ∧ keepsMemory s t ∧ t.net = dropAt s.net k ++ [⟨2, c, r.own.core, .ack r.wid []⟩] ++
      (s.report r.own 0x15 1 (BitVec.ofNat 64 (c * 2 ^ 32)) true true).net.drop s.net.length) ∧
  (∀ (k ch src c : Nat) (r : SeamRow) (s : State), s.flight k = some ⟨ch, src, c, .seam r⟩ → s.isRunning c = true →
    (s.core c).preempted = false →
    findIdx (fun (g : SeamGone) => g.slice == r.dst && g.slot == r.slot && g.reg == r.reg && g.kind == r.kind)
      (s.core c).seam.gone 0 = none →
    ∃ t, exec (.seamArrival k) s = .next t ∧
      ((s.core c).ctxs.find? (fun e => seamMatches (s.core c) r e.2) = none → keepsMemory s t ∧ t.net = dropAt s.net k ∧
        ((s.core c).seam.early.length < 32 → (t.core c).seam.early = (s.core c).seam.early ++ [r]) ∧
        (32 ≤ (s.core c).seam.early.length → (t.core src).seam.resend = (s.core src).seam.resend ++ [r])) ∧
      (∀ i x, (s.core c).ctxs.find? (fun e => seamMatches (s.core c) r e.2) = some (i, x) →
        let a := x.kreg r.reg
        seamAgrees r x.lift a = true → r.kind = 0 →
        let cx := (s.core c).cplxOf a
        let b := (t.ctxAt c i).kreg r.reg
        t.net = dropAt s.net k ++ [⟨2, c, r.own.core, .ack r.wid []⟩] ∧
        (t.core c).spad = kPutRow a (cx.cells a.deg) r.inst (nat4 cx.own a.deg + r.ord) r.vals (s.core c).spad ∧
        b.count = a.count - 1 ∧ (a.count = 1 → fld b.w0 43 42 = 2))) ∧
  (∀ (c i k : Nat) (s : State), s.isRunning c = true → (s.ctxAt c i).wait = .seam k → (s.ctxAt c i).status = .running →
    (s.ctxAt c i).sp.kmode.toNat / 2 ^ 8 % 2 ^ 24 ≠ 0 →
    ∃ t, exec (.seamTimeout c i) s = .next t ∧ t = s.setCtxAt c i { s.ctxAt c i with tmo := true, wait := .ready })

/-- The instructions on parked activations, and invalidation of cached translations and code (R253, R259, R263, R267). -/
def Obligations.ParksAndInvalidation : Prop := parkedActivations ∧ invalidation

end
/-! ## Messages and remote operations on their way -/

namespace Sys2Proof.Machine.Claims

/-- An activation as a message starts it (R27, R156, R168). -/
def startsWith (x : Ctx) (m : Msg) (entry : Word) (nv slice : Nat) (node lane : Option Nat) : Prop :=
  x.status = .running ∧ x.pc = entry ∧ x.region = { entry := entry } ∧ x.id.nv = nv ∧ x.id.msg = m ∧ x.id.type = m.type ∧
  x.id.vf = m.vf ∧ x.id.launch = m.launch ∧ x.id.slice = slice ∧ x.id.node = node ∧ x.id.lane = lane ∧
  (∀ n, x.sreg n = plain (if 1 ≤ n ∧ n ≤ 6 then m.words[n - 1]?.getD 0
    else if n = 7 then BitVec.ofNat 64 (m.type + m.tag * 256) else if n = 8 then m.src else 0)) ∧
  x.regs.v = [] ∧ x.regs.p = [] ∧ x.regs.k = [] ∧ x.handles = [] ∧ x.lift = {} ∧ x.sp = {} ∧ x.hints = {}

/-- A message comes to a core, and the state without it: item k of the traffic, or the head of the core's join-fire queue. -/
def msgComes (s u : State) (c : Nat) (k : Option Nat) (m : Msg) : Prop :=
  (∃ j ch src, k = some j ∧ s.flight j = some ⟨ch, src, c, .msg m⟩ ∧ u = s.dropFlight j) ∨
  (∃ rest, k = none ∧ (s.core c).q.joinq = m :: rest ∧ u = s.modCore c fun x => { x with q := ({ x.q with joinq := rest }).feed })

/-- The slice and the reserving node of a context (R168). -/
def laneOfCtx (s : State) (c x : Nat) : Nat × Option Nat :=
  (((s.reserver c x).map fun n => n.2.slice).getD 0, (s.reserver c x).map fun n => n.1)

/-- A remote operation is next at a core that is running and whose remote-op thread has no round left to fire: the head of its queue, or
item k of the traffic when the queue is empty and no packet of another package waits for a slot. -/
def opComes (s u : State) (c : Nat) (k : Option Nat) (op : RemoteOp) (rest : List RemoteOp) : Prop :=
  s.isRunning c = true ∧ (s.core c).preempted = false ∧ (∀ f ∈ (s.core c).q.fires, f.thread = false) ∧
  ((k = none ∧ (s.core c).q.ropq = op :: rest ∧ u = s) ∨
   (∃ j ch src, k = some j ∧ s.flight j = some ⟨ch, src, c, .remote op⟩ ∧ (s.core c).q.ropq = [] ∧ rest = [] ∧
      (∀ e ∈ s.targets, e.2.waiting = []) ∧ u = s.dropFlight j))

/-- A core's scratchpad is now m, every other byte of memory is as before. -/
def onlySpad (s t : State) (c : Nat) (m : Memory) : Prop :=
  (t.core c).spad = m ∧ (∀ d, d ≠ c → (t.core d).spad = (s.core d).spad) ∧ t.hbm = s.hbm

/-- Rounds that n more complete for a target. -/
def roundsOf (count n target : Nat) : Nat := (count + n) / target

/-- A sync word after a raise by n (R205). -/
def raisedWord (w : SyncWord) (n : Nat) (poison : Bool) : SyncWord :=
  { w with pz := w.pz || poison, gen := (w.gen + roundsOf w.count n w.target) % 2 ^ 32, count := (w.count + n) % w.target }

/-- The firings of a raise (R205). -/
def raisedMsgs (w : SyncWord) (c n addr vf : Nat) (launch : Option Nat) : List Msg :=
  if w.be then (List.range (roundsOf w.count n w.target)).map fun i =>
    { type := w.btype, words := [BitVec.ofNat 64 addr, BitVec.ofNat 64 ((w.gen + i + 1) % 2 ^ 32)],
      src := BitVec.ofNat 64 (0x2000 + c), dst := c, vf := vf, launch := launch } else []

/-- The messages of completed rounds that have not entered the join-fire queue yet (R175, R205). -/
def unfired (q : Queues) : List Msg :=
  (q.fires.map fun f => (List.range f.left).map fun i =>
    { f.msg with words := f.msg.words.mapIdx fun j w => if j = 1 then BitVec.ofNat 64 ((f.gen + i + 1) % 2 ^ f.bits) else w }).flatten

/-- The join-fire queue has taken firings, in order, as far as it has room for them; the rest follow. -/
def firesInto (q r : Queues) (fired : List Msg) : Prop :=
  r.joinq ++ unfired r = q.joinq ++ unfired q ++ fired ∧ (fired = [] → r.joinq = q.joinq ∧ r.fires = q.fires) ∧
  (fired ≠ [] → r.joinq.length ≤ 8 ∧ (unfired r ≠ [] → r.joinq.length = 8))

/-- A raise can be applied: a round that fires finds room in the join-fire queue. -/
def raiseFits (k : Core) (w : SyncWord) (n : Nat) : Prop :=
  w.target ≠ 0 ∧ (w.be = true → roundsOf w.count n w.target ≠ 0 → k.q.joinq.length < 8)

/-- A message goes back to who sent it, a core or the host, with a reason (R157, R433). -/
def goesBack (u t : State) (c : Nat) (m : Msg) (reason : Nat) : Prop :=
  (m.src.toNat < 2048 → t = u.post ⟨2, c, m.src.toNat, .msg (refusalOf c m reason)⟩) ∧
  (m.src = 0x10000 → t = u.post ⟨2, c, hostNode, .msg (refusalOf c m reason)⟩)

end Sys2Proof.Machine.Claims

section
open Sys2Proof Sys2Proof.Machine Sys2Proof.Machine.Claims

/-- R27, R153 to R157, R161, R168, R433: a message at a running core waits in the pending queue while its type is unbound; else it starts
an activation in the lowest eligible context, with its words in s1 to s6, type and tag in s7 and the sender in s8, when none of its
type waits before it, or waits in the mailbox; one without room there goes back to its sender, core or host, with the reason, and one
that an instruction of major 0x22 sent, or of an ordinary type, to a core that is not running with reason 4. With all 64 entries held and
fewer than 56 of them ordinary an ordinary message goes back with reason 1, the model's choice (L63). One for the host's rings stands on
the ring of its virtual function, an event or a reply by its channel, while that has room. -/
def Sys2Proof.Machine.Claims.messagesArrive : Prop :=
  (∀ (c : Nat) (k : Option Nat) (m : Msg) (u s : State), msgComes s u c k m →
    let q := (u.core c).q
    let bound := tlook q.bindings m.type ≠ none ∨ 240 ≤ m.type
    let room := q.mailbox.length < 64 ∧ (m.type < 240 → ordinary q.mailbox < 56)
    (u.isRunning c = true → (u.core c).preempted = false → u.startOne c = none →
      (¬ bound → q.pendq.length < 16 → ∃ t, exec (.messageArrival c k) s = .next t ∧
        t = u.modCore c fun x => { x with q := { x.q with pendq := x.q.pendq ++ [m] } }) ∧
      (¬ bound → 16 ≤ q.pendq.length → ∃ t, exec (.messageArrival c k) s = .next t ∧ goesBack u t c m 2) ∧
      (bound → (∀ e ∈ q.mailbox, e.type ≠ m.type) → ∀ x b, u.slotFor c m = some (x, b) →
        ∃ t, exec (.messageArrival c k) s = .next t ∧ (t.core c).q = q ∧ keepsMemory s t ∧ t.net = u.net ∧
          startsWith (t.ctxAt c x) m b.entry b.vregs (laneOfCtx u c x).1 none (laneOfCtx u c x).2) ∧
      (bound → ((∃ e ∈ q.mailbox, e.type = m.type) ∨ u.slotFor c m = none) →
        (room → ∃ t, exec (.messageArrival c k) s = .next t ∧
          t = u.modCore c fun x => { x with q := { x.q with mailbox := x.q.mailbox ++ [m] } }) ∧
        (¬ room → m.type < 240 → ∃ t, exec (.messageArrival c k) s = .next t ∧ goesBack u t c m 1))) ∧
    (u.isRunning c = false → m.sent = true ∨ m.type < 240 → ∃ t, exec (.messageArrival c k) s = .next t ∧ goesBack u t c m 4)) ∧
  (∀ (c k ch src : Nat) (m : Msg) (s : State), s.flight k = some ⟨ch, src, hostNode, .msg m⟩ →
    let events := s.host.events
    let replies := s.host.replies
    let e := tget events {} m.vf
    let r := tget replies {} m.vf
    ∃ t, exec (.messageArrival c (some k)) s = .next t ∧ t.net = dropAt s.net k ∧ keepsMemory s t ∧
      (ch = 2 → e.entries.length < e.count →
        t.host = { s.host with events := tput events m.vf { e with entries := e.entries ++ [m] } }) ∧
      (ch ≠ 2 → r.entries.length < r.count →
        t.host = { s.host with replies := tput replies m.vf { r with entries := r.entries ++ [m] } }))

/-- R154, R155, R159, R261, R263: a running core starts its oldest mailbox entry that can start, system entries before ordinary ones, and
a resumed activation of the save area before both; the firmware passes a system message that nothing binds on to the event ring, aborting
the activation that a fault message names, and ends a nested fault. -/
def Sys2Proof.Machine.Claims.activationsStart : Prop :=
  (∀ (c x : Nat) (b : Binding) (m : Msg) (ms : List Msg) (s : State), s.isRunning c = true → (s.core c).preempted = false →
    (∀ y ∈ (s.core c).savedParks, y.park.resume = false) → (s.core c).q.mailbox = m :: ms →
    (240 ≤ m.type ∨ ∀ e ∈ ms, e.type < 240) → s.slotFor c m = some (x, b) →
    ∃ t, exec (.activationStart c) s = .next t ∧ (t.core c).q.mailbox = ms ∧ keepsMemory s t ∧ t.net = s.net ∧
      startsWith (t.ctxAt c x) m b.entry b.vregs (laneOfCtx s c x).1 none (laneOfCtx s c x).2) ∧
  (∀ (c i j : Nat) (x : Ctx) (s : State), s.isRunning c = true → (s.core c).preempted = false →
    findIdx (fun (y : Ctx) => y.park.resume) (s.core c).savedParks 0 = some (i, x) →
    (List.range 8).find? (fun j => s.fits c j x.id.launch (x.id.nv + x.instRegs)) = some j →
    let y : Ctx := { x.tinkBack with status := .running, park := { x.park with resume := false, saved := false } }
    ∃ t, exec (.activationStart c) s = .next t ∧ (t.core c).savedParks = dropAt (s.core c).savedParks i ∧ t.hbm = s.hbm ∧
      ((s.core c).seam.early = [] → keepsMemory s t ∧ { t.ctxAt c j with dups := [] } = { y with dups := [] }) ∧
      (∀ r, earlyFor s c y r → (∀ e ∈ (s.core c).ctxs, seamMatches (s.core c) r e.2 = false) → meetsEarly s t c j y r)) ∧
  (∀ (c : Nat) (m : Msg) (ms : List Msg) (s : State), s.isRunning c = true → (s.core c).preempted = false →
    (s.core c).nested = none → (s.core c).q.mailbox = m :: ms → 240 ≤ m.type → tlook (s.core c).q.bindings m.type = none →
    (∃ x, x < 8 ∧ s.fits c x m.launch 0 = true) →
    let passed : Flight := ⟨2, c, hostNode, .msg m⟩
    ∃ t, exec (.systemHandler c) s = .next t ∧ (t.core c).q.mailbox = ms ∧ keepsMemory s t ∧ passed ∈ t.net ∧
      (m.type ≠ 254 → t.net = s.net ++ [passed]) ∧
      (m.type = 254 → (m.words[0]?.getD 0).toNat / 2 ^ 19 % 2 = 1 → ∀ i y,
        s.findPark c ((m.words[4]?.getD 0).toNat / 2 ^ 16 % 2 ^ 16) = some (.ctx i, y) → t.ctxAt c i = {})) ∧
  (∀ (c i : Nat) (x : Ctx) (s : State), s.isRunning c = true → (s.core c).preempted = false →
    (s.core c).nested = some (.ctx i, x) → ∃ t, exec (.systemHandler c) s = .next t ∧ t.ctxAt c i = {} ∧ keepsMemory s t)

/-- R166, R174, R175, R203, R205, R231: the remote-op thread takes one operation at a time: a put stores its bytes, an atomic stores its
new value and answers the old one, a raise counts at its sync word, `jset` sets a join record, an arrival counts at a configured one and
is refused by another; each is acknowledged but `jset`, which is none of the writes of R219 and brings no traffic; whole rounds start
generations at once, and their messages enter the join-fire queue as it has room (L19). What the refusal of an arrival carries is the
model's choice (L65). The landing port applies its raises in the same way. An operation that the thread can execute takes the core's issue
slot (L61), and the contexts that are ready have been passed over once more. -/
def Obligations.RemoteOpThread : Prop :=
  (∀ (c : Nat) (k : Option Nat) (op : RemoteOp) (rest : List RemoteOp) (u s : State), opComes s u c k op rest →
    let m := (s.core c).spad
    let j := (s.core c).q.joinq
    let done (i : Instr) (m' : Memory) (fired : List Msg) (sent : List Flight) : Prop := ∃ t, exec i s = .next t ∧
      onlySpad s t c m' ∧ (t.core c).q.ropq = rest ∧ firesInto (s.core c).q (t.core c).q fired ∧ t.net = u.net ++ sent
    (∀ a bs own wid, op = .put a bs own wid →
      done (.remoteOpExecute c k) (mwrite m a bs) [] [⟨2, c, own.core, .ack wid []⟩]) ∧
    (∀ fn a x y own id piece wid, op = .amo fn a x y own id piece wid →
      let old : Word := BitVec.ofNat 64 (mreadNat m a 8)
      done (.remoteOpExecute c k)
        (match amoNew fn old x y with
          | some v => mwrite m a (leBytes 8 v.toNat)
          | none => m) [] [⟨2, c, own.core, .reply id piece (.data (leBytes 8 old.toNat)) true none [] wid⟩]) ∧
    (∀ a n own wid, op = .swadd a n own wid → raiseFits (s.core c) (syncWord m a) n →
      done (.remoteOpExecute c k) (mwrite m a (leBytes 16 (raisedWord (syncWord m a) n false).nat))
        (raisedMsgs (syncWord m a) c n a own.vf own.launch) [⟨2, c, own.core, .ack wid []⟩]) ∧
    (∀ a target type own, op = .jset a target type own →
      done (.remoteOpExecute c k) (mwrite m a (leBytes 16 (target + type * 2 ^ 80 + 2 ^ 88))) [] []) ∧
    (∀ a n own wid, op = .arrive a n own wid →
      let r := mreadNat m a 16
      let target := r % 2 ^ 32
      let count := r / 2 ^ 32 % 2 ^ 32
      let gen := r / 2 ^ 64 % 2 ^ 16
      let rounds := roundsOf count n target
      (r / 2 ^ 88 % 2 = 1 → target ≠ 0 → (rounds ≠ 0 → j.length < 8) →
        done (.joinArrival c k)
          (mwrite m a (leBytes 16 (target + (count + n) % target * 2 ^ 32 + (gen + rounds) % 65536 * 2 ^ 64 +
            r / 2 ^ 80 % 2 ^ 48 * 2 ^ 80)))
          ((List.range rounds).map fun i =>
            { type := r / 2 ^ 80 % 2 ^ 8, words := [BitVec.ofNat 64 a, BitVec.ofNat 64 ((gen + i + 1) % 65536), BitVec.ofNat 64 target],
              src := BitVec.ofNat 64 (0x4000 + own.core), dst := c, vf := own.vf, launch := own.launch })
          [⟨2, c, own.core, .ack wid []⟩]) ∧
      (r / 2 ^ 88 % 2 = 0 →
        let x : Msg := { type := 0, words := [BitVec.ofNat 64 (a + c * 2 ^ 32), BitVec.ofNat 64 n], src := BitVec.ofNat 64 own.core,
                         dst := c, vf := own.vf, launch := own.launch }
        done (.joinArrival c k) m [] [⟨2, c, (refusalOf c x 5).dst, .msg (refusalOf c x 5)⟩, ⟨2, c, own.core, .ack wid []⟩]))) ∧
  (∀ (c : Nat) (rest : List Turn) (s : State), s.agenda = .core c :: rest → threadReady ({ s with agenda := rest, cur := c }).cycled c = true →
    let u := ({ s with agenda := rest, cur := c }).cycled
    let q := (s.core c).queue
    let ready := (q.filter fun e => u.waiting issueCtx e.1 = none).map fun e => e.1
    step s = exec (if ((u.core c).q.ropq.head?.map RemoteOp.isArrive).getD false then .joinArrival c none else .remoteOpExecute c none)
      (u.modCore c fun k => k.passOver ready)) ∧
  (∀ q : Queues, q.joinq.length ≤ 8 →
    let r := q.feed
    r = { q with joinq := r.joinq, fires := r.fires } ∧ r.joinq ++ unfired r = q.joinq ++ unfired q ∧ r.joinq.length ≤ 8 ∧
      (unfired r ≠ [] → r.joinq.length = 8)) ∧
  (∀ (c : Nat) (r : Raise) (rest : List Raise) (s : State), s.isRunning c = true → (s.core c).q.raises = r :: rest →
    let w := syncWord (s.core c).spad r.addr
    raiseFits (s.core c) w r.n → (∀ f ∈ (s.core c).q.fires, f.thread = true) →
    ∃ t, exec (.syncWordRaise c) s = .next t ∧ (t.core c).q.raises = rest ∧
      firesInto (s.core c).q (t.core c).q (raisedMsgs w c r.n r.addr r.vf r.launch) ∧ t.net = s.net ∧
      onlySpad s t c (mwrite (s.core c).spad r.addr (leBytes 16 (raisedWord w r.n r.poison).nat)))

/-- What arrives in a mailbox, and what starts an activation (R154 to R158). That every message of type 240 or more without a bind
record passes to the host's event ring is the model's choice (L25): R159 says so for types 253 to 255. -/
def Obligations.MessagesAndActivations : Prop := messagesArrive ∧ activationsStart

end
/-! ## Memory nodes, caches, markers, jobs on their own turns -/

namespace Sys2Proof.Machine.Claims

/-- A memory node answers a granule: it is up and the granule is not poisoned (R198, R200). -/
def answersAt (s : State) (d pa : Nat) : Prop := s.memUp d = true ∧ s.poison.contains (granuleOf pa) = false

/-- Item k of the traffic is used up, and what is sent instead. -/
def exchanges (s t : State) (k : Nat) (sent : List Flight) : Prop := t.net = dropAt s.net k ++ sent

/-- Nothing of any core changes. -/
def keepsCores (s t : State) : Prop := t.cores = s.cores

end Sys2Proof.Machine.Claims

section
open Sys2Proof Sys2Proof.Machine Sys2Proof.Machine.Claims

/-- R185, R195 to R200, R219, R231: a memory node serves a read with the bytes of its granule, or with POISON or MNODE, and with the line
for the far-read cache where the die asked for it; a write with the bytes it stores, no other byte changed; an atomic with the old value;
each answer goes to the issuing core; a write is discarded while the node is down, and reported once for its store. A line passing a
cache fills it; a reply comes to the context that holds for it, or to its split-phase read; an acknowledgement ends its write; both wait
while their core is pre-empted (R266); a page walk fills the TLB. The node's own resets change whether it answers, its refresh and row
alerts only counters. -/
def Sys2Proof.Machine.Claims.memoryNodesServe : Prop :=
  (∀ (k ch src d pa n id piece : Nat) (own : Owner) (load cache : Bool) (s : State),
    s.flight k = some ⟨ch, src, memNode d, .read pa n own id piece load cache⟩ →
    let reply (p : Piece) (line : Option (Nat × Nat)) : Prop := ∃ t, exec (.memoryNodeRequest k) s = .next t ∧
      exchanges s t k [⟨2, memNode d, own.core, .reply id piece p load line [] 0⟩] ∧ t.hbm = s.hbm ∧ keepsCores s t
    (answersAt s d pa → reply (.data (mread s.hbm (cellOf pa) n))
      (if cache then some (granuleOf pa, mreadNat s.hbm (cellOf (pa / 64 * 64)) 64) else none)) ∧
    (s.memUp d = true → s.poison.contains (granuleOf pa) = true → reply (.bad 0x13) none) ∧
    (s.memUp d = false → reply (.bad 0x15) none)) ∧
  (∀ (k ch src d pa wid : Nat) (bs : List (Option Byte)) (w : WriteRec) (s : State),
    s.flight k = some ⟨ch, src, memNode d, .write pa bs wid⟩ → tlook s.writes wid = some w →
    let acked : Flight := ⟨2, memNode d, w.own.core, .ack wid (if homeDie pa = dieOf w.own.core then [] else [granuleOf pa])⟩
    (s.memUp d = false → ∃ t, exec (.memoryNodeRequest k) s = .next t ∧ keepsCores s t ∧ t.hbm = s.hbm ∧
      (w.told = true → exchanges s t k [acked]) ∧
      (w.told = false → exchanges s t k ((s.report w.own 0x15 0 w.own.addr true true).net.drop s.net.length ++ [acked]) ∧
        ∀ e ∈ t.writes, e.2.part = w.part → e.2.told = true)) ∧
    (answersAt s d pa → ∃ t, exec (.memoryNodeRequest k) s = .next t ∧ keepsCores s t ∧ exchanges s t k [acked] ∧
      ∀ a, Sys2Proof.Machine.mget t.hbm a = if cellOf pa ≤ a then (bs[a - cellOf pa]?.getD none).getD (Sys2Proof.Machine.mget s.hbm a)
        else Sys2Proof.Machine.mget s.hbm a)) ∧
  (∀ (k ch src d pa fn id piece wid : Nat) (x y : Word) (own : Owner) (s : State),
    s.flight k = some ⟨ch, src, memNode d, .amo pa fn x y own id piece wid⟩ → answersAt s d pa →
    let old : Word := BitVec.ofNat 64 (mreadNat s.hbm (cellOf pa) 8)
    ∃ t, exec (.memoryNodeRequest k) s = .next t ∧ keepsCores s t ∧
      exchanges s t k [⟨2, memNode d, own.core, .reply id piece (.data (mread s.hbm (cellOf pa) 8)) true none
        (if homeDie pa = dieOf own.core then [] else [granuleOf pa]) wid⟩] ∧
      t.hbm = (match amoNew fn old x y with
        | some v => mwrite s.hbm (cellOf pa) (leBytes 8 v.toNat)
        | none => s.hbm)) ∧
  (∀ (k ch src dst id piece wid : Nat) (p : Piece) (load : Bool) (e : Nat × Nat) (drop : List Nat) (s : State),
    nth s.net k = some ⟨ch, src, dst, .reply id piece p load (some e) drop wid⟩ →
    s.passesCache k ⟨ch, src, dst, .reply id piece p load (some e) drop wid⟩ = true →
    ∃ t, exec (.farReadFill k) s = .next t ∧ tlook (t.die (dieOf dst)).far e.1 = some e.2 ∧ t.hbm = s.hbm ∧ keepsCores s t ∧
      t.net = lset s.net k ⟨ch, src, dst, .reply id piece p load none drop wid⟩) ∧
  (∀ (k ch src dst id piece wid : Nat) (p : Piece) (load : Bool) (s : State),
    s.flight k = some ⟨ch, src, dst, .reply id piece p load none [] wid⟩ → s.away dst = false →
    (∀ w, tlook s.writes wid = some w → w.job = 0 ∧ w.raise = none) →
    ∃ t, exec (.readReplyArrival k) s = .next t ∧ exchanges s t k [] ∧ t.writes = tdel s.writes wid ∧ t.hbm = s.hbm ∧
      (load = true → ∀ c i h, (s.ctxAt c i).held = some h → h.id = id →
        (t.ctxAt c i).held = some { h with due := h.due - 1, got := tput h.got piece p }) ∧
      (load = false → ∀ r, tlook s.mgets id = some r →
        tlook t.mgets id = some { r with due := r.due - 1, got := tput r.got piece p })) ∧
  (∀ (k ch src dst wid : Nat) (drop : List Nat) (s : State), s.flight k = some ⟨ch, src, dst, .ack wid drop⟩ →
    (drop ≠ [] → s.passesCache k ⟨ch, src, dst, .ack wid drop⟩ = true) → s.away dst = false →
    (∀ w, tlook s.writes wid = some w → w.job = 0) →
    ∃ t, exec (.writeAcknowledgement k) s = .next t ∧ exchanges s t k [] ∧ t.writes = tdel s.writes wid ∧ keepsMemory s t ∧
      (∀ line ∈ drop, tlook (t.die (dieOf dst)).far line = none) ∧
      (∀ w c r, tlook s.writes wid = some w → w.raise = some (c, r) → s.isRunning c = true →
        (t.core c).q.raises = (s.core c).q.raises ++ [r]) ∧
      ((∀ w, tlook s.writes wid = some w → w.raise = none) → keepsCores s t)) ∧
  (∀ (k ch src dst wid : Nat) (own : Owner) (s : State), s.away dst = true →
    (∀ id piece p load drop, s.flight k = some ⟨ch, src, dst, .reply id piece p load none drop wid⟩ →
      exec (.readReplyArrival k) s = .next s) ∧
    (∀ drop, s.flight k = some ⟨ch, src, dst, .ack wid drop⟩ → exec (.writeAcknowledgement k) s = .next s) ∧
    (s.flight k = some ⟨ch, src, dst, .markerAck own none⟩ → exec (.markerAcknowledgement k) s = .next s)) ∧
  (∀ (die vf va lg : Nat) (pte : Word) (s : State), walk s vf va = .leaf pte lg →
    ∃ t, exec (.pageWalk die vf va) s = .next t ∧ (⟨vf, va / 2 ^ lg * 2 ^ lg, lg, pte⟩ : TlbEntry) ∈ (t.die die).tlb ∧
      t = s.setDie die { s.die die with tlb := (t.die die).tlb }) ∧
  (∀ (die : Nat) (s : State),
    let d := s.die die
    exec (.memoryNodeReset die) s = .next (s.setDie die { d with pw := { d.pw with memUp := false } }) ∧
    exec (.memoryNodeResetRelease die) s = .next (s.setDie die { d with pw := { d.pw with memUp := true } }) ∧
    exec (.rowActivationAlert die) s = .next (s.setDie die { d with tele := { d.tele with rowAlerts := d.tele.rowAlerts + 1 } }) ∧
    exec (.refreshPostponementDue die) s = .next (s.setDie die { d with tele := { d.tele with refreshes := d.tele.refreshes + 1 } }))

/-- R221 to R225, R234: a die keeps arriving markers in order and applies the oldest of a source once its clock has reached the marker's in
every entry but the source's and its own: the lines of its summary leave the far-read cache, the clock takes the marker's number, the
source gets an acknowledgement; a clock note sets the clock where no marker of its source waits; the release that waits for an
acknowledgement has one less to come; a barrier operation answers the context that still holds for that answer, and no other. -/
def Sys2Proof.Machine.Claims.markersApply : Prop :=
  (∀ (k ch src die : Nat) (m : Marker) (s : State), s.flight k = some ⟨ch, src, schedNode die, .marker m⟩ →
    ∃ t, exec (.markerArrival k) s = .next t ∧ exchanges s t k [] ∧ keepsCores s t ∧ t.hbm = s.hbm ∧
      t.die die = { s.die die with waiting := (s.die die).waiting ++ [.inl m] }) ∧
  (∀ (k ch src die from_ n : Nat) (s : State), s.flight k = some ⟨ch, src, schedNode die, .note from_ n⟩ →
    ∃ t, exec (.clockNoteArrival k) s = .next t ∧ exchanges s t k [] ∧ keepsCores s t ∧ t.hbm = s.hbm ∧
      ((∀ w ∈ (s.die die).waiting, waitSrc w ≠ from_) →
        t.die die = { s.die die with clock := tput (s.die die).clock from_ n }) ∧
      (∀ m, (s.die die).waiting.find? (fun w => waitSrc w == from_) = some (.inl m) →
        t.die die = { s.die die with waiting := (s.die die).waiting ++ [.inr (from_, n)] })) ∧
  (∀ (die src : Nat) (m : Marker) (s : State),
    (s.die die).waiting.find? (fun w => waitSrc w == src) = some (.inl m) →
    let reached := ∀ j, j < 16 → j ≠ m.src → j ≠ die → (nth m.clock j).getD 0 ≤ tget (s.die die).clock 0 j
    (reached → ∃ t, exec (.markerApply die src) s = .next t ∧ keepsCores s t ∧ t.hbm = s.hbm ∧
      (∀ e ∈ (t.die die).far, e ∈ (s.die die).far ∧ inSummary m.pages e.1 = false) ∧
      (∀ e ∈ (s.die die).far, inSummary m.pages e.1 = false → e ∈ (t.die die).far) ∧
      ((∀ w ∈ (s.die die).waiting, waitSrc w = src → w = .inl m) → tget (t.die die).clock 0 src = m.seq) ∧
      t.net.length = s.net.length + 1 ∧
      t.net[s.net.length]? = some ⟨2, schedNode die, if m.node.isSome then schedNode m.src else m.own.core,
        .markerAck m.own m.node⟩) ∧
    (¬ reached → ∃ t, exec (.markerApply die src) s = .next t ∧ t = s)) ∧
  (∀ (k ch src dst : Nat) (own : Owner) (s : State), s.flight k = some ⟨ch, src, dst, .markerAck own none⟩ → s.away dst = false →
    ∃ t, exec (.markerAcknowledgement k) s = .next t ∧ exchanges s t k [] ∧ keepsMemory s t ∧
      ∀ c i r, (s.ctxAt c i).status ≠ .free → (s.ctxAt c i).id.act = own.act → (s.ctxAt c i).rel = some r →
        (t.ctxAt c i).rel = some { r with due := r.due - 1 }) ∧
  (∀ (k ch src dst ref : Nat) (own : Owner) (n : Node) (s : State), s.flight k = some ⟨ch, src, dst, .markerAck own (some ref)⟩ →
    s.nodeAt ref = some n →
    ∃ t, exec (.markerAcknowledgement k) s = .next t ∧ exchanges s t k [] ∧ keepsCores s t ∧
      t.nodeAt ref = some { n with marks := n.marks.map fun m => m - 1 }) ∧
  (∀ (k ch src c : Nat) (b : BarOp) (s : State), s.flight k = some ⟨ch, src, c, .barrier b⟩ →
    let L := b.own.launch.getD 0 % 256
    let r := (s.core c).barrier b.n
    (s.die (dieOf c)).pw.state ≠ .hold → ∃ t, exec (.barrierArrival k) s = .next t ∧ exchanges s t k [] ∧ keepsMemory s t ∧
      (barApply b.fn 1 L b.val r = none → (t.core c).barriers = (s.core c).barriers) ∧
      (∀ r' v, barApply b.fn 1 L b.val r = some (r', v) → (t.core c).barriers = tput (s.core c).barriers b.n r'.word) ∧
      (∀ d i h, (s.ctxAt d i).status ≠ .free → (s.ctxAt d i).id.act = b.own.act → (s.ctxAt d i).held = some h →
        (h.id = b.id → (t.ctxAt d i).held = some { h with due := 0, got := [(0, match barApply b.fn 1 L b.val r with
          | some (_, v) => .data (leBytes 8 v.toNat)
          | none => .bad 0x18)] }) ∧
        (h.id ≠ b.id → t.ctxAt d i = s.ctxAt d i)))

/-- R207, R208, R210, R212, R214, R215: a copy job starts; a part of it waits for what earlier jobs of the die still have to do at its
blocks, then lands as the bytes of its source, at the offset of its row, and raises its sync word; with its last part, and every granule
at another die acknowledged, it leaves the table and its writes are over; a job
that meets a memory node which does not answer stops with ER in its sync words and a report. A refresh window of the weight store opens
every 1,000 ns and closes after 400; each 64-byte block of a weight-store job moves once its own hazards have cleared and the bank it is
read from is not being refreshed, and with the last of them the job leaves the table. -/
def Obligations.JobsLand : Prop :=
  (∀ (die n : Nat) (j : Job) (s : State), (s.die die).job n = some j → j.ws = false → j.started = false →
    ∃ t, exec (.copyJobStart die n) s = .next t ∧ keepsMemory s t ∧ t.net = s.net ∧
      (t.die die).jobs = (s.die die).jobs.map fun k => if k.id = j.id then { j with started := true } else k) ∧
  (∀ (die id n c a c' a' : Nat) (j : Job) (s : State), (s.die die).job id = some j → j.ws = false → j.started = true →
    j.deal = none → j.src = .spad c a → j.dst = .spad c' a' → 0 < n → 0 < j.rowlen → n ≤ j.rowlen - j.done % j.rowlen →
    j.done + n ≤ j.rowlen * j.rows → s.isRunning c' = true →
    let from_ := a + (j.done / j.rowlen * j.spitch + j.done % j.rowlen)
    let dest := a' + (j.done / j.rowlen * j.dpitch + j.done % j.rowlen)
    let block (core at_ : Nat) : Nat × Nat × Nat := (1 + core, at_ / 64, (at_ + n - 1) / 64)
    let busy := awaitsEarlier s die j [block c from_] [block c' dest]
    (busy = true → exec (.copyPartLanded die id n) s = .next s) ∧
    (busy = false → ∃ t, exec (.copyPartLanded die id n) s = .next t ∧ t.net = s.net ∧
      onlySpad s t c' (mwrite (s.core c').spad dest (mread (s.core c).spad from_ n)) ∧
      (∀ w x, j.sw = some (w, x) → s.isRunning w = true →
        (t.core w).q.raises = (s.core w).q.raises ++ [⟨x, n, false, j.own.launch, j.own.vf⟩]) ∧
      (j.done + n < j.rowlen * j.rows →
        (t.die die).jobs = (s.die die).jobs.map fun k => if k.id = j.id then { j with done := j.done + n } else k) ∧
      (j.done + n = j.rowlen * j.rows → (∀ w ∈ s.writes, w.2.job = j.wid → w.2.lines = []) →
        (t.die die).jobs = (s.die die).jobs.filter (fun k => k.id != j.id) ∧
        t.writes = s.writes.filter fun w => !(j.wid ≤ w.1 && w.1 < j.wid + 1)))) ∧
  (∀ (die id : Nat) (j : Job) (p : Word) (w : Bool) (s : State), (s.die die).job id = some j → j.ws = false → j.started = true →
    j.failAt s die = some (p, w) →
    ∃ t, exec (.copyJobMnodeStop die id) s = .next t ∧ t.hbm = s.hbm ∧
      (t.die die).jobs = (s.die die).jobs.filter (fun k => k.id != j.id) ∧ t.net = (s.report j.own 0x15 0 p true w).net ∧
      ∀ c x, j.sw = some (c, x) → j.deal = none → (syncWord (t.core c).spad x).er = true) ∧
  (∀ (die : Nat) (s : State),
    let d := s.die die
    (d.wsOpen = false → 15000 ≤ d.wsTime → exec (.wsRefreshWindowOpen die) s =
      .next (s.setDie die { d with wsOpen := true, wsSlot := (d.wsSlot + 1) % 64, wsTime := d.wsTime - 15000 })) ∧
    (d.wsOpen = true → 6000 ≤ d.wsTime → exec (.wsRefreshWindowClose die) s = .next (s.setDie die { d with wsOpen := false }))) ∧
  (∀ (die id o c a : Nat) (j : Job) (s : State), (s.die die).job id = some j → j.ws = true → j.sw = none → j.deal = none →
    let free (k : Nat) : Bool := !j.moved.contains k && !awaitsEarlier s die j (j.blockRead s die k) (j.blockWrite s die k)
    let all (ks : List Nat) : Bool := (List.range (j.rowlen * j.rows / 64)).all fun k => j.moved.contains k || ks.contains k
    let left (ks : List Nat) (t : State) : Prop :=
      (t.die die).jobs = if all ks then (s.die die).jobs.filter fun k => k.id != j.id
        else (s.die die).jobs.map fun k => if k.id = j.id then { j with moved := j.moved ++ ks } else k
    (j.src = .store o → j.dst = .spad c a → s.isRunning c = true →
      let refreshed (k : Nat) : Bool := (s.die die).wsOpen && (o + 64 * k) / 4096 % 64 == (s.die die).wsSlot % 64
      let ks := (List.range (j.rowlen * j.rows / 64)).filter fun k => free k && !refreshed k
      ∃ t, exec (.weightStoreLanding die id) s = .next t ∧ t.net = s.net ∧ left ks t ∧
        onlySpad s t c (ks.foldl (fun m k => mwrite m (a + 64 * k) (mread (s.die die).store (o + 64 * k) 64)) (s.core c).spad)) ∧
    (j.src = .spad c a → j.dst = .store o →
      let ks := (List.range (j.rowlen * j.rows / 64)).filter free
      ∃ t, exec (.weightStoreLanding die id) s = .next t ∧ t.net = s.net ∧ keepsMemory s t ∧ left ks t ∧
        (t.die die).store =
          ks.foldl (fun m k => mwrite m (o + 64 * k) (mread (s.core c).spad (a + 64 * k) 64)) (s.die die).store))

/-- What memory nodes do with requests and with markers (R195, R219, R224, R225). -/
def Obligations.MemoryNodeTurns : Prop := memoryNodesServe ∧ markersApply

end
/-! ## Launches, nodes and the host -/

namespace Sys2Proof.Machine.Claims

/-- What the boot ROM refuses in an image (R430, R431), its fields where the ROM's layout has them: a length that does not hold them, the
XMSS signature over all other bytes, the hash of the key, the version; none when it accepts it. Layout and order are the model's (L67). -/
def imageRefused (fw : Firmware) (img : List Byte) : Option Nat :=
  let L := fw.layout
  let field (o n : Nat) : List Byte := (img.drop o).take n
  if 2 ^ 26 < img.length ∨ img.length < L.version + 2 ∨ img.length < L.key + 68 ∨ img.length < L.sig + 2820 then some 4
  else if xmssVerifies (field L.key 68) (field L.sig 2820) (img.take L.sig ++ img.drop (L.sig + 2820)) = false then some 1
  else if shake256 (field L.key 68) ≠ fw.romKey then some 2
  else if leNat (field L.version 2) < fw.fused then some 3 else none

/-- The status message of a launch leaves for the event ring of its virtual function, on the reply channel (R146, R171). -/
def launchFlight (vf status node code : Nat) (w4 w5 : Word) (l : Nat) : Flight :=
  let words : List Word := [BitVec.ofNat 64 status, BitVec.ofNat 64 node, BitVec.ofNat 64 code, w4, w5, BitVec.ofNat 64 l]
  ⟨2, schedNode 0, hostNode, .msg { type := 253, words := words, vf := vf, launch := some l }⟩

/-- The device reads the oldest entry of a command ring (R433); an entry met with an empty ring has just been written (L69). -/
def commandRead (s u : State) (c : Command) : Prop :=
  let ring := tget s.host.commands [] c.vf
  (ring = [] ∧ u = s) ∨
  ∃ rest, ring = c :: rest ∧ u = { s with host := { s.host with commands := tput s.host.commands c.vf rest } }

/-- A launch's scratchpad data for one slice in a core's scratchpad (R65). -/
def sliceLoaded (o : Obj) (slice : Nat) (m : Memory) : Memory :=
  o.spads.foldl (fun m d => if d.2.1 = some slice then mwrite m d.1 d.2.2 else m) m

/-- The physical function's event ring shows one more event while it has room (R433). -/
def pfShows (s t : State) (e : PfEvent) : Prop := s.host.pf.length < s.host.pfCount → t.host.pf = s.host.pf ++ [e]

/-- A node may be placed on a core (R167): enough contexts there that no record reserves, and the sums of vector registers, scratchpad
and barriers of its nodes stay within the core's. -/
def nodeFits (s : State) (n : Node) (c : Nat) : Prop :=
  let sum (f : Node → Nat) : Nat := ((s.nodesOn c).map fun m => m.2).foldl (fun a m => a + f m) 0
  n.ctxs ≤ (unreserved s c).length ∧ sum Node.vregs + n.vregs ≤ 256 ∧ sum Node.spad + n.spad ≤ 786432 ∧
  sum Node.bars + n.bars ≤ 512

end Sys2Proof.Machine.Claims

section
open Sys2Proof Sys2Proof.Machine Sys2Proof.Machine.Claims

/-- R65, R167 to R173, R223: a launch that fails a check is rejected with its code; an accepted one has its nodes in the node SRAM of the
lowest die of its virtual function, each ready or pending by its predecessors, with its own payload words, or the launch message's at a
root, or zeros; a ready node is placed on a core with room, its lowest contexts reserved, on the core that runs its slice once that is
chosen (L12), which then holds the slice's scratchpad data; dispatch starts its entry there with its payload words; a completing node
waits for its context's writes, sends markers to the other dies of the virtual function, and is done when they are acknowledged: its
successors count down, and the last one completes the launch. -/
def Sys2Proof.Machine.Claims.launchesRun : Prop :=
  (∀ (vf obj l : Nat) (v : Vf) (words : Option (List Word)) (slices : List Nat) (u s : State), (s.die 0).pw.state = .run →
    s.fw.recovery = false → commandRead s u (.launch vf obj words) → tlook s.vfs vf = some v → freeLaunch s = some l →
    (tlook v.objs obj = none → ∃ t, exec (.launchRegistration vf obj words slices) s = .next t ∧
      t = u.post (launchFlight vf 1 0 9 0 0 l)) ∧
    (∀ o n code w4 w5, tlook v.objs obj = some o → launchFault s v o = some (n, code, w4, w5) →
      ∃ t, exec (.launchRegistration vf obj words slices) s = .next t ∧ t = u.post (launchFlight vf 1 n code w4 w5 l)) ∧
    (∀ o, tlook v.objs obj = some o → launchFault s v o = none → o.handlers = [] → o.nodes ≠ [] →
      let die := lowestDie v
      ∃ (t : State) (idx : List Nat), exec (.launchRegistration vf obj words slices) s = .next t ∧ idx.length = o.nodes.length ∧
        idx.Pairwise (fun i j => i < j) ∧ t.hbm = s.hbm ∧ t.net = s.net ++ [launchFlight vf 0 0 0 0 0 l] ∧ t.host = u.host ∧
        (∃ x, tlook t.launches l = some x ∧ x.vf = vf ∧ x.obj = obj ∧ x.status = 0 ∧ x.die = die ∧ x.nodes = idx ∧
          x.aborting = false ∧ ∀ k c, nth slices k = some c → inQuads v c = true → tlook x.cores k = some c) ∧
        (∀ i, i ∉ idx → tlook (t.die die).nodes i = tlook (s.die die).nodes i) ∧
        (∀ k bs i, nth o.nodes k = some bs → nth idx k = some i →
          let d := descOf bs
          let count := (o.edges.filter fun e => e.2 == k).length
          ∃ n, tlook (t.die die).nodes i = some n ∧ n.entry = d.entry ∧ n.slice = d.slice ∧ n.ctxs = d.ctxs ∧ n.vregs = d.vregs ∧
            n.spad = d.spad ∧ n.bars = d.bars ∧ n.vf = vf ∧ n.launch = some l ∧ n.count = count ∧
            n.state = (if count = 0 then .ready else .pending) ∧
            n.words = (if d.flags / 2 % 2 = 1 then d.words else if count = 0 then (words.getD o.words).take 6
              else List.replicate 6 0)))) ∧
  (∀ (die i c : Nat) (n : Node) (s : State), s.node die i = some n → n.state = .ready → s.stopsDispatch n.launch = false →
    (s.die die).pw.state = .run → inQuads (s.vf n.vf) c = true → nodeFits s n c →
    (∀ d, s.sliceCore n.launch n.slice = some d → d = c) →
    ∃ t, exec (.nodePlacement die i c) s = .next t ∧ t.hbm = s.hbm ∧ t.net = s.net ∧
      t.node die i = some { n with state := .bound, core := c, first := ((unreserved s c).head?).getD 0,
                                   lanes := (unreserved s c).take n.ctxs } ∧
      (n.launch = none ∨ s.sliceCore n.launch n.slice = some c → keepsCores s t) ∧
      (∀ l x o, n.launch = some l → tlook s.launches l = some x → tlook x.cores n.slice = none →
        tlook (s.vf x.vf).objs x.obj = some o → tlook t.launches l = some { x with cores := tput x.cores n.slice c } ∧
        (t.core c).spad = sliceLoaded o n.slice (s.core c).spad)) ∧
  (∀ (die i : Nat) (n : Node) (s : State), s.node die i = some n → n.state = .bound → s.stopsDispatch n.launch = false →
    (s.die die).pw.state = .run → s.isRunning n.core = true → (s.core n.core).preempted = false →
    (s.ctxAt n.core n.first).status = .free → s.poolUsed n.core ≤ 256 →
    let ref := die * 65536 + i
    ∃ t, exec (.nodeDispatch die i) s = .next t ∧ keepsMemory s t ∧ t.net = s.net ∧
      t.node die i = some { n with state := .running } ∧
      startsWith (t.ctxAt n.core n.first) { words := n.words, src := BitVec.ofNat 64 (0x800 + die * 256), dst := n.core, vf := n.vf,
                                            launch := n.launch } n.entry (min n.vregs 48) n.slice (some ref) (some ref)) ∧
  (∀ (die i : Nat) (o : Owner) (n : Node) (s : State), s.node die i = some n → n.completing = some o →
    (s.die die).pw.state ≠ .hold →
    let named := markerDies (s.vf o.vf) (dieOf o.core) (dieMask (s.vf n.vf))
    (n.marks = none → s.unacked o (fun _ => true) = true → ∃ t, exec (.nodeCompletion die i) s = .next t ∧ t = s) ∧
    (n.marks = none → s.unacked o (fun _ => true) = false → named ≠ [] → ∃ t, exec (.nodeCompletion die i) s = .next t ∧
      keepsCores s t ∧ t.node die i = some { n with marks := some named.length } ∧
      ∀ d ∈ named, ∃ f ∈ t.net, f.dst = schedNode d ∧
        ∃ m, f.body = .marker m ∧ m.node = some (die * 65536 + i) ∧ m.pages = n.pages ∧ m.src = dieOf o.core) ∧
    (n.marks = some 0 → n.launch = none → n.succs.Nodup → die * 65536 + i ∉ n.succs →
      ∃ t, exec (.nodeCompletion die i) s = .next t ∧ keepsCores s t ∧
        t.node die i = some { n with state := .done, completing := none, marks := none } ∧
        ∀ r ∈ n.succs, ∀ m, s.nodeAt r = some m → t.nodeAt r = some { m with
          count := m.count - 1, state := if m.state = .pending ∧ m.count ≤ 1 then .ready else m.state }) ∧
    (∀ l x, n.marks = some 0 → n.launch = some l → n.succs = [] → tlook s.launches l = some x → x.status = 0 →
      x.aborting = false → x.broken = false →
      (∀ e ∈ (s.modNode die i fun n => { n with state := .done, completing := none, marks := none }).nodesOf l, e.2.state = .done) →
      ∃ t, exec (.nodeCompletion die i) s = .next t ∧ tlook t.launches l = some { x with status := 2 } ∧
        (∀ m, t.node die i = some m → m.launch ≠ some l) ∧ keepsMemory s t ∧
        t.net = s.net ++ [launchFlight x.vf 2 0 0 0 0 l]))

/-- R11, R15, R76, R158, R263, R399, R426, R431 to R434, R437 to R439: the host sends messages to cores of a virtual function over its
command ring, creates virtual functions on quads that are free, with tables of the sizes of R399, writes registers of the physical
function, loads and unloads objects, replaces pointer keys, and resumes or aborts parked activations of a virtual function under
debugging; in recovery no virtual function is enumerated; a quote commits one signature index, gives it first in its signature, and goes
to the event ring. -/
def Sys2Proof.Machine.Claims.hostActs : Prop :=
  (∀ (m : HostMsg) (v : Vf) (u s : State), commandRead s u (.msg m) → s.fw.recovery = false → tlook s.vfs m.vf = some v → m.type < 240 →
    m.tag < 2 ^ 24 → m.words.length ≤ 6 → inQuads v m.core = true → exec (.hostMessage m) s = .next (u.post ⟨0, hostNode, m.core, .msg
      { type := m.type, tag := m.tag, words := m.words, vec := m.vec, src := 0x10000, dst := m.core, vf := m.vf }⟩)) ∧
  (∀ (c : Command) (rest : List Turn) (v : Vf) (s : State), s.agenda = .hostCommand c :: rest → s.fw.recovery = false →
    tlook s.vfs c.vf = some v →
    let h := s.host
    let ring := tget h.commands [] c.vf
    let room := ring.length < tget h.commandCounts 64 c.vf
    (room → step s = .next { s with agenda := rest, host := { h with commands := tput h.commands c.vf (ring ++ [c]) } }) ∧
    (¬ room → step s = .next { s with agenda := rest })) ∧
  (∀ (v : VfSpec) (s : State), s.fw.recovery = false → v.vf < 384 → tlook s.vfs v.vf = none → v.quads ≠ [] → (∀ q ∈ v.quads, q < 512) →
    (∀ q ∈ v.quads, ∀ w ∈ s.vfs, q ∉ w.2.quads) → (∀ e ∈ v.peers, e.1 < 1024) →
    (∀ e ∈ v.paths, e.1 < 8 ∧ e.2.port < 16 ∧ e.2.entropy < 65536) → (∀ e ∈ v.windows, e.1 < 256) →
    let x : Vf :=
      { quads := v.quads, root := v.root, key := v.key, ws := v.ws, peers := v.peers, paths := v.paths, windows := v.windows }
    exec (.vfCreate v) s = .next { s with vfs := tput s.vfs v.vf x }) ∧
  (∀ (m : HostMsg) (v : VfSpec) (vf : Nat) (key : BitVec 128) (s : State), s.fw.recovery = true →
    exec (.vfCreate v) s = .next s ∧ exec (.hostMessage m) s = .next s ∧ exec (.pointerKeyReplace vf key) s = .next s) ∧
  (∀ (vf v ring n : Nat) (f : Vf) (s : State), s.fw.recovery = false → tlook s.vfs vf = some f →
    let h := s.host
    exec (.registerWrite (.traceEnable vf) v) s = .next { s with vfs := tput s.vfs vf { f with trace := decide (v % 2 = 1) } } ∧
    exec (.registerWrite (.debugEnable vf) v) s = .next { s with vfs := tput s.vfs vf { f with debug := decide (v % 2 = 1) } } ∧
    (∀ r, r < 4 → exec (.registerWrite (.ringBase vf r) v) s =
      .next { s with host := { h with bases := tput h.bases (vf * 8 + r) v } }) ∧
    exec (.registerWrite (.ringBase vf 4) v) s = .next { s with host := { h with bases := tput h.bases 4 v } } ∧
    (4 < ring → exec (.registerWrite (.ringBase vf ring) v) s = .next s) ∧
    exec (.registerWrite (.other n) v) s = .next { s with host := { h with regs := tput h.regs n v } } ∧
    (∀ k, k < 11 → v = 64 * 2 ^ k →
      let r := tget h.replies {} vf
      let e := tget h.events {} vf
      let sets (ring : Nat) (g : HostSide) : Prop := exec (.registerWrite (.ringCount vf ring) v) s = .next { s with host := g }
      sets 0 { h with commandCounts := tput h.commandCounts vf v } ∧ sets 3 { h with traceCounts := tput h.traceCounts vf v } ∧
      (h.heldEntries = [] → h.pfHeld = [] →
        sets 1 { h with replies := tput h.replies vf { r with count := v } } ∧
        sets 2 { h with events := tput h.events vf { e with count := v } } ∧ sets 4 { h with pfCount := v }) ∧
      (∀ m, h.heldEntries = [(vf, true, m)] → h.pfHeld = [] → e.entries.length < v →
        sets 2 { h with heldEntries := [], events := tput h.events vf { e with count := v, entries := e.entries ++ [m] } }))) ∧
  (∀ (v : BitVec 16) (s : State), exec (.portModeWrite v) s = .next { s with fw := { s.fw with portMode := v } }) ∧
  (∀ (vf : Nat) (key : BitVec 128) (v : Vf) (s : State), s.fw.recovery = false → tlook s.vfs vf = some v →
    exec (.pointerKeyReplace vf key) s = .next { s with vfs := tput s.vfs vf { v with key := key, retired := [] } }) ∧
  (∀ (vf obj : Nat) (o : Obj) (v : Vf) (s : State), s.fw.recovery = false → tlook s.vfs vf = some v → tlook v.objs obj = some o →
    ∃ (t : State) (w : Vf), exec (.objectUnload vf obj) s = .next t ∧ t = { s with vfs := tput s.vfs vf w } ∧
      tlook w.objs obj = none ∧ (∀ k, k ∈ o.slots → tlook w.segs k = none ∧ k ∈ w.retired) ∧
      (∀ k, k ∉ o.slots → tlook w.segs k = tlook v.segs k) ∧ w.key = v.key ∧ w.quads = v.quads) ∧
  (∀ (vf name : Nat) (img : List Byte) (place : List SegPlace) (v : Vf) (s u : State), s.fw.recovery = false →
    tlook s.vfs vf = some v → tlook v.objs name = none → objectOk img = true → placeOk v img place = true →
    writeSegments s vf img place v.key (sectsOfKinds img [1, 3, 4, 8]) = some u →
    ∃ (t : State) (w : Vf), exec (.objectLoad vf img name place) s = .next t ∧ t.hbm = u.hbm ∧ tlook t.vfs vf = some w ∧
      tlook w.objs name = some (buildObj img place v.key) ∧ keepsCores u t ∧ t.net = u.net ∧ w.key = v.key ∧
      ∀ k, (∀ e ∈ segmentsOf img place, e.1 ≠ k) → tlook w.segs k = tlook v.segs k) ∧
  (∀ (vf c i num : Nat) (ref : Word) (abort : Bool) (x : Ctx) (s : State), parkNamed ref num →
    s.findPark c num = some (.ctx i, x) → x.id.vf = vf → (s.vf vf).debug = true → s.fw.recovery = false →
    ∃ t, exec (.hostDebugCommand vf c ref abort) s = .next t ∧ keepsMemory s t ∧ pfShows s t (.debugStatus 0) ∧
      (abort = true → t.ctxAt c i = {} ∧ (x.id.launch = none → t.net = s.net)) ∧
      (abort = false → t.net = s.net ∧ let y := s.ctxAt c i
        { t.ctxAt c i with dups := [] } =
          { ({ y with park := { y.park with resumes := y.park.resumes + 1 } }).tinkBack with status := .running, dups := [] })) ∧
  (∀ (vf c num : Nat) (ref : Word) (abort : Bool) (s : State), parkNamed ref num →
    (∀ p x, s.findPark c num = some (p, x) → x.id.vf ≠ vf ∨ (s.vf vf).debug = false ∨ s.fw.recovery = true) →
    exec (.hostDebugCommand vf c ref abort) s = .next (s.pfEvent (.debugStatus 1))) ∧
  (∀ (who : Nat) (nonce : BitVec 256) (img : List Byte) (s : State), s.fw.image = some img → (s.die 0).pw.level ≠ 0 →
    (s.die 0).pw.state = .run → (who = 0xFFFF ∨ s.fw.recovery = false ∧ (tlook s.vfs who).isSome = true) →
    (s.fw.attest < 2 ^ 40 → ∃ (t : State) (sig : List Byte), exec (.attestationQuote who nonce) s = .next t ∧ sig.length = 9893 ∧
      sig.take 5 = leBytes 5 s.fw.attest ∧ t.fw = { s.fw with attest := s.fw.attest + 1 } ∧ keepsCores s t ∧
      pfShows s t (.quote ([0x4B, 0x51, 0x54, 0x31] ++ leBytes 32 nonce.toNat ++ leBytes 32 (shake256 img).toNat ++
        leBytes 2 (leNat ((img.drop s.fw.layout.version).take 2)) ++ leBytes 2 s.fw.fused ++ leBytes 2 (s.fw.pkg % 1024) ++ leBytes 2 who ++
        ((List.range 8).map fun d => BitVec.ofNat 8 (s.die d).pw.level) ++ [if s.fw.recovered then 1 else 0, 0, 0, 0] ++
        leBytes 8 s.fw.attest ++ sig))) ∧
    (2 ^ 40 ≤ s.fw.attest → exec (.attestationQuote who nonce) s = .next (s.pfEvent (.quoteRefused 2))))

/-- Launches and their nodes, and what the host does (R167 to R171, R432 to R434). -/
def Obligations.HostAndLaunches : Prop := launchesRun ∧ hostActs

end
/-! ## Start, power, resets -/

namespace Sys2Proof.Machine.Claims

/-- The power part of a die is now p, nothing else of the machine has changed. -/
def onlyPower (s t : State) (die : Nat) (p : DiePower) : Prop := t = s.setDie die { s.die die with pw := p }

/-- The same with an event for the host (R433). -/
def powerAnd (s t : State) (die : Nat) (p : DiePower) (e : PfEvent) : Prop :=
  t = (s.setDie die { s.die die with pw := p }).pfEvent e

/-- The other port of the same die. -/
def otherPort (p : Nat) : Nat := if p % 2 = 0 then p + 1 else p - 1

/-- A port has trained or has failed to. -/
def portSettled (q : Port) : Prop := q.trained = true ∨ q.failed = true

/-- No core of a die runs an activation or holds anything but what KEEP keeps; with KEEP its scratchpads and complexes are as before. -/
def coresShut (s t : State) (die : Nat) (keep : Bool) : Prop :=
  ∀ c, dieOf c = die → (t.core c).ctxs = [] ∧ (t.core c).savedParks = [] ∧ (t.core c).savedCtxs = [] ∧ (t.core c).q = {} ∧
    (t.core c).fifos = [] ∧ (keep = true → (t.core c).spad = (s.core c).spad ∧ (t.core c).slots = (s.core c).slots) ∧
    (keep = false → (t.core c).spad = [] ∧ (t.core c).slots = [])

end Sys2Proof.Machine.Claims

section
open Sys2Proof Sys2Proof.Machine Sys2Proof.Machine.Claims

/-- R425, R426, R429 to R431: the package carries one image, that of its first power-good (L67); with an image that the boot ROM accepts a
die starts at level 1, its ports of the kinds in the port-mode register; a refused image enters recovery with its reason in the status
register, the host writes the window that recovery shows, and the recovery doorbell starts the waiting dies with an accepted image, and
later ones start with it too. That recovery is the package's, which dies wait, and
that they start with the image of the doorbell are the model's reading (L30). A trained stack brings level 2, one that does not train in
time has failed; calibrated matrix units and two ports that have trained or failed bring level 3. -/
def Sys2Proof.Machine.Claims.stagedStart : Prop :=
  (∀ (die : Nat) (named img : List Byte) (s : State), die < 8 → (s.die die).pw.level = 0 → (s.die die).pw.state = .run →
    die ∉ s.fw.waiting → img = s.fw.stored.getD named →
    (s.fw.recovery = false → s.fw.recovered = true → ∃ t, exec (.powerGood die named) s = .next t ∧ keepsCores s t ∧ t.fw = s.fw ∧
      (t.die die).pw.level = 1 ∧ pfShows s t (.level die 1)) ∧
    (s.fw.recovery = false → s.fw.recovered = false → imageRefused s.fw img = none → ∃ t, exec (.powerGood die named) s = .next t ∧ keepsCores s t ∧
      t.fw.image = some img ∧ t.fw.stored = some img ∧ (t.die die).pw.level = 1 ∧ (t.die die).pw.memUp = true ∧
      pfShows s t (.level die 1) ∧
      (∀ p, p / 2 = die → t.portAt p = { ue := decide (s.fw.portMode.toNat / 2 ^ p % 2 = 1) })) ∧
    (∀ r, s.fw.recovery = false → s.fw.recovered = false → imageRefused s.fw img = some r → ∃ t, exec (.powerGood die named) s = .next t ∧
      t.dies = s.dies ∧ t.fw.recovery = true ∧ t.fw.status = r ∧ t.fw.stored = some img ∧ die ∈ t.fw.waiting ∧
      pfShows s t (.recovery r)) ∧
    (s.fw.recovery = true → ∃ t, exec (.powerGood die named) s = .next t ∧ t.dies = s.dies ∧ die ∈ t.fw.waiting)) ∧
  (∀ (n : Nat) (s : State), s.fw.recovery = true →
    let img := mread s.fw.window 0 n
    let refuses (r : Nat) : Prop :=
      exec (.recoveryDoorbell n) s = .next ({ s with fw := { s.fw with status := r } }.pfEvent (.recovery r))
    (n ≤ 2 ^ 26 → imageRefused s.fw img = none → ∃ t, exec (.recoveryDoorbell n) s = .next t ∧
      t.fw = { s.fw with status := 0, image := some img, recovered := true, recovery := false, waiting := [] } ∧
      ∀ d ∈ s.fw.waiting, (t.die d).pw.level = 1) ∧
    (∀ r, n ≤ 2 ^ 26 → imageRefused s.fw img = some r → refuses r) ∧ (2 ^ 26 < n → refuses 4)) ∧
  (∀ (off : Nat) (bs : List Byte) (rest : List Turn) (s : State), s.agenda = .windowWrite off bs :: rest →
    (s.fw.recovery = true → off + bs.length ≤ 2 ^ 26 →
      step s = .next { s with agenda := rest, fw := { s.fw with window := mwrite s.fw.window off bs } }) ∧
    (s.fw.recovery = false ∨ 2 ^ 26 < off + bs.length → step s = .next { s with agenda := rest })) ∧
  (∀ (die : Nat) (s : State),
    let p := (s.die die).pw
    p.level = 1 → p.state = .run → p.stackFailed = false →
    (∃ t, exec (.stackTrained die) s = .next t ∧ powerAnd s t die { p with level := 2, trained := true } (.level die 2)) ∧
    (∃ t, exec (.stackTrainTimeout die) s = .next t ∧
      powerAnd s t die { p with stackFailed := true, trained := false } (.stackFailed die))) ∧
  (∀ (die : Nat) (s : State),
    let p := (s.die die).pw
    let both := portSettled (s.portAt (2 * die)) ∧ portSettled (s.portAt (2 * die + 1))
    p.level = 2 → p.state = .run → ∃ t, exec (.matrixCalibrated die) s = .next t ∧ keepsCores s t ∧
      (t.die die).pw.calibrated = true ∧ (both → (t.die die).pw.level = 3) ∧ (¬ both → (t.die die).pw.level = 2)) ∧
  (∀ (port : Nat) (ok : Bool) (s : State),
    let p := (s.die (port / 2)).pw
    let up := p.calibrated = true ∧ portSettled (s.portAt (otherPort port))
    port < 16 → p.level = 2 → p.state = .run → ¬ portSettled (s.portAt port) →
    ∃ t, exec (.portTrainingDone port ok) s = .next t ∧ keepsCores s t ∧
      (ok = true → t.portAt port = { ue := (s.portAt port).ue, trained := true,
                                     credits := (List.range 3).map (Config.advertised port) }) ∧
      (ok = false → t.portAt port = { s.portAt port with failed := true }) ∧
      (up → (t.die (port / 2)).pw.level = 3) ∧ (¬ up → (t.die (port / 2)).pw.level = 2))

/-- R435, R436: a power command begins a transition from a state it may start from, and is answered busy otherwise and while another is
under way; the drain is over when nothing that the die's cores issued is outstanding; HOLD keeps all, and cores, units and scheduler
stand still in it; KEEP keeps scratchpads and
complexes; OFF keeps nothing of the die, its stack included; RUN sets the clock, and starts a die that was in KEEP or OFF from level 1;
a thermal trip shuts the die off and aborts the launches with a node on it; a warning or an alert only reports. -/
def Sys2Proof.Machine.Claims.powerStates : Prop :=
  (∀ (die : Nat) (clk : Clock) (s : State),
    let p := (s.die die).pw
    let asks (i : Instr) (ok : Prop) (goal : Power) (clk : Clock) : Prop :=
      (p.trans = none → ok → ∃ t, exec i s = .next t ∧
        onlyPower s t die { p with trans := some ⟨goal, clk, decide (goal = .run)⟩, stopped := p.stopped || decide (goal ≠ .run) }) ∧
      (p.trans ≠ none ∨ ¬ ok → exec i s = .next (s.pfEvent (.busy die)))
    asks (.runClockCommand die clk) True .run clk ∧ asks (.holdCommand die) (p.state = .run) .hold p.clk ∧
    asks (.keepCommand die) (p.state = .run ∧ s.nodesBusy die = false) .keep p.clk ∧
    asks (.offCommand die) (p.state ≠ .off) .off p.clk ∧
    (∀ b, ∃ t, exec (.stackSelfRefreshCommand die b) s = .next t ∧ onlyPower s t die { p with selfRefresh := b })) ∧
  (∀ (die : Nat) (tr : Transition) (s : State),
    let p := (s.die die).pw
    p.trans = some tr →
    (tr.drained = false → s.drained die = true →
      ∃ t, exec (.dieDrainDone die) s = .next t ∧ onlyPower s t die { p with trans := some { tr with drained := true } }) ∧
    (tr.drained = false → s.drained die = false → exec (.dieDrainDone die) s = .next s) ∧
    (tr.drained = false → exec (.powerTransitionDone die) s = .next s) ∧
    (tr.drained = true → tr.goal = .hold → ∃ t, exec (.powerTransitionDone die) s = .next t ∧
      onlyPower s t die { p with state := .hold, trans := none }) ∧
    (tr.drained = true → tr.goal = .run → (p.state = .run ∨ p.state = .hold) → ∃ t, exec (.powerTransitionDone die) s = .next t ∧
      onlyPower s t die { p with state := .run, clk := tr.clk, trans := none, stopped := false }) ∧
    (tr.drained = true → tr.goal = .run → (p.state = .keep ∨ p.state = .off) → s.fw.image ≠ none →
      ∃ t, exec (.powerTransitionDone die) s = .next t ∧ (t.die die).pw.level = 1 ∧ (t.die die).pw.state = .run ∧
        (t.die die).pw.clk = tr.clk ∧ keepsCores s t) ∧
    (tr.drained = true → tr.goal = .keep → ∃ t, exec (.powerTransitionDone die) s = .next t ∧ (t.die die).pw.state = .keep ∧
      (t.die die).pw.level = 0 ∧ (t.die die).pw.trans = none ∧ coresShut s t die true ∧ t.hbm = s.hbm) ∧
    (tr.drained = true → tr.goal = .off → ∃ t, exec (.powerTransitionDone die) s = .next t ∧ (t.die die).pw.state = .off ∧
      (t.die die).pw.level = 0 ∧ (t.die die).pw.trans = none ∧ coresShut s t die false ∧
      ∀ a, Sys2Proof.Machine.mget t.hbm a = if a / 2 ^ 36 = die then Config.blankByte else Sys2Proof.Machine.mget s.hbm a)) ∧
  (∀ (die i c o : Nat) (s : State), (s.die die).pw.state = .hold →
    exec (.nodePlacement die i c) s = .next s ∧ exec (.nodeCompletion die i) s = .next s ∧
    (o / 32 = die → exec (.countEngineStep o) s = .next s ∧ exec (.serviceEngineStep o) s = .next s) ∧
    (dieOf c = die → exec (.seamSend c) s = .next s ∧ exec (.seamArrivalResend c) s = .next s ∧ exec (.activationStart c) s = .next s ∧
      exec (.systemHandler c) s = .next s ∧ exec (.remoteOpExecute c none) s = .next s)) ∧
  (∀ (die : Nat) (s : State), exec (.thermalWarning die) s = .next (s.pfEvent (.thermal die 0)) ∧
    exec (.thermalAlert die) s = .next (s.pfEvent (.thermal die 1)) ∧
    ∃ t, exec (.thermalTrip die) s = .next t ∧ (t.die die).pw.state = .off ∧ (t.die die).pw.level = 0 ∧ coresShut s t die false ∧
      ∀ l x, tlook s.launches l = some x → x.status = 0 →
        (∃ d ∈ s.dies, ∃ n ∈ d.2.nodes, n.2.launch = some l ∧
          (d.1 = die ∨ n.2.state ≠ .pending ∧ n.2.state ≠ .ready ∧ dieOf n.2.core = die)) →
        ∃ z, tlook t.launches l = some z ∧ z.aborting = true)

/-- R103, R124, R153, R224, R258, R274, R426, R438: a core reset leaves a core at its reset values, held until its release; package reset
and loss of power leave the package as after reset but for what is non-volatile; the host's memory outlives both. -/
def Obligations.Resets : Prop :=
  (∀ (c : Nat) (s : State), c < 2048 → ∃ t, exec (.coreReset c) s = .next t ∧ t.core c = { inReset := true } ∧ t.hbm = s.hbm ∧
    (∀ d, d ≠ c → (t.core d).spad = (s.core d).spad ∧ (t.core d).ctxs = (s.core d).ctxs) ∧ t.memberAt c = {}) ∧
  (∀ (c : Nat) (s : State), exec (.coreResetRelease c) s = .next (s.setCore c { s.core c with inReset := false })) ∧
  (∀ s : State,
    let f : Firmware := { portMode := s.fw.portMode, pkg := s.fw.pkg, romKey := s.fw.romKey, fused := s.fw.fused, layout := s.fw.layout,
                          stored := s.fw.stored, attest := s.fw.attest }
    (∃ t, exec .packageReset s = .next t ∧ t.cores = [] ∧ t.dies = [] ∧ t.octets = [] ∧ t.hbm = [] ∧ t.poison = [] ∧ t.vfs = [] ∧
      t.launches = [] ∧ t.net = [] ∧ t.writes = [] ∧ t.reads = [] ∧ t.mgets = [] ∧ t.fw = f ∧ t.host = s.host) ∧
    (∃ t, exec .powerLoss s = .next t ∧ t.cores = [] ∧ t.dies = [] ∧ t.octets = [] ∧ t.hbm = [] ∧ t.poison = [] ∧ t.vfs = [] ∧
      t.launches = [] ∧ t.net = [] ∧ t.writes = [] ∧ t.reads = [] ∧ t.mgets = [] ∧ t.fw = f ∧ t.host.heldEntries = [] ∧ t.host.pfHeld = [] ∧
      t.host.traces = s.host.traces ∧ ∀ vf, (tget t.host.events {} vf).entries = (tget s.host.events {} vf).entries ∧
        (tget t.host.replies {} vf).entries = (tget s.host.replies {} vf).entries))

/-- The staged start of the package and the power states of its dies (R425 to R431, R435, R436). -/
def Obligations.StartAndPower : Prop := stagedStart ∧ powerStates

end
/-! ## The fabric's events -/

namespace Sys2Proof.Machine.Claims

/-- The target side of a packet's flow, which is the package's whatever port a packet comes by (R402, R409). -/
def targetOf (s : State) (p : FabPacket) : TargetFlow := tget s.targets {} (pktKey p)

/-- A packet is what it says it is (R419): on UE its tag verifies under the association of a peer entry of its package, or neither has one. -/
def verifies (s : State) (p : FabPacket) : Prop :=
  (s.portAt p.port).ue = true →
    (∃ e ∈ (s.vf p.vf).peers, e.2.ue = true ∧ e.2.pkg = p.pkg ∧ e.2.sa = p.sa) ∨
    (p.sa = none ∧ ∀ e ∈ (s.vf p.vf).peers, ¬ (e.2.ue = true ∧ e.2.pkg = p.pkg))

/-- A packet that verifies and has not come before, of a flow and number that the wire can carry. -/
def newPacket (s : State) (p : FabPacket) : Prop :=
  let t := targetOf s p
  p.port < 16 ∧ p.flow < 2 ^ 20 ∧ p.seq < 2 ^ 32 ∧ verifies s p ∧ t.base ≤ p.seq ∧ p.seq ∉ t.done ∧ (∀ b ∈ t.busy, b.1 ≠ p.seq) ∧
  (∀ q ∈ t.flagged, q.seq ≠ p.seq) ∧ (∀ q ∈ t.waiting, q.seq ≠ p.seq)

/-- The forwarded-request slot of a packet's die is free, or the packet needs none (R147). -/
def slotFor (s : State) (p : FabPacket) : Prop :=
  passedOn s p = none ∨ ∀ f ∈ s.net, f.chan = 1 → f.src ≠ fabNode p.die

/-- The fabric unit of a port's die has given one more answer (R408, R413), over a Lace link on the reply channel of the port in flits of
up to 192 bytes of data each (R415). -/
def answersBy (s t : State) (port pkg flow seq detail : Nat) (data : List Byte) : Prop :=
  (t.die (port / 2)).answers = (s.die (port / 2)).answers ++ [⟨pkg, flow, seq, detail, data⟩] ∧
  ((s.portAt port).ue = false →
    t.portAt port = (s.portAt port).send (answerOps flow seq detail (data.length / 192 + 1) data))

/-- An answer to a packet. -/
def hasAnswered (s t : State) (p : FabPacket) (detail : Nat) (data : List Byte) : Prop :=
  answersBy s t p.port p.pkg p.flow p.seq detail data

/-- The same with nothing else done. -/
def answered (s t : State) (p : FabPacket) (detail : Nat) (data : List Byte) : Prop :=
  hasAnswered s t p detail data ∧ t.net = s.net ∧ ∀ c, (t.core c).spad = (s.core c).spad

/-- Where the range ends that the window must hold: the whole operation of a put or get (R405), a raise's word, an atomic's. -/
def wholeEnd (p : FabPacket) : Nat :=
  match p.op with
  | .put _ => p.base + p.len
  | .get _ => p.base + p.len
  | .putSw _ => p.off + 16
  | .amo _ _ _ => p.off + 8

/-- A packet is passed to the home that its window names (R399, R405, R406, R409, R413): refused with detail 1 where no window holds the
range of its operation with its permission; with detail 6 at a core that is not running; at a running core through its remote-op queue, by
the forwarded-request channel (R146); in HBM at once, the model's reading (L53). `u` is the state in which the packet counts as under way. -/
def passedHome (s u t : State) (p : FabPacket) : Prop :=
  let tok := p.seq + 2 ^ 32 * pktKey p
  let e := wholeEnd p
  match (s.vf p.vf).windows.find? fun w => w.1 == p.win with
  | none => answered s t p 1 []
  | some (_, w) =>
    (w.length < e ∨ winAllows w p.op = false → answered s t p 1 []) ∧
    (e ≤ w.length → winAllows w p.op = true →
      (∀ c o, w.home = .spad c o →
        (s.isRunning c = false → answered s t p 6 []) ∧
        (s.isRunning c = true → 786432 < o + e → answered s t p 1 []) ∧
        (s.isRunning c = true → o + e ≤ 786432 →
          (∀ op, (∃ bs, p.op = .put bs ∧ op = .fabPut (o + p.off) bs tok) ∨ (∃ m, p.op = .putSw m ∧ op = .fabRaise (o + p.off) m p.vf tok) ∨
              (∃ f x y, p.op = .amo f x y ∧ op = .fabAmo f (o + p.off) x y tok) ∨ (∃ m, p.op = .get m ∧ op = .fabGet (o + p.off) m tok) →
            t.net = s.net ++ [⟨1, fabNode p.die, c, .remote op⟩] ∧ keepsMemory s t))) ∧
      (∀ base, w.home = .hbm base →
        (∀ n, p.op = .putSw n → answered s t p 1 []) ∧
        (∀ d, targetHbm u p (base + p.off) = .error d → answered s t p d []) ∧
        (∀ v bs, targetHbm u p (base + p.off) = .ok (v, bs) → t.hbm = v.hbm ∧ hasAnswered s t p 0 bs)))

/-- The package knows the opening of a flow that a packet belongs to; the contexts of earlier openings of that flow have ended (R402,
R403), the model's reading (L53). -/
def opened (s : State) (p : FabPacket) (target : TargetFlow) : State :=
  let kept := s.targets.filter fun e => e.1 / 2 ^ 32 != pktKey p / 2 ^ 32 || e.1 == pktKey p
  { s with targets := tput kept (pktKey p) target }

/-- The packet counts as under way, with the port it came by. -/
def underWay (s : State) (p : FabPacket) : State :=
  { s with targets := tmod s.targets {} (pktKey p) fun t => { t with busy := t.busy ++ [(p.seq, p.port)] } }

/-- A flow after a packet has left it; an operation without packets is over (R408). -/
def packetGone (f : Flow) (k : FabPkt) (ok : Bool) : Flow :=
  let left (o : FabOpRec) : FabOpRec := { o with pkts := o.pkts.filter fun j => j.num != k.num }
  let acked := if ok then tput f.acked k.path ((tget f.acked 0 k.path + 1) % 2 ^ 32) else f.acked
  { f with acked := acked, ops := (f.ops.map left).filter fun o => !o.pkts.isEmpty }

/-- The bytes of an answer have landed at the core that owns the flow, its sync word is raised where the flow names one, and the packet has
left the flow (R406, R407). -/
def fabricLands (s t : State) (a : FabAck) (f : Flow) (o : FabOpRec) (k : FabPkt) (bs : List Byte) : Prop :=
  onlySpad s t f.core (mwrite (s.core f.core).spad o.land bs) ∧ t.net = s.net ∧
  tlook (t.die a.die).flows a.flow = some (packetGone f k true) ∧
  (f.swe = true → (t.core f.core).q.raises = (s.core f.core).q.raises ++ [⟨f.sw, bs.length, false, o.own.launch, f.vf⟩]) ∧
  (f.swe = false → (t.core f.core).q.raises = (s.core f.core).q.raises)

end Sys2Proof.Machine.Claims

section
open Sys2Proof Sys2Proof.Machine Sys2Proof.Machine.Claims

/-- R406 to R408, R412, R413: an acknowledgement takes its packet from the flow and counts it on its path; the data of a get, or the old value
of an atomic, land at the flow's core and raise its sync word; a failure records the first detail in the flow and reports FLOW to the
issuing core; a trimmed packet of a UE flow takes a path anew by the rule for a first one, a pinned one its own; past the retry limit an
operation fails with detail 4, the oldest by the model's choice (L52). -/
def Sys2Proof.Machine.Claims.flowsAreAnswered : Prop :=
  (∀ (a : FabAck) (f : Flow) (o : FabOpRec) (k : FabPkt) (s : State), s.fabPkt a = some (f, o, k) →
    (a.detail = 0 → o.kind = 1 ∨ o.kind = 2 → ∃ t, exec (.fabricAckArrival a) s = .next t ∧ keepsCores s t ∧ t.hbm = s.hbm ∧
      t.net = s.net ∧ tlook (t.die a.die).flows a.flow = some (packetGone f k true)) ∧
    (a.detail ≠ 0 → ∃ t, exec (.fabricAckArrival a) s = .next t ∧ keepsCores s t ∧ t.hbm = s.hbm ∧
      tlook (t.die a.die).flows a.flow =
        some { packetGone f k false with err := if f.err = 0 then a.detail else f.err } ∧
      t.net = (s.report o.own 0x16 a.detail (BitVec.ofNat 64 (a.flow + a.die * 2 ^ 16)) false (decide (o.kind ≠ 0))).net) ∧
    (∀ data, a.detail = 0 → o.kind = 0 → data.length = o.n → s.isRunning f.core = true →
      ∃ t, exec (.rgetDataArrival a data) s = .next t ∧ fabricLands s t a f o k data) ∧
    (∀ old, a.detail = 0 → o.kind = 3 → s.isRunning f.core = true →
      ∃ t, exec (.ramoReply a old) s = .next t ∧ fabricLands s t a f o k (leBytes 8 old.toNat))) ∧
  (∀ (die n pkt : Nat) (f : Flow) (o : FabOpRec) (k : FabPkt) (s : State), s.fabPkt ⟨die, n, pkt, 0⟩ = some (f, o, k) →
    f.ue = true → ∃ (t : State) (path : Nat), exec (.packetTrim die n pkt) s = .next t ∧ keepsCores s t ∧ t.net = s.net ∧
      (∀ q, o.pin = some q → path = q) ∧
      (o.pin = none → path = choosePath s { f with ops := f.ops.map fun o => { o with pkts := o.pkts.filter fun j => j.num != pkt } }) ∧
      let onPath (j : FabPkt) : FabPkt := if j.num = pkt then { j with path := path } else j
      tlook (t.die die).flows n = some { f with ops := f.ops.map fun o => { o with pkts := o.pkts.map onPath } }) ∧
  (∀ (die n : Nat) (f : Flow) (o : FabOpRec) (rest : List FabOpRec) (s : State), tlook (s.die die).flows n = some f →
    f.ops = o :: rest → ∃ t, exec (.flowRetryTimeout die n) s = .next t ∧ keepsCores s t ∧
      tlook (t.die die).flows n = some { f with ops := rest, err := if f.err = 0 then 4 else f.err } ∧
      t.net = (s.report o.own 0x16 4 (BitVec.ofNat 64 (n + die * 2 ^ 16)) false (decide (o.kind ≠ 0))).net)

/-- R399, R408 to R410, R413, R419: a new packet of an unordered flow, or the next one of an ordered flow, goes to the home its window
names, once the die's forwarded-request slot is free where it must be passed on (R147); one that has come before changes nothing; one of an
ordered flow that comes early, or finds no slot, waits in the reorder buffer; an ordered-flag packet is held until every earlier operation
of its flow is acknowledged; one whose tag does not verify is answered with detail 5; a core that has executed what was passed on to it
answers by the packet's port. Holding the others until they come again is the model's reading (L53). -/
def Sys2Proof.Machine.Claims.packetsReachTheirHome : Prop :=
  (∀ (p : FabPacket) (s : State), newPacket s p → (p.flagged = true → p.first ≤ (targetOf s p).base) →
    (p.mode ≠ 0 → slotFor s p →
      ∃ t, exec (.fabricPacketArrival p) s = .next t ∧ passedHome s (underWay (opened s p (targetOf s p)) p) t p) ∧
    (p.mode ≠ 0 → ¬ slotFor s p → exec (.fabricPacketArrival p) s = .next s) ∧
    (p.mode = 0 → ((targetOf s p).next < p.seq ∨ ((targetOf s p).next = p.seq ∧ ¬ slotFor s p)) →
      s.reorderBytes p.die + pktLen p ≤ 2 ^ 21 →
      ∃ t, exec (.fabricPacketArrival p) s = .next t ∧
        targetOf t p = { targetOf s p with waiting := (targetOf s p).waiting ++ [p] } ∧ keepsMemory s t ∧ t.net = s.net) ∧
    (p.mode = 0 → (targetOf s p).next = p.seq → slotFor s p → (targetOf s p).waiting = [] →
      let s' := opened s p { targetOf s p with next := p.seq + 1 }
      (∀ q, q < 16 → (s.portAt q).withheld = s'.reorderFull (q / 2)) →
      ∃ t, exec (.fabricPacketArrival p) s = .next t ∧ passedHome s (underWay s' p) t p ∧ (targetOf t p).next = p.seq + 1)) ∧
  (∀ (p : FabPacket) (s : State), newPacket s p → p.mode ≠ 0 → p.flagged = true → (targetOf s p).base < p.first →
    ∃ t, exec (.fabricPacketArrival p) s = .next t ∧ keepsMemory s t ∧ t.net = s.net ∧
      targetOf t p = { targetOf s p with flagged := (targetOf s p).flagged ++ [p] }) ∧
  (∀ (p : FabPacket) (s : State), verifies s p → (p.seq < (targetOf s p).base ∨ p.seq ∈ (targetOf s p).done) →
    exec (.fabricPacketArrival p) s = .next s) ∧
  (∀ (p : FabPacket) (s : State), ¬ verifies s p → ∃ t, exec (.fabricPacketArrival p) s = .next t ∧ answered s t p 5 [] ∧
    t.targets = s.targets) ∧
  (∀ (die k : Nat) (p : FabPacket) (s : State),
    nth ((s.targets.map fun t => t.2.flagged).flatten.filter fun p => p.die == die) k = some p → p.port < 16 → p.flow < 2 ^ 20 →
    p.seq < 2 ^ 32 → (∀ b ∈ (targetOf s p).busy, b.1 ≠ p.seq) →
    let left : TargetFlow := { targetOf s p with flagged := (targetOf s p).flagged.filter fun q => q.seq != p.seq }
    let s' : State := { s with targets := tput s.targets (pktKey p) left }
    (p.first ≤ (targetOf s p).base → slotFor s p →
      ∃ t, exec (.flaggedApply die k) s = .next t ∧ passedHome s (underWay s' p) t p) ∧
    ((targetOf s p).base < p.first → exec (.flaggedApply die k) s = .next s)) ∧
  (∀ (c key seq port : Nat) (op : RemoteOp) (rest : List RemoteOp) (s : State), opComes s s c none op rest →
    seq < 2 ^ 32 → (tget s.targets {} key).busy.find? (fun b => b.1 == seq) = some (seq, port) →
    let m := (s.core c).spad
    let tok := seq + 2 ^ 32 * key
    let answersWith (m' : Memory) (data : List Byte) : Prop := ∃ t, exec (.remoteOpExecute c none) s = .next t ∧ onlySpad s t c m' ∧
      (t.core c).q.ropq = rest ∧ answersBy s t port (key / 2 ^ 52) (key / 2 ^ 32 % 2 ^ 20) seq 0 data ∧
      ∀ b ∈ (tget t.targets {} key).busy, b.1 ≠ seq
    (∀ a bs, op = .fabPut a bs tok → answersWith (mwrite m a bs) []) ∧
    (∀ a n, op = .fabGet a n tok → answersWith m (mread m a n)) ∧
    (∀ a n vf, op = .fabRaise a n vf tok → raiseFits (s.core c) (syncWord m a) n →
      answersWith (mwrite m a (leBytes 16 (raisedWord (syncWord m a) n false).nat)) []) ∧
    (∀ fn a x y, op = .fabAmo fn a x y tok →
      let old : Word := BitVec.ofNat 64 (mreadNat m a 8)
      answersWith (match amoNew fn old x y with
        | some v => mwrite m a (leBytes 8 v.toNat)
        | none => m) (leBytes 8 old.toNat)))

/-- R415 to R418: a flit with a good CRC that is next in sequence is delivered to its channel, its credits return, and the slot it took is
given back, in an idle flit where no other flit goes, but for one of the request channel while the reorder buffer is full (R409); one with
a bad CRC is asked for again; a replay request sends a kept flit once more; at the end of an interval each lane of a port has a score from
its corrections. The model's choices: an idle flit is sent as soon as increments are owed (L54); the places of the fields in a flit's
bytes (L23). -/
def Obligations.LaceLink : Prop :=
  (∀ (port : Nat) (f : LaceFlit) (s : State),
    let q := s.portAt port
    q.ue = false → q.trained = true →
    (f.crcOk = false → ∃ t, exec (.laceFlitReceive port f) s = .next t ∧ keepsCores s t ∧ t.net = s.net ∧
      f.seq ∈ (t.portAt port).wanted ∧ (t.portAt port).delivered = q.delivered ∧ (t.portAt port).rxSeq = q.rxSeq) ∧
    (f.crcOk = true → f.seq = q.rxSeq → q.held = [] → f.chan < 3 → q.out = [] → q.credits.length = 3 →
      ∃ t, exec (.laceFlitReceive port f) s = .next t ∧ keepsCores s t ∧ t.net = s.net ∧
        (t.portAt port).delivered = q.delivered ++ [(f.chan, f.payload)] ∧ (t.portAt port).rxSeq = (q.rxSeq + 1) % 4096 ∧
        (t.portAt port).credits = q.credits.mapIdx (fun i c => c + ([f.crReq, f.crFwd, f.crRep][i]?.getD 0)) ∧
        f.seq ∉ (t.portAt port).wanted ∧
        (q.owed = [0, 0, 0] → q.withheld = true → f.chan = 0 →
          (t.portAt port).owed = [1, 0, 0] ∧ (t.portAt port).txSeq = q.txSeq ∧ (t.portAt port).replay = q.replay) ∧
        (q.owed = [0, 0, 0] → q.withheld = false ∨ f.chan ≠ 0 →
          (t.portAt port).owed = [0, 0, 0] ∧ (t.portAt port).txSeq = (q.txSeq + 1) % 4096 ∧
          (t.portAt port).replay.getLast? = some (q.txSeq, flitBytes q.txSeq 3 (([0, 0, 0] : List Nat).set f.chan 1) [])))) ∧
  (∀ (port seq : Nat) (e : Nat × List Byte) (s : State),
    let q := s.portAt port
    q.ue = false → q.trained = true → q.replay.find? (fun e => e.1 == seq) = some e →
    ∃ t, exec (.laceReplayRequest port seq) s = .next t ∧ keepsCores s t ∧
      t.portAt port = { q with resend := q.resend ++ [e] }) ∧
  (∀ (port : Nat) (counts : List Nat) (s : State),
    let q := s.portAt port
    let score (c : Nat) : Nat := 255 - min 255 ((c + 63) / 64)
    ∃ t, exec (.laneScoreInterval port counts) s = .next t ∧ keepsCores s t ∧ (t.portAt port).lanes = [0, 0, 0, 0] ∧
      (q.ue = false → (t.portAt port).scores = q.lanes.map score ∧ (t.portAt port).fec = q.fec) ∧
      (q.ue = true → ∀ a b c d, counts = [a, b, c, d] → (t.portAt port).scores = [score a, score b, score c, score d] ∧
        (t.portAt port).fec = q.fec + (a + b + c + d)))

/-- Answers to the operations of a flow, and packets that arrive at the home of their window (R399, R406 to R413). The model's readings: a
packet for HBM is applied at once, and the contexts of earlier openings of a flow end at an opening (L53); the operation that a retry
limit fails, and the path of a packet (L52). -/
def Obligations.FabricTraffic : Prop := flowsAreAnswered ∧ packetsReachTheirHome

end

/-! ## The machine as a whole -/

namespace Sys2Proof.Machine.Claims

/-- The core whose turn it is: the agenda names it, or with an empty agenda the one before goes on (L4); and what is left of the agenda. -/
def turnOfCore (s : State) (c : Nat) (rest : List Turn) : Prop :=
  s.agenda = .core c :: rest ∨ (s.agenda = [] ∧ rest = [] ∧ c = s.cur)

/-- A turn of a core begins: one cycle passes on its die and, where that is running, on the core (R53, R103). -/
def turnBegun (s : State) (c : Nat) (rest : List Turn) : State := ({ s with agenda := rest, cur := c }).cycled

/-- The contexts of a core that wait, each with what it waits for: their next word would do nothing but wait (R54, L6). -/
noncomputable def waitersOf (v : State) (q : List (Nat × Ctx)) : List (Nat × WaitFor) :=
  q.filterMap fun e => (v.waiting issueCtx e.1).map fun w => (e.1, w)

/-- The others. -/
noncomputable def readyIn (v : State) (q : List (Nat × Ctx)) : List (Nat × Ctx) := q.filter fun e => (waitersOf v q).all fun w => w.1 != e.1

/-- The issue selector of the core whose turn it is names a context (R54), which is about to fetch in the given state: no operation of the
remote-op thread takes the slot (R166, L61), and the context is the only one that can be selected, or the selector's choice among those
that are ready. -/
def aboutToFetch (s u : State) : Prop :=
  ∃ (c : Nat) (rest : List Turn), turnOfCore s c rest ∧
    let v := turnBegun s c rest
    let q := (s.core c).queue
    threadReady v c = false ∧ v.issues c = true ∧
    ((∃ e, q = [e] ∧ u = v.selected e.1 [e.1]) ∨
     (2 ≤ q.length ∧ ∃ x, pickOf (readyIn v q) = some x ∧
        u = (v.markWaits (waitersOf v q)).selected x ((readyIn v q).map fun e => e.1)))

end Sys2Proof.Machine.Claims

section
open Sys2Proof Sys2Proof.Machine Sys2Proof.Machine.Claims

/-- R103, R104, R365, R425: after reset no activation runs, every die stands at service level 0 with its memory node down, `sr.kmode` reads
0x40000, each gauge has extent 1, and the port-mode register makes every port an Ultra Ethernet endpoint. The values the spec does not give are the
model's choice (L1, L2): registers of zero, memories that list nothing. -/
def Obligations.ResetState : Prop :=
  State.reset.memoriesWf = true ∧ State.reset.agenda = [] ∧ State.reset.net = [] ∧ State.reset.vfs = [] ∧ State.reset.launches = [] ∧
  (∀ a, Sys2Proof.Machine.mget State.reset.hbm a = Config.blankByte) ∧ State.reset.poison = [] ∧
  (∀ c x, (State.reset.ctxAt c x).status = .free ∧ (State.reset.ctxAt c x).sp.kmode = 0x40000 ∧ (State.reset.ctxAt c x).sp.fst = 0 ∧
    (State.reset.ctxAt c x).sp.gauge = [1, 1, 1, 1] ∧ ∀ n, (State.reset.ctxAt c x).sv n = 0) ∧
  (∀ d, (State.reset.die d).pw.level = 0 ∧ State.reset.memUp d = false ∧ (State.reset.die d).pw.cycle = 0) ∧
  State.reset.fw.portMode = 0xFFFF ∧ State.reset.fw.pkg = 0

/-- R40 to R58: a word written out from the spec's encodings decodes to the instruction it stands for, and that instruction encodes to the
word. -/
def Obligations.WordsDecode : Prop :=
  ∀ e ∈ (
  [(0x00C16308, .frec 12 5 35), (0x044048D1, .hext 0x48D1), (0x08304200, .add 3 1 2), (0x0C304005, .addi 3 1 5),
   (0x245048D1, .ldhi 5 0x48D1), (0x2C900000, .rdsr 9 0), (0x3C300003, .bge 3 0 3), (0x54303FFE, .loop 3 0x3FFE),
   (0x5840A803, .lds 4 2 2 3), (0x5C037FFF, .st 0 13 3 0xFFF), (0x601752F0, .vlds 1 29 1 30), (0x68214720, .vgat 2 5 7 1),
   (0x6C5A8C09, .mget 11 10 12 9), (0x7073DAC0, .cpy 14 15 13 12 0), (0x777C0000, .swadd 15 16), (0x7C003028, .fenceRel 12 2)] ++
  [(0x826F7228, .amoswp 9 11 13 12 2 2 0), (0x84E40005, .barrv 1 9 0 5), (0x8CF41100, .bind 15 16 17), (0x9145401E, .jset 20 21 30),
   (0x9F425A00, .hcfg 52 9 3 4 0), (0xA0824A47, .vfma 8 9 10 2 1), (0xB0108316, .vclt 1 2 3 0 5), (0xB4A1C017, .vext 10 7 0 5),
   (0xD4928000, .cxbind 9 10 0), (0xD8C80000, .kd 3 2 0), (0xDD048003, .kdot 4 1 2 0), (0xE8928B01, .rmpoke 9 10 11 1),
   (0xEC054710, .mmldb 21 7 0), (0xF0010120, .rep 4 1), (0xF4304A44, .lsel 3 1 10 1 0), (0xF8C34E5A, .rput 12 13 14 10)] : List (Nat × Instr)),
    decodeWord e.1 = .ok e.2 ∧ decodeTableWord 32 e.1 = some e.2 ∧ encode e.2 = some e.1 ∧ e.2.wf = true

/-- A step runs the decoded instruction (R54, R58, R114): where the issue selector names a context, the word at its pc is fetched, and the
step is the execution of the instruction the word decodes to; a word that is no instruction parks the context with ILL; a fetch that
faults parks it with that fault, once no merge of the activation is under way (R254), the word in its record being 0 (L40). An event on
the agenda (L4) is that event's own execution. The word fetched is the four bytes of HBM at the pc, little-endian, where the core's
instruction cache does not hold the line. -/
def Obligations.StepRunsTheDecodedInstruction : Prop :=
  (∀ (s u : State), aboutToFetch s u →
    (∀ (v : State) (w : Nat) (i : Instr), fetchWord u = .ok (v, w) → decodeWord w = .ok i → step s = exec i v) ∧
    (∀ (v : State) (w : Nat) (r : IllReason), fetchWord u = .ok (v, w) → decodeWord w = .error r →
      ∃ t, step s = .next t ∧ v.parksWith t w cILL 0 0 false false) ∧
    (∀ (v : State) (f : FaultInfo), fetchWord u = .error (.trap f v) → u.merging = true →
      step s = .next (u.modCtx fun x => { x with wait := .other })) ∧
    (∀ (v : State) (f : FaultInfo), u.merging = false → fetchWord u = .error (.trap f v) → f.addr = true → f.write = false → f.debug = false →
      f.lift = none → f.rep = none → ∃ t, step s = .next t ∧ v.parksWith t 0 f.code f.detail f.f1 true false)) ∧
  (∀ (s : State) (i : Instr) (rest : List Turn), s.agenda = .event i :: rest → i.isEvent = true →
    step s = exec i { s with agenda := rest }) ∧
  (∀ (s u : State) (va pa : Nat) (nc : Bool), pointerCheck s s.ctx.pc permX 4 false = .ok va →
    tlook (s.core s.cur).icache (lineKey s.ctx.id.vf va) = none → translate s s.ctx.pc va permX false = .ok (u, pa, nc) →
    pa % 64 = va % 64 → va % 4 = 0 → u.memUp (homeDie pa) = true → u.poison.contains (granuleOf pa) = false →
    ∃ v : State, fetchWord s = .ok (v, mreadNat s.hbm (cellOf pa) 4) ∧ v.hbm = s.hbm ∧ v.ctx = s.ctx)

/-- R40 to R58: encoding loses nothing. A well-formed instruction, with its operands at any values its encoding admits, decodes from its
word to itself; and every word of 32 bits that decodes is the word of a well-formed instruction, so no two words stand for one
instruction and no bit of a word is ignored. -/
def Obligations.DecodeAndEncodeAgree : Prop :=
  (∀ i w, i.wf = true → encode i = some w → w < 2 ^ 32 ∧ decodeWord w = .ok i) ∧
  (∀ i, i.wf = true → ∃ w, encode i = some w) ∧
  (∀ i w, w < 2 ^ 32 → decodeWord w = .ok i → i.wf = true ∧ encode i = some w)

/-- Every step answers a next state, from every state: no instruction word and no event stops the machine; what goes wrong parks an
activation or is reported (R254, R258, R433). -/
def Obligations.NoStepStops : Prop := ∀ s : State, ∃ t, step s = .next t

/-- Every byte memory of the machine keeps its canonical form in every step (the model's own form of R187 and L1): HBM, the scratchpads,
the weight stores, the block buffers and the recovery window; so equal memories are equal data. -/
def Obligations.MemoriesStayCanonical : Prop :=
  ∀ s t : State, s.memoriesWf = true → step s = .next t → t.memoriesWf = true

end
end

