-- ==== Sys2Proof/Laws/Maps.lean ====
section
/-!
SUPPORT. Laws of tables and byte memories: reads after writes, and that every memory operation keeps the canonical form.
-/

namespace Sys2Proof.Machine

variable {α : Type}

/-- A key just put is found. -/
@[simp] theorem tlook_tput_same (m : Table α) (k : Nat) (v : α) : tlook (tput m k v) k = some v := by
  induction m with
  | nil => simp [tput, tlook]
  | cons e m ih =>
    obtain ⟨j, w⟩ := e
    by_cases h : j = k
    · simp [tput, tlook, h]
    · by_cases h2 : k < j <;> simp [tput, tlook, h, h2, ih]

/-- Other keys keep their values. -/
theorem tlook_tput_other (m : Table α) {k j : Nat} (v : α) (h : j ≠ k) : tlook (tput m k v) j = tlook m j := by
  induction m with
  | nil => simp [tput, tlook, Ne.symm h]
  | cons e m ih =>
    obtain ⟨i, w⟩ := e
    by_cases h1 : i = k
    · subst h1; simp [tput, tlook, Ne.symm h]
    · by_cases h2 : k < i <;> simp [tput, tlook, h1, h2, ih, Ne.symm h]

/-- The value of a key just put. -/
@[simp] theorem tget_tput_same (m : Table α) (d : α) (k : Nat) (v : α) : tget (tput m k v) d k = v := by
  simp [tget]

/-- The values of other keys. -/
theorem tget_tput_other (m : Table α) (d : α) {k j : Nat} (v : α) (h : j ≠ k) : tget (tput m k v) d j = tget m d j := by
  simp [tget, tlook_tput_other m v h]

/-- The second of two writes of one key is what counts. -/
@[simp] theorem tput_tput (m : Table α) (k : Nat) (v w : α) : tput (tput m k v) k w = tput m k w := by
  induction m with
  | nil => simp [tput]
  | cons e m ih =>
    obtain ⟨j, u⟩ := e
    by_cases h : j = k
    · simp [tput, h]
    · by_cases h2 : k < j <;> simp [tput, h, h2, ih]

/-- A dropped key is not found. -/
@[simp] theorem tlook_tdel_same (m : Table α) (k : Nat) : tlook (tdel m k) k = none := by
  induction m with
  | nil => rfl
  | cons e m ih =>
    obtain ⟨j, u⟩ := e
    by_cases h : j = k
    · simpa [tdel, h] using ih
    · simpa [tdel, tlook, h] using ih

/-- Other keys keep their values when a key is dropped. -/
theorem tlook_tdel_other (m : Table α) {k j : Nat} (h : j ≠ k) : tlook (tdel m k) j = tlook m j := by
  induction m with
  | nil => rfl
  | cons e m ih =>
    obtain ⟨i, u⟩ := e
    by_cases h1 : i = k
    · subst h1
      simpa [tdel, tlook, Ne.symm h] using ih
    · by_cases h2 : i = j
      · subst h2; simp [tdel, tlook, h1]
      · simpa [tdel, tlook, h1, h2] using ih

/-! ## Byte memories -/

/-- A byte just written reads back (R189). -/
@[simp] theorem mget_mset_same (m : Memory) (a : Nat) (b : Byte) : mget (mset m a b) a = b := by
  by_cases h : b = Config.blankByte <;> simp [mget, mset, h, tget]

/-- Writing a byte leaves every other byte. -/
theorem mget_mset_other (m : Memory) {a x : Nat} (b : Byte) (h : x ≠ a) : mget (mset m a b) x = mget m x := by
  by_cases hb : b = Config.blankByte
  · simp [mget, mset, hb, tget, tlook_tdel_other m h]
  · simp [mget, mset, hb, tget_tput_other m _ _ h]

/-- Bytes outside a written range read as before. -/
theorem mget_mwrite_outside (bs : List Byte) (m : Memory) {a x : Nat} (h : x < a ∨ a + bs.length ≤ x) :
    mget (mwrite m a bs) x = mget m x := by
  induction bs generalizing m a with
  | nil => rfl
  | cons b bs ih =>
    simp only [List.length_cons] at h
    rw [mwrite, ih _ (by omega), mget_mset_other _ _ (by omega)]

/-- Byte `k` of a written range reads as byte `k` of what was written. -/
theorem mget_mwrite_inside (bs : List Byte) (m : Memory) {a k : Nat} (h : k < bs.length) :
    mget (mwrite m a bs) (a + k) = bs[k] := by
  induction bs generalizing m a k with
  | nil => simp at h
  | cons b bs ih =>
    cases k with
    | zero => rw [mwrite, mget_mwrite_outside _ _ (by omega)]; simp
    | succ k =>
      have := ih (mset m a b) (a := a + 1) (k := k) (by simpa using h)
      rw [mwrite]; simpa [Nat.add_assoc, Nat.add_comm 1 k] using this

/-- Bytes just written read back. -/
theorem mread_mwrite_same (bs : List Byte) (m : Memory) (a : Nat) : mread (mwrite m a bs) a bs.length = bs := by
  suffices h : ∀ (m' : Memory) (a : Nat) (xs : List Byte), (∀ k (h : k < xs.length), mget m' (a + k) = xs[k]) →
      mread m' a xs.length = xs from h _ _ _ fun k hk => mget_mwrite_inside bs m hk
  intro m' a xs
  induction xs generalizing a with
  | nil => intro _; rfl
  | cons x xs ih =>
    intro h
    have h0 := h 0 (by simp)
    simp only [Nat.add_zero, List.getElem_cons_zero] at h0
    simp only [List.length_cons, mread, h0]
    rw [ih]
    intro k hk
    have := h (k + 1) (by simpa using hk)
    simpa [Nat.add_assoc, Nat.add_comm 1 k] using this

/-- A range that does not meet the written one reads as before. -/
theorem mread_mwrite_outside (bs : List Byte) (m : Memory) {a x n : Nat} (h : x + n ≤ a ∨ a + bs.length ≤ x) :
    mread (mwrite m a bs) x n = mread m x n := by
  induction n generalizing x with
  | zero => rfl
  | succ n ih => rw [mread, mread, mget_mwrite_outside _ _ (by omega), ih (by omega)]

/-- A canonical list from a bound is one from every smaller bound. -/
theorem risingFrom_mono {m : Memory} {lo lo' : Nat} (h : risingFrom lo m = true) (hl : lo' ≤ lo) : risingFrom lo' m = true := by
  cases m with
  | nil => rfl
  | cons e m =>
    obtain ⟨a, b⟩ := e
    simp only [risingFrom, Bool.and_eq_true, decide_eq_true_eq] at h ⊢
    exact ⟨⟨by omega, h.1.2⟩, h.2⟩

/-- Dropping a key keeps the canonical form. -/
theorem risingFrom_tdel {m : Memory} {lo : Nat} (h : risingFrom lo m = true) (a : Nat) : risingFrom lo (tdel m a) = true := by
  induction m generalizing lo with
  | nil => rfl
  | cons e m ih =>
    obtain ⟨j, b⟩ := e
    simp only [risingFrom, Bool.and_eq_true, decide_eq_true_eq] at h
    have h2 := ih h.2
    by_cases hj : j = a
    · simpa [tdel, hj] using risingFrom_mono (ih h.2) (by omega : lo ≤ j + 1)
    · have : tdel ((j, b) :: m) a = (j, b) :: tdel m a := by simp [tdel, hj]
      rw [this]
      simp only [risingFrom, Bool.and_eq_true, decide_eq_true_eq]
      exact ⟨⟨h.1.1, h.1.2⟩, h2⟩

/-- Putting a byte that is not blank keeps the canonical form. -/
theorem risingFrom_tput {m : Memory} {lo a : Nat} {b : Byte} (h : risingFrom lo m = true) (hb : b ≠ Config.blankByte)
    (ha : lo ≤ a) : risingFrom lo (tput m a b) = true := by
  induction m generalizing lo with
  | nil => simp [tput, risingFrom, hb, ha]
  | cons e m ih =>
    obtain ⟨j, c⟩ := e
    simp only [risingFrom, Bool.and_eq_true, decide_eq_true_eq] at h
    by_cases hj : j = a
    · subst hj
      simp only [tput, if_true, risingFrom, Bool.and_eq_true, decide_eq_true_eq]
      exact ⟨⟨ha, by simpa using hb⟩, h.2⟩
    · by_cases hl : a < j
      · simp only [tput, if_neg hj, if_pos hl, risingFrom, Bool.and_eq_true, decide_eq_true_eq]
        exact ⟨⟨ha, by simpa using hb⟩, ⟨by omega, h.1.2⟩, h.2⟩
      · simp only [tput, if_neg hj, if_neg hl, risingFrom, Bool.and_eq_true, decide_eq_true_eq]
        exact ⟨h.1, ih h.2 (by omega)⟩

/-- Writing a byte keeps the canonical form. -/
theorem mset_wf {m : Memory} (h : Memory.wf m = true) (a : Nat) (b : Byte) : Memory.wf (mset m a b) = true := by
  unfold mset
  split
  · exact risingFrom_tdel h a
  · exact risingFrom_tput h ‹_› (Nat.zero_le a)

/-- Writing bytes keeps the canonical form. -/
theorem mwrite_wf (bs : List Byte) {m : Memory} (h : Memory.wf m = true) (a : Nat) : Memory.wf (mwrite m a bs) = true := by
  induction bs generalizing m a with
  | nil => exact h
  | cons b bs ih => exact ih (mset_wf h a b) (a + 1)

/-- Canonical memories that read alike from a bound are equal. -/
theorem risingFrom_ext {m n : Memory} {lo : Nat} (hm : risingFrom lo m = true) (hn : risingFrom lo n = true)
    (h : ∀ a, lo ≤ a → mget m a = mget n a) : m = n := by
  have below : ∀ (m : Memory) (lo a : Nat), risingFrom lo m = true → a < lo → tlook m a = none := by
    intro m
    induction m with
    | nil => intros; rfl
    | cons e m ih =>
      obtain ⟨j, c⟩ := e
      intro lo a hr ha
      simp only [risingFrom, Bool.and_eq_true, decide_eq_true_eq] at hr
      simp only [tlook, show ¬ j = a by omega, if_false]
      exact ih (j + 1) a hr.2 (by omega)
  induction m generalizing n lo with
  | nil =>
    cases n with
    | nil => rfl
    | cons e n =>
      obtain ⟨j, c⟩ := e
      simp only [risingFrom, Bool.and_eq_true, decide_eq_true_eq] at hn
      have := h j hn.1.1
      simp only [mget, tget, tlook, if_true, Option.getD] at this
      exact absurd this.symm (by simpa using hn.1.2)
  | cons e m ih =>
    obtain ⟨i, b⟩ := e
    simp only [risingFrom, Bool.and_eq_true, decide_eq_true_eq] at hm
    cases n with
    | nil =>
      have := h i hm.1.1
      simp only [mget, tget, tlook, if_true, Option.getD] at this
      exact absurd this (by simpa using hm.1.2)
    | cons f n =>
      obtain ⟨j, c⟩ := f
      simp only [risingFrom, Bool.and_eq_true, decide_eq_true_eq] at hn
      have hij : i = j := by
        rcases Nat.lt_trichotomy i j with hlt | heq | hgt
        · have := h i hm.1.1
          simp only [mget, tget, tlook, if_true, Option.getD, show ¬ j = i by omega, if_false,
            below n (j + 1) i hn.2 (by omega)] at this
          exact absurd this (by simpa using hm.1.2)
        · exact heq
        · have := h j hn.1.1
          simp only [mget, tget, tlook, if_true, Option.getD, show ¬ i = j by omega, if_false,
            below m (i + 1) j hm.2 (by omega)] at this
          exact absurd this.symm (by simpa using hn.1.2)
      subst hij
      have hb := h i hm.1.1
      simp only [mget, tget, tlook, if_true, Option.getD] at hb
      subst hb
      congr 1
      refine ih hm.2 hn.2 fun a ha => ?_
      have := h a (by omega)
      simpa only [mget, tget, tlook, show ¬ i = a by omega, if_false] using this

/-- Equal memories are equal data. -/
theorem memory_ext {m n : Memory} (hm : Memory.wf m = true) (hn : Memory.wf n = true) (h : ∀ a, mget m a = mget n a) : m = n :=
  risingFrom_ext hm hn fun a _ => h a

end Sys2Proof.Machine
end

