-- ==== Sys2Proof/Laws/State.lean ====
section
/-!
SUPPORT. Laws of State and of its parts: one lemma per field per update, and reads of a part after a write of it.
-/

namespace Sys2Proof.Machine

variable (s : State)


/-! ### `setCore` -/

@[simp] theorem State.setCore_cur (c : Nat) (x : Core) : (s.setCore c x).cur = s.cur := rfl
@[simp] theorem State.setCore_curCtx (c : Nat) (x : Core) : (s.setCore c x).curCtx = s.curCtx := rfl
@[simp] theorem State.setCore_agenda (c : Nat) (x : Core) : (s.setCore c x).agenda = s.agenda := rfl
@[simp] theorem State.setCore_serial (c : Nat) (x : Core) : (s.setCore c x).serial = s.serial := rfl
@[simp] theorem State.setCore_dies (c : Nat) (x : Core) : (s.setCore c x).dies = s.dies := rfl
@[simp] theorem State.setCore_octets (c : Nat) (x : Core) : (s.setCore c x).octets = s.octets := rfl
@[simp] theorem State.setCore_hbm (c : Nat) (x : Core) : (s.setCore c x).hbm = s.hbm := rfl
@[simp] theorem State.setCore_poison (c : Nat) (x : Core) : (s.setCore c x).poison = s.poison := rfl
@[simp] theorem State.setCore_vfs (c : Nat) (x : Core) : (s.setCore c x).vfs = s.vfs := rfl
@[simp] theorem State.setCore_launches (c : Nat) (x : Core) : (s.setCore c x).launches = s.launches := rfl
@[simp] theorem State.setCore_net (c : Nat) (x : Core) : (s.setCore c x).net = s.net := rfl
@[simp] theorem State.setCore_writes (c : Nat) (x : Core) : (s.setCore c x).writes = s.writes := rfl
@[simp] theorem State.setCore_reads (c : Nat) (x : Core) : (s.setCore c x).reads = s.reads := rfl
@[simp] theorem State.setCore_mgets (c : Nat) (x : Core) : (s.setCore c x).mgets = s.mgets := rfl
@[simp] theorem State.setCore_targets (c : Nat) (x : Core) : (s.setCore c x).targets = s.targets := rfl
@[simp] theorem State.setCore_host (c : Nat) (x : Core) : (s.setCore c x).host = s.host := rfl
@[simp] theorem State.setCore_fw (c : Nat) (x : Core) : (s.setCore c x).fw = s.fw := rfl

/-! ### `modCore` -/

@[simp] theorem State.modCore_cur (c : Nat) (f : Core → Core) : (s.modCore c f).cur = s.cur := rfl
@[simp] theorem State.modCore_curCtx (c : Nat) (f : Core → Core) : (s.modCore c f).curCtx = s.curCtx := rfl
@[simp] theorem State.modCore_agenda (c : Nat) (f : Core → Core) : (s.modCore c f).agenda = s.agenda := rfl
@[simp] theorem State.modCore_serial (c : Nat) (f : Core → Core) : (s.modCore c f).serial = s.serial := rfl
@[simp] theorem State.modCore_dies (c : Nat) (f : Core → Core) : (s.modCore c f).dies = s.dies := rfl
@[simp] theorem State.modCore_octets (c : Nat) (f : Core → Core) : (s.modCore c f).octets = s.octets := rfl
@[simp] theorem State.modCore_hbm (c : Nat) (f : Core → Core) : (s.modCore c f).hbm = s.hbm := rfl
@[simp] theorem State.modCore_poison (c : Nat) (f : Core → Core) : (s.modCore c f).poison = s.poison := rfl
@[simp] theorem State.modCore_vfs (c : Nat) (f : Core → Core) : (s.modCore c f).vfs = s.vfs := rfl
@[simp] theorem State.modCore_launches (c : Nat) (f : Core → Core) : (s.modCore c f).launches = s.launches := rfl
@[simp] theorem State.modCore_net (c : Nat) (f : Core → Core) : (s.modCore c f).net = s.net := rfl
@[simp] theorem State.modCore_writes (c : Nat) (f : Core → Core) : (s.modCore c f).writes = s.writes := rfl
@[simp] theorem State.modCore_reads (c : Nat) (f : Core → Core) : (s.modCore c f).reads = s.reads := rfl
@[simp] theorem State.modCore_mgets (c : Nat) (f : Core → Core) : (s.modCore c f).mgets = s.mgets := rfl
@[simp] theorem State.modCore_targets (c : Nat) (f : Core → Core) : (s.modCore c f).targets = s.targets := rfl
@[simp] theorem State.modCore_host (c : Nat) (f : Core → Core) : (s.modCore c f).host = s.host := rfl
@[simp] theorem State.modCore_fw (c : Nat) (f : Core → Core) : (s.modCore c f).fw = s.fw := rfl

/-! ### `setCtxAt` -/

@[simp] theorem State.setCtxAt_cur (c x : Nat) (v : Ctx) : (s.setCtxAt c x v).cur = s.cur := rfl
@[simp] theorem State.setCtxAt_curCtx (c x : Nat) (v : Ctx) : (s.setCtxAt c x v).curCtx = s.curCtx := rfl
@[simp] theorem State.setCtxAt_agenda (c x : Nat) (v : Ctx) : (s.setCtxAt c x v).agenda = s.agenda := rfl
@[simp] theorem State.setCtxAt_serial (c x : Nat) (v : Ctx) : (s.setCtxAt c x v).serial = s.serial := rfl
@[simp] theorem State.setCtxAt_dies (c x : Nat) (v : Ctx) : (s.setCtxAt c x v).dies = s.dies := rfl
@[simp] theorem State.setCtxAt_octets (c x : Nat) (v : Ctx) : (s.setCtxAt c x v).octets = s.octets := rfl
@[simp] theorem State.setCtxAt_hbm (c x : Nat) (v : Ctx) : (s.setCtxAt c x v).hbm = s.hbm := rfl
@[simp] theorem State.setCtxAt_poison (c x : Nat) (v : Ctx) : (s.setCtxAt c x v).poison = s.poison := rfl
@[simp] theorem State.setCtxAt_vfs (c x : Nat) (v : Ctx) : (s.setCtxAt c x v).vfs = s.vfs := rfl
@[simp] theorem State.setCtxAt_launches (c x : Nat) (v : Ctx) : (s.setCtxAt c x v).launches = s.launches := rfl
@[simp] theorem State.setCtxAt_net (c x : Nat) (v : Ctx) : (s.setCtxAt c x v).net = s.net := rfl
@[simp] theorem State.setCtxAt_writes (c x : Nat) (v : Ctx) : (s.setCtxAt c x v).writes = s.writes := rfl
@[simp] theorem State.setCtxAt_reads (c x : Nat) (v : Ctx) : (s.setCtxAt c x v).reads = s.reads := rfl
@[simp] theorem State.setCtxAt_mgets (c x : Nat) (v : Ctx) : (s.setCtxAt c x v).mgets = s.mgets := rfl
@[simp] theorem State.setCtxAt_targets (c x : Nat) (v : Ctx) : (s.setCtxAt c x v).targets = s.targets := rfl
@[simp] theorem State.setCtxAt_host (c x : Nat) (v : Ctx) : (s.setCtxAt c x v).host = s.host := rfl
@[simp] theorem State.setCtxAt_fw (c x : Nat) (v : Ctx) : (s.setCtxAt c x v).fw = s.fw := rfl

/-! ### `modCtxAt` -/

@[simp] theorem State.modCtxAt_cur (c x : Nat) (f : Ctx → Ctx) : (s.modCtxAt c x f).cur = s.cur := rfl
@[simp] theorem State.modCtxAt_curCtx (c x : Nat) (f : Ctx → Ctx) : (s.modCtxAt c x f).curCtx = s.curCtx := rfl
@[simp] theorem State.modCtxAt_agenda (c x : Nat) (f : Ctx → Ctx) : (s.modCtxAt c x f).agenda = s.agenda := rfl
@[simp] theorem State.modCtxAt_serial (c x : Nat) (f : Ctx → Ctx) : (s.modCtxAt c x f).serial = s.serial := rfl
@[simp] theorem State.modCtxAt_dies (c x : Nat) (f : Ctx → Ctx) : (s.modCtxAt c x f).dies = s.dies := rfl
@[simp] theorem State.modCtxAt_octets (c x : Nat) (f : Ctx → Ctx) : (s.modCtxAt c x f).octets = s.octets := rfl
@[simp] theorem State.modCtxAt_hbm (c x : Nat) (f : Ctx → Ctx) : (s.modCtxAt c x f).hbm = s.hbm := rfl
@[simp] theorem State.modCtxAt_poison (c x : Nat) (f : Ctx → Ctx) : (s.modCtxAt c x f).poison = s.poison := rfl
@[simp] theorem State.modCtxAt_vfs (c x : Nat) (f : Ctx → Ctx) : (s.modCtxAt c x f).vfs = s.vfs := rfl
@[simp] theorem State.modCtxAt_launches (c x : Nat) (f : Ctx → Ctx) : (s.modCtxAt c x f).launches = s.launches := rfl
@[simp] theorem State.modCtxAt_net (c x : Nat) (f : Ctx → Ctx) : (s.modCtxAt c x f).net = s.net := rfl
@[simp] theorem State.modCtxAt_writes (c x : Nat) (f : Ctx → Ctx) : (s.modCtxAt c x f).writes = s.writes := rfl
@[simp] theorem State.modCtxAt_reads (c x : Nat) (f : Ctx → Ctx) : (s.modCtxAt c x f).reads = s.reads := rfl
@[simp] theorem State.modCtxAt_mgets (c x : Nat) (f : Ctx → Ctx) : (s.modCtxAt c x f).mgets = s.mgets := rfl
@[simp] theorem State.modCtxAt_targets (c x : Nat) (f : Ctx → Ctx) : (s.modCtxAt c x f).targets = s.targets := rfl
@[simp] theorem State.modCtxAt_host (c x : Nat) (f : Ctx → Ctx) : (s.modCtxAt c x f).host = s.host := rfl
@[simp] theorem State.modCtxAt_fw (c x : Nat) (f : Ctx → Ctx) : (s.modCtxAt c x f).fw = s.fw := rfl

/-! ### `setCtx` -/

@[simp] theorem State.setCtx_cur (v : Ctx) : (s.setCtx v).cur = s.cur := rfl
@[simp] theorem State.setCtx_curCtx (v : Ctx) : (s.setCtx v).curCtx = s.curCtx := rfl
@[simp] theorem State.setCtx_agenda (v : Ctx) : (s.setCtx v).agenda = s.agenda := rfl
@[simp] theorem State.setCtx_serial (v : Ctx) : (s.setCtx v).serial = s.serial := rfl
@[simp] theorem State.setCtx_dies (v : Ctx) : (s.setCtx v).dies = s.dies := rfl
@[simp] theorem State.setCtx_octets (v : Ctx) : (s.setCtx v).octets = s.octets := rfl
@[simp] theorem State.setCtx_hbm (v : Ctx) : (s.setCtx v).hbm = s.hbm := rfl
@[simp] theorem State.setCtx_poison (v : Ctx) : (s.setCtx v).poison = s.poison := rfl
@[simp] theorem State.setCtx_vfs (v : Ctx) : (s.setCtx v).vfs = s.vfs := rfl
@[simp] theorem State.setCtx_launches (v : Ctx) : (s.setCtx v).launches = s.launches := rfl
@[simp] theorem State.setCtx_net (v : Ctx) : (s.setCtx v).net = s.net := rfl
@[simp] theorem State.setCtx_writes (v : Ctx) : (s.setCtx v).writes = s.writes := rfl
@[simp] theorem State.setCtx_reads (v : Ctx) : (s.setCtx v).reads = s.reads := rfl
@[simp] theorem State.setCtx_mgets (v : Ctx) : (s.setCtx v).mgets = s.mgets := rfl
@[simp] theorem State.setCtx_targets (v : Ctx) : (s.setCtx v).targets = s.targets := rfl
@[simp] theorem State.setCtx_host (v : Ctx) : (s.setCtx v).host = s.host := rfl
@[simp] theorem State.setCtx_fw (v : Ctx) : (s.setCtx v).fw = s.fw := rfl

/-! ### `modCtx` -/

@[simp] theorem State.modCtx_cur (f : Ctx → Ctx) : (s.modCtx f).cur = s.cur := rfl
@[simp] theorem State.modCtx_curCtx (f : Ctx → Ctx) : (s.modCtx f).curCtx = s.curCtx := rfl
@[simp] theorem State.modCtx_agenda (f : Ctx → Ctx) : (s.modCtx f).agenda = s.agenda := rfl
@[simp] theorem State.modCtx_serial (f : Ctx → Ctx) : (s.modCtx f).serial = s.serial := rfl
@[simp] theorem State.modCtx_dies (f : Ctx → Ctx) : (s.modCtx f).dies = s.dies := rfl
@[simp] theorem State.modCtx_octets (f : Ctx → Ctx) : (s.modCtx f).octets = s.octets := rfl
@[simp] theorem State.modCtx_hbm (f : Ctx → Ctx) : (s.modCtx f).hbm = s.hbm := rfl
@[simp] theorem State.modCtx_poison (f : Ctx → Ctx) : (s.modCtx f).poison = s.poison := rfl
@[simp] theorem State.modCtx_vfs (f : Ctx → Ctx) : (s.modCtx f).vfs = s.vfs := rfl
@[simp] theorem State.modCtx_launches (f : Ctx → Ctx) : (s.modCtx f).launches = s.launches := rfl
@[simp] theorem State.modCtx_net (f : Ctx → Ctx) : (s.modCtx f).net = s.net := rfl
@[simp] theorem State.modCtx_writes (f : Ctx → Ctx) : (s.modCtx f).writes = s.writes := rfl
@[simp] theorem State.modCtx_reads (f : Ctx → Ctx) : (s.modCtx f).reads = s.reads := rfl
@[simp] theorem State.modCtx_mgets (f : Ctx → Ctx) : (s.modCtx f).mgets = s.mgets := rfl
@[simp] theorem State.modCtx_targets (f : Ctx → Ctx) : (s.modCtx f).targets = s.targets := rfl
@[simp] theorem State.modCtx_host (f : Ctx → Ctx) : (s.modCtx f).host = s.host := rfl
@[simp] theorem State.modCtx_fw (f : Ctx → Ctx) : (s.modCtx f).fw = s.fw := rfl

/-! ### `setDie` -/

@[simp] theorem State.setDie_cur (d : Nat) (x : Die) : (s.setDie d x).cur = s.cur := rfl
@[simp] theorem State.setDie_curCtx (d : Nat) (x : Die) : (s.setDie d x).curCtx = s.curCtx := rfl
@[simp] theorem State.setDie_agenda (d : Nat) (x : Die) : (s.setDie d x).agenda = s.agenda := rfl
@[simp] theorem State.setDie_serial (d : Nat) (x : Die) : (s.setDie d x).serial = s.serial := rfl
@[simp] theorem State.setDie_cores (d : Nat) (x : Die) : (s.setDie d x).cores = s.cores := rfl
@[simp] theorem State.setDie_octets (d : Nat) (x : Die) : (s.setDie d x).octets = s.octets := rfl
@[simp] theorem State.setDie_hbm (d : Nat) (x : Die) : (s.setDie d x).hbm = s.hbm := rfl
@[simp] theorem State.setDie_poison (d : Nat) (x : Die) : (s.setDie d x).poison = s.poison := rfl
@[simp] theorem State.setDie_vfs (d : Nat) (x : Die) : (s.setDie d x).vfs = s.vfs := rfl
@[simp] theorem State.setDie_launches (d : Nat) (x : Die) : (s.setDie d x).launches = s.launches := rfl
@[simp] theorem State.setDie_net (d : Nat) (x : Die) : (s.setDie d x).net = s.net := rfl
@[simp] theorem State.setDie_writes (d : Nat) (x : Die) : (s.setDie d x).writes = s.writes := rfl
@[simp] theorem State.setDie_reads (d : Nat) (x : Die) : (s.setDie d x).reads = s.reads := rfl
@[simp] theorem State.setDie_mgets (d : Nat) (x : Die) : (s.setDie d x).mgets = s.mgets := rfl
@[simp] theorem State.setDie_targets (d : Nat) (x : Die) : (s.setDie d x).targets = s.targets := rfl
@[simp] theorem State.setDie_host (d : Nat) (x : Die) : (s.setDie d x).host = s.host := rfl
@[simp] theorem State.setDie_fw (d : Nat) (x : Die) : (s.setDie d x).fw = s.fw := rfl

/-! ### `modDie` -/

@[simp] theorem State.modDie_cur (d : Nat) (f : Die → Die) : (s.modDie d f).cur = s.cur := rfl
@[simp] theorem State.modDie_curCtx (d : Nat) (f : Die → Die) : (s.modDie d f).curCtx = s.curCtx := rfl
@[simp] theorem State.modDie_agenda (d : Nat) (f : Die → Die) : (s.modDie d f).agenda = s.agenda := rfl
@[simp] theorem State.modDie_serial (d : Nat) (f : Die → Die) : (s.modDie d f).serial = s.serial := rfl
@[simp] theorem State.modDie_cores (d : Nat) (f : Die → Die) : (s.modDie d f).cores = s.cores := rfl
@[simp] theorem State.modDie_octets (d : Nat) (f : Die → Die) : (s.modDie d f).octets = s.octets := rfl
@[simp] theorem State.modDie_hbm (d : Nat) (f : Die → Die) : (s.modDie d f).hbm = s.hbm := rfl
@[simp] theorem State.modDie_poison (d : Nat) (f : Die → Die) : (s.modDie d f).poison = s.poison := rfl
@[simp] theorem State.modDie_vfs (d : Nat) (f : Die → Die) : (s.modDie d f).vfs = s.vfs := rfl
@[simp] theorem State.modDie_launches (d : Nat) (f : Die → Die) : (s.modDie d f).launches = s.launches := rfl
@[simp] theorem State.modDie_net (d : Nat) (f : Die → Die) : (s.modDie d f).net = s.net := rfl
@[simp] theorem State.modDie_writes (d : Nat) (f : Die → Die) : (s.modDie d f).writes = s.writes := rfl
@[simp] theorem State.modDie_reads (d : Nat) (f : Die → Die) : (s.modDie d f).reads = s.reads := rfl
@[simp] theorem State.modDie_mgets (d : Nat) (f : Die → Die) : (s.modDie d f).mgets = s.mgets := rfl
@[simp] theorem State.modDie_targets (d : Nat) (f : Die → Die) : (s.modDie d f).targets = s.targets := rfl
@[simp] theorem State.modDie_host (d : Nat) (f : Die → Die) : (s.modDie d f).host = s.host := rfl
@[simp] theorem State.modDie_fw (d : Nat) (f : Die → Die) : (s.modDie d f).fw = s.fw := rfl

/-! ### `modOctet` -/

@[simp] theorem State.modOctet_cur (o : Nat) (f : Octet → Octet) : (s.modOctet o f).cur = s.cur := rfl
@[simp] theorem State.modOctet_curCtx (o : Nat) (f : Octet → Octet) : (s.modOctet o f).curCtx = s.curCtx := rfl
@[simp] theorem State.modOctet_agenda (o : Nat) (f : Octet → Octet) : (s.modOctet o f).agenda = s.agenda := rfl
@[simp] theorem State.modOctet_serial (o : Nat) (f : Octet → Octet) : (s.modOctet o f).serial = s.serial := rfl
@[simp] theorem State.modOctet_cores (o : Nat) (f : Octet → Octet) : (s.modOctet o f).cores = s.cores := rfl
@[simp] theorem State.modOctet_dies (o : Nat) (f : Octet → Octet) : (s.modOctet o f).dies = s.dies := rfl
@[simp] theorem State.modOctet_hbm (o : Nat) (f : Octet → Octet) : (s.modOctet o f).hbm = s.hbm := rfl
@[simp] theorem State.modOctet_poison (o : Nat) (f : Octet → Octet) : (s.modOctet o f).poison = s.poison := rfl
@[simp] theorem State.modOctet_vfs (o : Nat) (f : Octet → Octet) : (s.modOctet o f).vfs = s.vfs := rfl
@[simp] theorem State.modOctet_launches (o : Nat) (f : Octet → Octet) : (s.modOctet o f).launches = s.launches := rfl
@[simp] theorem State.modOctet_net (o : Nat) (f : Octet → Octet) : (s.modOctet o f).net = s.net := rfl
@[simp] theorem State.modOctet_writes (o : Nat) (f : Octet → Octet) : (s.modOctet o f).writes = s.writes := rfl
@[simp] theorem State.modOctet_reads (o : Nat) (f : Octet → Octet) : (s.modOctet o f).reads = s.reads := rfl
@[simp] theorem State.modOctet_mgets (o : Nat) (f : Octet → Octet) : (s.modOctet o f).mgets = s.mgets := rfl
@[simp] theorem State.modOctet_targets (o : Nat) (f : Octet → Octet) : (s.modOctet o f).targets = s.targets := rfl
@[simp] theorem State.modOctet_host (o : Nat) (f : Octet → Octet) : (s.modOctet o f).host = s.host := rfl
@[simp] theorem State.modOctet_fw (o : Nat) (f : Octet → Octet) : (s.modOctet o f).fw = s.fw := rfl

/-! ### `post` -/

@[simp] theorem State.post_cur (i : Flight) : (s.post i).cur = s.cur := rfl
@[simp] theorem State.post_curCtx (i : Flight) : (s.post i).curCtx = s.curCtx := rfl
@[simp] theorem State.post_agenda (i : Flight) : (s.post i).agenda = s.agenda := rfl
@[simp] theorem State.post_serial (i : Flight) : (s.post i).serial = s.serial := rfl
@[simp] theorem State.post_cores (i : Flight) : (s.post i).cores = s.cores := rfl
@[simp] theorem State.post_dies (i : Flight) : (s.post i).dies = s.dies := rfl
@[simp] theorem State.post_octets (i : Flight) : (s.post i).octets = s.octets := rfl
@[simp] theorem State.post_hbm (i : Flight) : (s.post i).hbm = s.hbm := rfl
@[simp] theorem State.post_poison (i : Flight) : (s.post i).poison = s.poison := rfl
@[simp] theorem State.post_vfs (i : Flight) : (s.post i).vfs = s.vfs := rfl
@[simp] theorem State.post_launches (i : Flight) : (s.post i).launches = s.launches := rfl
@[simp] theorem State.post_writes (i : Flight) : (s.post i).writes = s.writes := rfl
@[simp] theorem State.post_reads (i : Flight) : (s.post i).reads = s.reads := rfl
@[simp] theorem State.post_mgets (i : Flight) : (s.post i).mgets = s.mgets := rfl
@[simp] theorem State.post_targets (i : Flight) : (s.post i).targets = s.targets := rfl
@[simp] theorem State.post_host (i : Flight) : (s.post i).host = s.host := rfl
@[simp] theorem State.post_fw (i : Flight) : (s.post i).fw = s.fw := rfl

/-! ### `pfEvent` -/

@[simp] theorem State.pfEvent_cur (e : PfEvent) : (s.pfEvent e).cur = s.cur := rfl
@[simp] theorem State.pfEvent_curCtx (e : PfEvent) : (s.pfEvent e).curCtx = s.curCtx := rfl
@[simp] theorem State.pfEvent_agenda (e : PfEvent) : (s.pfEvent e).agenda = s.agenda := rfl
@[simp] theorem State.pfEvent_serial (e : PfEvent) : (s.pfEvent e).serial = s.serial := rfl
@[simp] theorem State.pfEvent_cores (e : PfEvent) : (s.pfEvent e).cores = s.cores := rfl
@[simp] theorem State.pfEvent_dies (e : PfEvent) : (s.pfEvent e).dies = s.dies := rfl
@[simp] theorem State.pfEvent_octets (e : PfEvent) : (s.pfEvent e).octets = s.octets := rfl
@[simp] theorem State.pfEvent_hbm (e : PfEvent) : (s.pfEvent e).hbm = s.hbm := rfl
@[simp] theorem State.pfEvent_poison (e : PfEvent) : (s.pfEvent e).poison = s.poison := rfl
@[simp] theorem State.pfEvent_vfs (e : PfEvent) : (s.pfEvent e).vfs = s.vfs := rfl
@[simp] theorem State.pfEvent_launches (e : PfEvent) : (s.pfEvent e).launches = s.launches := rfl
@[simp] theorem State.pfEvent_net (e : PfEvent) : (s.pfEvent e).net = s.net := rfl
@[simp] theorem State.pfEvent_writes (e : PfEvent) : (s.pfEvent e).writes = s.writes := rfl
@[simp] theorem State.pfEvent_reads (e : PfEvent) : (s.pfEvent e).reads = s.reads := rfl
@[simp] theorem State.pfEvent_mgets (e : PfEvent) : (s.pfEvent e).mgets = s.mgets := rfl
@[simp] theorem State.pfEvent_targets (e : PfEvent) : (s.pfEvent e).targets = s.targets := rfl
@[simp] theorem State.pfEvent_fw (e : PfEvent) : (s.pfEvent e).fw = s.fw := rfl

/-! ### Reads of parts after writes -/

@[simp] theorem State.core_setCore (c : Nat) (x : Core) : (s.setCore c x).core c = x := by simp [State.core, State.setCore]
theorem State.core_setCore_other {c b : Nat} (x : Core) (h : b ≠ c) : (s.setCore c x).core b = s.core b := by
  simp [State.core, State.setCore, tget_tput_other _ _ _ h]
@[simp] theorem State.core_modCore (c : Nat) (f : Core → Core) : (s.modCore c f).core c = f (s.core c) := by
  simp [State.modCore]
theorem State.core_modCore_other {c b : Nat} (f : Core → Core) (h : b ≠ c) : (s.modCore c f).core b = s.core b := by
  simp [State.modCore, State.core_setCore_other s _ h]
@[simp] theorem State.setCore_setCore (c : Nat) (x y : Core) : (s.setCore c x).setCore c y = s.setCore c y := by
  simp [State.setCore]
@[simp] theorem State.modCore_modCore (c : Nat) (f g : Core → Core) :
    (s.modCore c f).modCore c g = s.modCore c fun k => g (f k) := by
  simp [State.modCore]
@[simp] theorem State.die_setDie (d : Nat) (x : Die) : (s.setDie d x).die d = x := by simp [State.die, State.setDie]
theorem State.die_setDie_other {d b : Nat} (x : Die) (h : b ≠ d) : (s.setDie d x).die b = s.die b := by
  simp [State.die, State.setDie, tget_tput_other _ _ _ h]
@[simp] theorem State.die_modDie (d : Nat) (f : Die → Die) : (s.modDie d f).die d = f (s.die d) := by simp [State.modDie]
theorem State.die_modDie_other {d b : Nat} (f : Die → Die) (h : b ≠ d) : (s.modDie d f).die b = s.die b := by
  simp [State.modDie, State.die_setDie_other s _ h]
@[simp] theorem State.octet_modOctet (o : Nat) (f : Octet → Octet) : (s.modOctet o f).octet o = f (s.octet o) := by
  simp [State.octet, State.modOctet]
theorem State.octet_modOctet_other {o b : Nat} (f : Octet → Octet) (h : b ≠ o) : (s.modOctet o f).octet b = s.octet b := by
  simp [State.octet, State.modOctet, tget_tput_other _ _ _ h]

@[simp] theorem State.core_modDie (c d : Nat) (f : Die → Die) : (s.modDie d f).core c = s.core c := rfl
@[simp] theorem State.core_setDie (c d : Nat) (x : Die) : (s.setDie d x).core c = s.core c := rfl
@[simp] theorem State.core_modOctet (c o : Nat) (f : Octet → Octet) : (s.modOctet o f).core c = s.core c := rfl
@[simp] theorem State.core_post (c : Nat) (i : Flight) : (s.post i).core c = s.core c := rfl
@[simp] theorem State.die_setCore (c d : Nat) (x : Core) : (s.setCore c x).die d = s.die d := rfl
@[simp] theorem State.die_modCore (c d : Nat) (f : Core → Core) : (s.modCore c f).die d = s.die d := rfl
@[simp] theorem State.die_setCtx (d : Nat) (v : Ctx) : (s.setCtx v).die d = s.die d := rfl
@[simp] theorem State.die_modCtx (d : Nat) (f : Ctx → Ctx) : (s.modCtx f).die d = s.die d := rfl
@[simp] theorem State.die_post (d : Nat) (i : Flight) : (s.post i).die d = s.die d := rfl
@[simp] theorem State.die_modOctet (d o : Nat) (f : Octet → Octet) : (s.modOctet o f).die d = s.die d := rfl
@[simp] theorem State.octet_setCore (c o : Nat) (x : Core) : (s.setCore c x).octet o = s.octet o := rfl
@[simp] theorem State.octet_modCore (c o : Nat) (f : Core → Core) : (s.modCore c f).octet o = s.octet o := rfl
@[simp] theorem State.octet_setCtx (o : Nat) (v : Ctx) : (s.setCtx v).octet o = s.octet o := rfl
@[simp] theorem State.octet_modCtx (o : Nat) (f : Ctx → Ctx) : (s.modCtx f).octet o = s.octet o := rfl
@[simp] theorem State.vf_setCtx (n : Nat) (v : Ctx) : (s.setCtx v).vf n = s.vf n := rfl
@[simp] theorem State.vf_modCtx (n : Nat) (f : Ctx → Ctx) : (s.modCtx f).vf n = s.vf n := rfl
@[simp] theorem State.vf_modCore (n c : Nat) (f : Core → Core) : (s.modCore c f).vf n = s.vf n := rfl
@[simp] theorem State.vf_post (n : Nat) (i : Flight) : (s.post i).vf n = s.vf n := rfl

@[simp] theorem State.ctxAt_setCtxAt (c x : Nat) (v : Ctx) : (s.setCtxAt c x v).ctxAt c x = v := by
  simp [State.ctxAt, State.setCtxAt]
/-- Writing a context leaves every other context. -/
theorem State.ctxAt_setCtxAt_other {c x b y : Nat} (v : Ctx) (h : b ≠ c ∨ y ≠ x) :
    (s.setCtxAt c x v).ctxAt b y = s.ctxAt b y := by
  by_cases hb : b = c
  · subst hb
    simp [State.ctxAt, State.setCtxAt, tget_tput_other _ _ _ (h.resolve_left (by simp))]
  · simp [State.ctxAt, State.setCtxAt, State.core_modCore_other s _ hb]
@[simp] theorem State.ctx_setCtx (v : Ctx) : (s.setCtx v).ctx = v := by
  simp [State.ctx, State.setCtx, State.setCtxAt, State.ctxAt, State.modCore, State.setCore, State.core]
@[simp] theorem State.ctx_modCtx (f : Ctx → Ctx) : (s.modCtx f).ctx = f s.ctx := by simp [State.modCtx]
@[simp] theorem State.setCtx_setCtx (v w : Ctx) : (s.setCtx v).setCtx w = s.setCtx w := by
  simp [State.setCtx, State.setCtxAt]
@[simp] theorem State.modCtx_setCtx (v : Ctx) (f : Ctx → Ctx) : (s.setCtx v).modCtx f = s.setCtx (f v) := by
  simp [State.modCtx]
@[simp] theorem State.setCtx_modCtx (f : Ctx → Ctx) (v : Ctx) : (s.modCtx f).setCtx v = s.setCtx v := by
  simp [State.modCtx]
@[simp] theorem State.modCtx_modCtx (f g : Ctx → Ctx) : (s.modCtx f).modCtx g = s.modCtx fun x => g (f x) := by
  simp [State.modCtx]
@[simp] theorem State.ctx_modDie (d : Nat) (f : Die → Die) : (s.modDie d f).ctx = s.ctx := rfl
@[simp] theorem State.ctx_modOctet (o : Nat) (f : Octet → Octet) : (s.modOctet o f).ctx = s.ctx := rfl
@[simp] theorem State.ctx_post (i : Flight) : (s.post i).ctx = s.ctx := rfl
@[simp] theorem State.myVf_setCtx (v : Ctx) : (s.setCtx v).myVf = s.vf v.id.vf := by simp [State.myVf]
@[simp] theorem State.myDie_setCtx (v : Ctx) : (s.setCtx v).myDie = s.myDie := rfl
@[simp] theorem State.myDie_modCtx (f : Ctx → Ctx) : (s.modCtx f).myDie = s.myDie := rfl

/-- Writing the executing context leaves a core's scratchpad. -/
@[simp] theorem State.spad_setCtx (v : Ctx) (c : Nat) : ((s.setCtx v).core c).spad = (s.core c).spad := by
  by_cases h : c = s.cur
  · subst h; simp [State.setCtx, State.setCtxAt]
  · simp [State.setCtx, State.setCtxAt, State.core_modCore_other s _ h]
/-- Changing the executing context leaves a core's scratchpad. -/
@[simp] theorem State.spad_modCtx (f : Ctx → Ctx) (c : Nat) : ((s.modCtx f).core c).spad = (s.core c).spad := by
  simp [State.modCtx]

end Sys2Proof.Machine
end

