-- ==== Sys2Proof/Laws/Execute.lean ====
section
/-!
SUPPORT. Laws of the frame of execution: an admitted word runs its body on the counted state; what retiring leaves; what a scalar
write does.
-/

namespace Sys2Proof.Machine

variable {s s' : State} {i : Ins}

/-- What admission says, part by part. -/
theorem State.admits_iff : s.admits i = true ↔
    s.ctx.status = .running ∧ accepts s.ctx.hints i.word = true ∧ repAllows s.ctx i.word = true ∧
    i.ill = false ∧ (s.ctx.accf = [] ∨ ¬ (bits i.word 26 6 = 0x3B ∨ bits i.word 26 6 = 0x3C)) ∧ svcOk s.level i.word = true ∧
    unallotted s.ctx (i.reads ++ i.writes) = none ∧ (i.reads ++ i.writes).any s.awaits = false ∧
    s.ctx.region.violates i.reads i.early = none ∧ (i.once = false ∨ s.ctx.tagUnion i.reads = 0) := by
  simp [State.admits, and_assoc]

/-- An admitted word passes the shared checks. -/
theorem prelude_admitted (h : s.admits i = true) : prelude i s = .ok (s.counted i) := by
  obtain ⟨-, h1, h2, hi, h3, h4, h5, h6, h7, h8⟩ := State.admits_iff.1 h
  have ht : track s i.reads (if i.ends then [] else i.writes) = .ok (s.counted i) := by
    have : s.ctx.region.violates i.reads (if i.ends then [] else i.writes) = none := h7
    simp only [track, this]; rfl
  have hw : waitFor (!((i.reads ++ i.writes).any s.awaits)) = .ok () := by rw [h6]; rfl
  have ha : bits i.word 26 6 = 0x3B ∨ bits i.word 26 6 = 0x3C → accfTrap s = .ok () := fun ho => by
    simp [accfTrap, h3.resolve_right (not_not.2 ho)]
  rcases h8 with h8 | h8 <;>
    simp +contextual [prelude, h1, h2, hi, h4, h5, h8, ht, hw, ha, bind, Except.bind, pure, Except.pure, -List.any_append]

/-- An admitted word whose body succeeds retires. -/
theorem execute_admitted {body : State → Act (State × Word)} {pc : Word} (h : s.admits i = true)
    (hb : body (s.counted i) = .ok (s', pc)) : execute i body s = .next (retire i s' pc) := by
  have hr := (State.admits_iff.1 h).1
  simp [execute, hr, prelude_admitted h, Except.bind, hb]

/-- An admitted word whose body stops is settled: it parks, waits, or goes back to its region's start. -/
theorem execute_stopped {body : State → Act (State × Word)} {st : Stop} (h : s.admits i = true)
    (hb : body (s.counted i) = .error st) : execute i body s = .next (settle i.word s st) := by
  have hr := (State.admits_iff.1 h).1
  simp [execute, hr, prelude_admitted h, Except.bind, hb]

/-- The same for a word that goes on to the next. -/
theorem onward_admitted {body : State → Act State} (h : s.admits i = true) (hb : body (s.counted i) = .ok s') :
    onward i body s = .next (retire i s' (pc4 (s.counted i))) :=
  execute_admitted h (by simp [hb, Except.bind])

/-- The same for a word whose body stops. -/
theorem onward_stopped {body : State → Act State} {st : Stop} (h : s.admits i = true)
    (hb : body (s.counted i) = .error st) : onward i body s = .next (settle i.word s st) :=
  execute_stopped h (by simp [hb, Except.bind])

/-- No word of a running context stops the machine. -/
theorem execute_next (body : State → Act (State × Word)) (h : s.ctx.status = .running) : ∃ t, execute i body s = .next t := by
  unfold execute
  rw [if_pos h]
  split <;> exact ⟨_, rfl⟩

/-- The same for a word that goes on to the next. -/
theorem onward_next (body : State → Act State) (h : s.ctx.status = .running) : ∃ t, onward i body s = .next t :=
  execute_next _ h

/-! ## The counted state -/

section
variable (x : Ctx)
@[simp] theorem countedCtx_fields : (x.counted i).status = x.status ∧ (x.counted i).id = x.id ∧ (x.counted i).pc = x.pc ∧
    (x.counted i).regs = x.regs ∧ (x.counted i).handles = x.handles ∧ (x.counted i).sp = x.sp ∧ (x.counted i).lift = x.lift ∧
    (x.counted i).hints = x.hints ∧ (x.counted i).prio = x.prio ∧ (x.counted i).park = x.park ∧ (x.counted i).rep = x.rep ∧
    (x.counted i).barsy = x.barsy ∧ (x.counted i).wait = x.wait ∧ (x.counted i).held = x.held ∧ (x.counted i).rel = x.rel ∧
    (x.counted i).pages = x.pages ∧ (x.counted i).copyFail = x.copyFail ∧ (x.counted i).accf = x.accf ∧
    (x.counted i).tmo = x.tmo ∧ (x.counted i).sta = x.sta ∧ (x.counted i).stall = x.stall ∧ (x.counted i).bad = x.bad ∧
    (x.counted i).dups = x.dups := by simp [Ctx.counted]
@[simp] theorem countedCtx_sreg (n : Nat) : (x.counted i).sreg n = x.sreg n := rfl
@[simp] theorem countedCtx_vreg (n : Nat) : (x.counted i).vreg n = x.vreg n := rfl
@[simp] theorem countedCtx_preg (n : Nat) : (x.counted i).preg n = x.preg n := rfl
@[simp] theorem countedCtx_kreg (n : Nat) : (x.counted i).kreg n = x.kreg n := rfl
@[simp] theorem countedCtx_sv (n : Nat) : (x.counted i).sv n = x.sv n := rfl
@[simp] theorem countedCtx_tagsOf (c : Nat) : (x.counted i).tagsOf c = x.tagsOf c := rfl
@[simp] theorem countedCtx_tagUnion (cs : List Nat) : (x.counted i).tagUnion cs = x.tagUnion cs := rfl
@[simp] theorem countedCtx_save (c : Nat) : (x.counted i).save c = x.save c := rfl
@[simp] theorem countedCtx_instRegs : (x.counted i).instRegs = x.instRegs := rfl
/-- Counting a word changes only the region record. -/
theorem countedCtx_keeps (codes : List Nat) : x.Keeps (x.counted i) codes := by constructor <;> simp
end

@[simp] theorem counted_ctx : (s.counted i).ctx = s.ctx.counted i := by simp [State.counted]
@[simp] theorem counted_pc4 : pc4 (s.counted i) = pc4 s := by simp [pc4]
@[simp] theorem counted_cur : (s.counted i).cur = s.cur := rfl
@[simp] theorem counted_myVf : (s.counted i).myVf = s.myVf := by simp [State.myVf, State.counted]
@[simp] theorem counted_vf (n : Nat) : (s.counted i).vf n = s.vf n := rfl
@[simp] theorem counted_die (d : Nat) : (s.counted i).die d = s.die d := rfl
@[simp] theorem counted_setCtx (v : Ctx) : (s.counted i).setCtx v = s.setCtx v := by simp [State.counted]
@[simp] theorem counted_modCtx (f : Ctx → Ctx) : (s.counted i).modCtx f = s.setCtx (f (s.ctx.counted i)) := by
  simp [State.counted, State.modCtx]
@[simp] theorem counted_spad (c : Nat) : ((s.counted i).core c).spad = (s.core c).spad := by simp [State.counted]
theorem counted_eq : s.counted i = s.setCtx (s.ctx.counted i) := rfl

/-! ## Retiring -/

/-- What retiring leaves of a running context (R52, R252). -/
theorem retire_running {pc : Word} (h : s.ctx.status = .running) : retire i s pc = s.modCtx fun x =>
    let y := { x with pc := pc, hints := {}, wait := .ready, tmo := false, held := none, rel := none, sta := none,
                      rep := stepRep i.word x.rep }
    if i.ends then y.endRegion i.writes else y := by
  simp [retire, h]

/-- Retiring changes nothing of the machine but the executing context. -/
theorem retire_onlyCtx {pc : Word} (h : s.ctx.status = .running) : s.onlyCtx (retire i s pc) :=
  .inl (by simp [retire_running h, State.modCtx])

@[simp] theorem endRegion_fields (x : Ctx) (ws : List Nat) : (x.endRegion ws).pc = x.pc ∧ (x.endRegion ws).regs = x.regs ∧
    (x.endRegion ws).sp = x.sp ∧ (x.endRegion ws).lift = x.lift ∧ (x.endRegion ws).handles = x.handles ∧
    (x.endRegion ws).id = x.id ∧ (x.endRegion ws).status = x.status ∧ (x.endRegion ws).prio = x.prio ∧
    (x.endRegion ws).park = x.park ∧ (x.endRegion ws).barsy = x.barsy ∧ (x.endRegion ws).pages = x.pages ∧
    (x.endRegion ws).copyFail = x.copyFail ∧ (x.endRegion ws).accf = x.accf ∧ (x.endRegion ws).hints = x.hints ∧
    (x.endRegion ws).bad = x.bad := by
  simp [Ctx.endRegion]

@[simp] theorem endRegion_save (x : Ctx) (ws : List Nat) (c : Nat) : (x.endRegion ws).save c = x.save c := rfl

/-- A register as kept depends on the register files alone. -/
theorem save_congr {x y : Ctx} (h : y.regs = x.regs) (c : Nat) : y.save c = x.save c := by
  simp only [Ctx.save, Ctx.sreg, Ctx.vreg, Ctx.preg, Ctx.kreg, h]

/-- A context is kept when its registers and its other kept fields are. -/
theorem keeps_of {x y : Ctx} (codes : List Nat) (regs : y.regs = x.regs) (handles : y.handles = x.handles) (sp : y.sp = x.sp)
    (lift : y.lift = x.lift) (id : y.id = x.id) (status : y.status = x.status) (prio : y.prio = x.prio)
    (park : y.park = x.park) (barsy : y.barsy = x.barsy) (pages : y.pages = x.pages) (copyFail : y.copyFail = x.copyFail)
    (accf : y.accf = x.accf) (bad : ∀ b ∈ y.bad, b ∈ x.bad) : x.Keeps y codes :=
  ⟨fun c _ _ => save_congr regs c, handles, sp, lift, id, status, prio, park, barsy, pages, copyFail, accf, bad⟩

/-- A context keeps itself. -/
theorem keeps_refl (x : Ctx) (codes : List Nat) : x.Keeps x codes := by constructor <;> simp

/-- Retiring changes no register and nothing else that a word keeps. -/
theorem retire_keeps {pc : Word} (h : s.ctx.status = .running) (codes : List Nat) :
    s.ctx.Keeps (retire i s pc).ctx codes ∧ (retire i s pc).ctx.pc = pc := by
  rw [retire_running h]
  simp only [State.ctx_modCtx]
  split <;> exact ⟨⟨fun _ _ _ => rfl, rfl, rfl, rfl, rfl, rfl, rfl, rfl, rfl, rfl, rfl, rfl, fun _ hb => hb⟩, rfl⟩

/-- Retiring changes no register. -/
theorem retire_regs {pc : Word} (h : s.ctx.status = .running) : (retire i s pc).ctx.regs = s.ctx.regs := by
  rw [retire_running h]
  simp only [State.ctx_modCtx]
  split <;> rfl

/-- What one step keeps and the next keeps, both keep. -/
theorem keeps_trans {x y z : Ctx} {codes : List Nat} (h : x.Keeps y codes) (g : y.Keeps z codes) : x.Keeps z codes := by
  constructor
  · intro c hc hn; rw [g.regs c hc hn, h.regs c hc hn]
  all_goals first
    | rw [g.handles, h.handles] | rw [g.sp, h.sp] | rw [g.lift, h.lift] | rw [g.id, h.id] | rw [g.status, h.status]
    | rw [g.prio, h.prio] | rw [g.park, h.park] | rw [g.barsy, h.barsy] | rw [g.pages, h.pages]
    | rw [g.copyFail, h.copyFail] | rw [g.accf, h.accf] | exact fun b hb => h.bad b (g.bad b hb)

/-! ## Register files -/

@[simp] theorem noteTags_fields (x : Ctx) (c a b : Nat) : (x.noteTags c a b).regs = x.regs ∧ (x.noteTags c a b).sp = x.sp ∧
    (x.noteTags c a b).lift = x.lift ∧ (x.noteTags c a b).handles = x.handles ∧ (x.noteTags c a b).id = x.id ∧
    (x.noteTags c a b).status = x.status ∧ (x.noteTags c a b).prio = x.prio ∧ (x.noteTags c a b).park = x.park ∧
    (x.noteTags c a b).barsy = x.barsy ∧ (x.noteTags c a b).pages = x.pages ∧ (x.noteTags c a b).copyFail = x.copyFail ∧
    (x.noteTags c a b).accf = x.accf ∧ (x.noteTags c a b).pc = x.pc ∧ (x.noteTags c a b).hints = x.hints ∧
    (x.noteTags c a b).bad = x.bad ∧ (x.noteTags c a b).dups = x.dups ∧ (x.noteTags c a b).held = x.held := by
  unfold Ctx.noteTags; split <;> simp

/-- A scalar register after a write of it; s0 reads zero (R41). -/
@[simp] theorem sreg_putS_same (x : Ctx) (n : Nat) (v : Tagged Word) :
    (x.putS n v).sreg n = if n = 0 then plain 0 else v := by
  by_cases h : n = 0 <;> simp [Ctx.putS, Ctx.sreg, h]

/-- Writing a scalar register changes no other register and nothing else. -/
theorem putS_keeps (x : Ctx) (n : Nat) (v : Tagged Word) : x.Keeps (x.putS n v) [sCode n] := by
  by_cases h : n = 0
  · simp only [Ctx.putS, h, if_true]; exact keeps_refl x _
  · constructor
    · intro c hc hn
      have hne : c ≠ n := by simpa [sCode] using hn
      have hm : c / 64 = 0 → c % 64 = c := fun h0 => by omega
      unfold Ctx.save
      have : c / 64 = 0 ∨ c / 64 = 1 ∨ c / 64 = 2 ∨ c / 64 = 3 := by omega
      rcases this with h0 | h0 | h0 | h0
      · have h1 : c % 64 ≠ n := by rw [hm h0]; exact hne
        simp [h0, Ctx.putS, h, Ctx.sreg, tget_tput_other _ _ _ h1]
      · simp [h0, Ctx.putS, h, Ctx.vreg]
      · simp [h0, Ctx.putS, h, Ctx.preg]
      · simp [h0, Ctx.putS, h, Ctx.kreg]
    all_goals simp [Ctx.putS, h]

@[simp] theorem putS_held (x : Ctx) (n : Nat) (v : Tagged Word) : (x.putS n v).held = x.held := by
  by_cases h : n = 0 <;> simp [Ctx.putS, h]
@[simp] theorem putS_dups (x : Ctx) (n : Nat) (v : Tagged Word) : (x.putS n v).dups = x.dups := by
  by_cases h : n = 0 <;> simp [Ctx.putS, h]
@[simp] theorem putS_status (x : Ctx) (n : Nat) (v : Tagged Word) : (x.putS n v).status = x.status := (putS_keeps x n v).status

/-! ## Room in the vector pool (R368, R369) -/

/-- The live contexts of a core see of a context only its status, its identity and the registers that hold its instances. -/
theorem live_fold_congr {β : Type} (f : β → Nat × Ctx → β) (k : Nat) {v w : Ctx} (hs : (v.status != .free) = (w.status != .free))
    (hf : ∀ b, f b (k, v) = f b (k, w)) (m : Table Ctx) (b : β) :
    ((tput m k v).filter fun p => p.2.status != .free).foldl f b = ((tput m k w).filter fun p => p.2.status != .free).foldl f b := by
  induction m generalizing b with
  | nil => simp only [tput, List.filter, hs]; split <;> simp [hf]
  | cons e m ih =>
    obtain ⟨j, u⟩ := e
    by_cases h : j = k
    · simp only [tput, if_pos h, List.filter, hs]; split <;> simp [hf]
    · by_cases h2 : k < j
      · simp only [tput, if_neg h, if_pos h2, List.filter, hs]; split <;> simp [hf]
      · simp only [tput, if_neg h, if_neg h2, List.filter]; split <;> simp [ih]

/-- The pool's use sees of the executing context only its status, its identity and the registers that hold its instances. -/
theorem poolUsed_setCtx_congr (s : State) {v w : Ctx} (hs : v.status = w.status) (hi : v.id = w.id)
    (hr : v.instRegs = w.instRegs) : (s.setCtx v).poolUsed s.cur = (s.setCtx w).poolUsed s.cur := by
  have hl : ∀ {β : Type} (f : β → Nat × Ctx → β), (∀ b, f b (s.curCtx, v) = f b (s.curCtx, w)) → ∀ b,
      (((s.setCtx v).core s.cur).live).foldl f b = (((s.setCtx w).core s.cur).live).foldl f b := by
    intro β f hf b
    simp only [Core.live, State.setCtx, State.setCtxAt, State.core_modCore]
    exact live_fold_congr f _ (by rw [hs]) hf _ b
  have hn : ∀ x : Ctx, (s.setCtx x).nodesOn s.cur = s.nodesOn s.cur := fun _ => rfl
  simp only [State.poolUsed, hn]
  congr 1
  · congr 1
    · congr 1
      funext acc n
      rw [hl]
      intro b; simp [hi]
    · exact hl _ (by intro b; simp only [hi]) 0
  · exact hl _ (by intro b; simp only [hr]) 0

@[simp] theorem putS_counted_instRegs (x : Ctx) (n : Nat) (v : Tagged Word) :
    ((x.counted i).putS n v).instRegs = (x.putS n v).instRegs := by
  by_cases h : n = 0 <;> simp [Ctx.putS, h, Ctx.instRegs]

/-- Room does not depend on the region record. -/
theorem roomFor_counted {n : Nat} {v : Tagged Word} (h : s.roomFor (s.ctx.putS n v)) :
    ((s.ctx.counted i).putS n v).instRegs ≤ s.ctx.instRegs ∨ (s.setCtx ((s.ctx.counted i).putS n v)).poolUsed s.cur ≤ 256 := by
  rcases h with h | h
  · left; simpa using h
  · right
    rw [poolUsed_setCtx_congr s (w := s.ctx.putS n v)] <;> simp_all [(putS_keeps _ _ _).id]

/-- Trimming the duplicates of a table of contexts changes nothing of a context but its duplicates. -/
theorem tget_trimDups (room k : Nat) (m : Table Ctx) : ∃ d, tget (trimDups room m) {} k = { tget m {} k with dups := d } := by
  induction m generalizing room with
  | nil => exact ⟨[], rfl⟩
  | cons e m ih =>
    obtain ⟨j, x⟩ := e
    have hx : ∀ (p : Prop) [Decidable p] (d : List Duplicate), ∃ d', (if p then x else { x with dups := d }) = { x with dups := d' } :=
      fun p _ d => by by_cases h : p <;> simp only [h, if_true, if_false] <;> first | exact ⟨x.dups, rfl⟩ | exact ⟨d, rfl⟩
    by_cases h : j = k
    · simp only [trimDups, tget, tlook, if_pos h, Option.getD_some]; exact hx _ _
    · simp only [trimDups, tget, tlook, if_neg h]; exact ih _

/-- Trimming duplicates changes nothing of the executing context but its duplicates (R122). -/
theorem trim_ctx (s : State) : ∃ d, (s.trim s.cur).ctx = { s.ctx with dups := d } := by
  unfold State.trim
  split
  · exact ⟨s.ctx.dups, rfl⟩
  · simpa [State.ctx, State.ctxAt, Core.trim] using tget_trimDups (256 - (s.core s.cur).heldRegs) s.curCtx (s.core s.cur).ctxs

@[simp] theorem trim_cur (s : State) (c : Nat) : (s.trim c).cur = s.cur := by unfold State.trim; split <;> rfl
@[simp] theorem trim_curCtx (s : State) (c : Nat) : (s.trim c).curCtx = s.curCtx := by unfold State.trim; split <;> rfl

/-- The state with the executing context replaced, and perhaps duplicates discarded for it (R122). -/
def State.withCtx (s : State) (y : Ctx) (t : State) : Prop := t = s.setCtx y ∨ t = (s.setCtx y).trim s.cur

/-- The executing context is then the new one, but for its duplicates. -/
theorem State.withCtx.ctx {s t : State} {y : Ctx} (h : s.withCtx y t) : ∃ d, t.ctx = { y with dups := d } := by
  rcases h with rfl | rfl
  · exact ⟨y.dups, by simp⟩
  · simpa using trim_ctx (s.setCtx y)

/-- A write of the executing context that finds room (R369). -/
theorem poolCheck_room {y : Ctx} (h : y.instRegs ≤ s.ctx.instRegs ∨ (s.setCtx y).poolUsed s.cur ≤ 256) :
    ∃ t, poolCheck (s.counted i) (s.setCtx y) = .ok t ∧ s.withCtx y t := by
  unfold poolCheck
  rw [State.ctx_setCtx, counted_ctx, countedCtx_instRegs, counted_cur]
  by_cases hle : y.instRegs ≤ s.ctx.instRegs
  · exact ⟨_, if_pos hle, .inl rfl⟩
  · exact ⟨_, by rw [if_neg hle, if_pos (h.resolve_left hle)], .inr rfl⟩

/-- A change of a register in the counted state. -/
theorem counted_putS {d S : Nat} {res : Nat → Word} :
    (s.counted i).modCtx (fun x => x.putS d (writeTagged x.lift (x.sreg d) S res)) =
      s.setCtx ((s.ctx.counted i).putS d (writeTagged s.ctx.lift (s.ctx.sreg d) S res)) := by
  rw [counted_modCtx, countedCtx_sreg, (countedCtx_fields s.ctx).2.2.2.2.2.2.1]

/-- A scalar write that finds room (R369, R370). -/
theorem writeS_room {d S : Nat} {res : Nat → Word}
    (h : s.roomFor (s.ctx.putS d (writeTagged s.ctx.lift (s.ctx.sreg d) S res))) :
    ∃ t, writeS (s.counted i) d S res = .ok t ∧
      s.withCtx ((s.ctx.counted i).putS d (writeTagged s.ctx.lift (s.ctx.sreg d) S res)) t := by
  have hp := poolCheck_room (i := i) (roomFor_counted (i := i) h)
  rw [← counted_putS] at hp
  unfold writeS
  split
  · next hd => exact ⟨_, rfl, .inl (by simp only [Ctx.putS, if_pos hd]; rfl)⟩
  · exact hp

/-- An admitted word that changes only the executing context, and of it only the listed registers. -/
theorem onward_quiet {body : State → Act State} {y : Ctx} {codes : List Nat} (h : s.admits i = true)
    (hb : body (s.counted i) = .ok s') (hy : s.withCtx y s') (hk : s.ctx.Keeps y codes) (hh : y.held = s.ctx.held)
    (hd : y.dups = s.ctx.dups) :
    ∃ t, onward i body s = .next t ∧ t.ctx.regs = y.regs ∧ s.quiet t codes := by
  have hr := (State.admits_iff.1 h).1
  obtain ⟨d, hx⟩ := hy.ctx
  have hs : s'.ctx.status = .running := by rw [hx]; exact hk.status.trans hr
  have hregs : (retire i s' (pc4 (s.counted i))).ctx.regs = y.regs := by rw [retire_regs hs, hx]
  refine ⟨_, onward_admitted h hb, hregs, ?_, ?_, ?_⟩
  · obtain ⟨v, hv⟩ : ∃ v, retire i s' (pc4 (s.counted i)) = s'.setCtx v := ⟨_, retire_running hs⟩
    rcases hy with rfl | rfl
    · left; rw [hv]; simp
    · right
      exact ⟨y, hregs.symm, hk.id, hd, .inl hh, by rw [hv]; simp⟩
  · have := (retire_keeps (i := i) (pc := pc4 (s.counted i)) hs codes).1
    refine keeps_trans hk (keeps_trans ?_ this)
    rw [hx]
    exact keeps_of codes rfl rfl rfl rfl rfl rfl rfl rfl rfl rfl rfl rfl fun _ hb => hb
  · rw [(retire_keeps (i := i) (pc := pc4 (s.counted i)) hs codes).2, counted_pc4]

/-- A scalar instruction whose result finds room writes it, and only it (R106, R370). -/
theorem onward_writeS {d S : Nat} {res : Nat → Word} {body : State → Act State} (h : s.admits i = true)
    (hb : body (s.counted i) = writeS (s.counted i) d S res)
    (hr : s.roomFor (s.ctx.putS d (writeTagged s.ctx.lift (s.ctx.sreg d) S res))) :
    ∃ t, onward i body s = .next t
      ∧ t.ctx.sreg d = (if d = 0 then plain 0 else writeTagged s.ctx.lift (s.ctx.sreg d) S res) ∧ s.quiet t [sCode d] := by
  obtain ⟨u, hu, hw⟩ := writeS_room (i := i) hr
  obtain ⟨t, h1, h2, h3⟩ := onward_quiet h (hb.trans hu) hw
    (keeps_trans (countedCtx_keeps (i := i) s.ctx _) (putS_keeps _ _ _)) (by simp) (by simp)
  refine ⟨t, h1, ?_, h3⟩
  rw [← sreg_putS_same (s.ctx.counted i) d]
  simp only [Ctx.sreg, h2]

end Sys2Proof.Machine
end

