-- ==== Sys2Proof/Laws/Faults.lean ====
section
/-!
SUPPORT. Laws of taking a fault: everything that parking an activation does (R254, R255, R258, R261).
-/

namespace Sys2Proof.Machine

variable {s : State} {i : Ins}

/-- The executing context after a change of its core that keeps the core's contexts. -/
theorem ctx_modCore_setCtx (v : Ctx) {f : Core → Core} (h : ∀ k, (f k).ctxs = k.ctxs) :
    ((s.setCtx v).modCore s.cur f).ctx = v := by
  have : ((s.setCtx v).modCore s.cur f).ctx = (s.setCtx v).ctx := by
    simp only [State.ctx, State.ctxAt, State.modCore_cur, State.setCtx_cur, State.core_modCore, h, State.modCore_curCtx,
      State.setCtx_curCtx]
  rw [this, State.ctx_setCtx]

/-- The parked context as R254 and R258 leave it. -/
def parkedCtx (s : State) (w : Nat) (f : FaultInfo) : Ctx :=
  { s.ctx with status := .parked, hints := {}, stall := 0, wait := .ready, held := none, rel := none, sta := none, tmo := false
               sp := { s.ctx.sp with fault := faultRecord w s.ctx.pc (s.ctx.id.type == 254) f }
               park := { num := (s.core s.cur).parkCount, resumes := s.ctx.park.resumes, saved := false, debug := f.debug } }

/-- The state after parking, before its message goes out. -/
def parkedState (s : State) (w : Nat) (f : FaultInfo) : State :=
  (s.setCtx (parkedCtx s w f)).modCore s.cur fun k =>
    { k with parkCount := if (s.core s.cur).parkCount = 65535 then 1 else (s.core s.cur).parkCount + 1 }

/-- The message about a parked activation. -/
def parkMsg (s : State) (w : Nat) (f : FaultInfo) : Msg :=
  faultMsg s.cur s.ctx.id.vf s.ctx.id.launch (faultRecord w s.ctx.pc (s.ctx.id.type == 254) f)
    (parkRef (s.core s.cur).parkCount s.curCtx false) s.ctx.region.entry

/-- Parking, with the place its message goes to (R261, R268). -/
theorem park_eq (w : Nat) (f : FaultInfo) : s.park w f =
    (parkedState s w f).post ⟨2, s.cur, if s.ctx.id.type == 254 || f.debug then hostNode else s.cur, .msg (parkMsg s w f)⟩ := by
  simp only [State.park, Bool.or_eq_true]
  split <;> rfl

/-- The parts of the state after parking. -/
theorem parkedState_parts (w : Nat) (f : FaultInfo) : (parkedState s w f).ctx = parkedCtx s w f ∧
    ((parkedState s w f).core s.cur).parkCount = (if (s.core s.cur).parkCount = 65535 then 1 else (s.core s.cur).parkCount + 1) ∧
    (parkedState s w f).hbm = s.hbm ∧ (parkedState s w f).net = s.net ∧ (parkedState s w f).host = s.host ∧
    ∀ c, ((parkedState s w f).core c).spad = (s.core c).spad := by
  refine ⟨ctx_modCore_setCtx _ fun _ => rfl, by simp only [parkedState, State.core_modCore], rfl, rfl, rfl, fun c => ?_⟩
  by_cases h : c = s.cur
  · subst h; simp only [parkedState, State.core_modCore, State.spad_setCtx]
  · rw [parkedState, State.core_modCore_other _ _ h, State.spad_setCtx]

/-- Everything that parking does. -/
theorem park_parts (w : Nat) (f : FaultInfo) : (s.park w f).ctx = parkedCtx s w f ∧
    ((s.park w f).core s.cur).parkCount = (if (s.core s.cur).parkCount = 65535 then 1 else (s.core s.cur).parkCount + 1) ∧
    (s.park w f).hbm = s.hbm ∧ (∀ c, ((s.park w f).core c).spad = (s.core c).spad) ∧
    (s.park w f).net =
      s.net ++ [⟨2, s.cur, if s.ctx.id.type == 254 || f.debug then hostNode else s.cur, .msg (parkMsg s w f)⟩] ∧
    (s.park w f).host = s.host := by
  obtain ⟨h1, h2, h3, h4, h5, h6⟩ := parkedState_parts (s := s) w f
  rw [park_eq]
  exact ⟨h1, h2, h3, h6, by rw [State.post, h4], h5⟩

/-- What a fault keeps of a context that its word left alone is the context. -/
theorem faulted_self {x y : Ctx} (hp : y.pages = x.pages) (ha : y.accf = x.accf) (hc : y.copyFail = x.copyFail) (hb : y.bad = x.bad)
    (hd : y.dups = x.dups) : x.faulted y = x := by
  simp only [Ctx.faulted, hp, ha, hc, hb, hd]

/-- A fault waits for the merges of the activation (R254). -/
theorem settle_trap_merging (w : Nat) (f : FaultInfo) {s' : State} (h : s.merging = true) :
    settle w s (.trap f s') = s.modCtx fun x => { x with wait := .other } := by
  simp [settle, h]

/-- A fault of a word that has changed the executing context only parks the activation as it stood before the word. -/
theorem settle_trap_eq (w : Nat) (f : FaultInfo) {s' : State} (h : s.merging = false) (hs : ∀ v, s'.setCtx v = s.setCtx v)
    (hx : s.ctx.faulted s'.ctx = s.ctx) :
    settle w s (.trap f s') = (s.setCtx s.ctx).park w
      { f with rep := if f.code = cILL then none else if f.rep.isSome then f.rep else s.ctx.rep.map fun r => r.j } := by
  have hself : s.ctx.faulted s.ctx = s.ctx := rfl
  simp only [settle, h, Bool.false_eq_true, if_false]
  split
  · rw [hself]
  · rw [hs, hx]

/-- The record of a fault that no instance of a widened word marks (R255). -/
theorem faultRecord_eq (w : Nat) (pc : Word) (n : Bool) (code detail : Nat) (f1 : Word) (a wr : Bool) (rep : Option Nat) :
    faultRecord w pc n { code := code, detail := detail, f1 := f1, addr := a, write := wr, rep := rep } =
      { f0 := BitVec.ofNat 64 (w * 2 ^ 32 + detail * 2 ^ 24 + (if rep.isSome then 2 ^ 21 else 0) + (if n then 2 ^ 20 else 0)
          + 2 ^ 19 + (if wr then 2 ^ 17 else 0) + (if a then 2 ^ 16 else 0) + code)
        f1 := f1, f2 := BitVec.ofNat 64 (rep.getD 0 * 2 ^ 40), f3 := pc } := by
  have h0 : ∀ k : Nat, (if (none : Option Nat).isSome = true then 2 ^ k else 0) = 0 := fun _ => rfl
  simp only [faultRecord, faultWord, wd, if_true, Option.getD_none, Nat.zero_add, h0, Nat.add_zero]

/-- A fault of a word that has changed the executing context only parks the activation (R254, R255, R258). -/
theorem settle_trap_parks (w code detail : Nat) (f1 : Word) (a wr : Bool) {s' : State} (hs : ∀ v, s'.setCtx v = s.setCtx v)
    (hx : s.ctx.faulted s'.ctx = s.ctx) :
    s.parksWith (settle w s (.trap { code := code, detail := detail, f1 := f1, addr := a, write := wr } s'))
      w code detail f1 a wr := by
  unfold State.parksWith
  by_cases hm : s.merging = true
  · simp only [hm, if_true]; exact settle_trap_merging w _ hm
  · rw [settle_trap_eq w _ (by simpa using hm) hs hx]
    simp only [hm]
    have hcode : (if code = cILL then none else if (none : Option Nat).isSome = true then none else s.ctx.rep.map fun r => r.j) =
        (if code = 0x01 then none else s.ctx.rep.map fun r => r.j) := rfl
    simp only [hcode]
    generalize hrep : (if code = 0x01 then none else s.ctx.rep.map fun r => r.j) = rep
    have hn : ((s.setCtx s.ctx).core s.cur).parkCount = (s.core s.cur).parkCount := by simp [State.setCtx, State.setCtxAt]
    obtain ⟨h1, h2, h3, h4, h5, h6⟩ := park_parts (s := s.setCtx s.ctx) w
      { code := code, detail := detail, f1 := f1, addr := a, write := wr, rep := rep }
    simp only [State.setCtx_cur, hn, State.setCtx_curCtx, parkedCtx, parkMsg, State.ctx_setCtx, faultRecord_eq, State.setCtx_net,
      State.setCtx_host, Bool.or_false] at h1 h2 h3 h5 h6
    refine ⟨by rw [h1], by rw [h1], by rw [h1], h2, by rw [h1], by rw [h1], by rw [h1], by rw [h1], by rw [h1], h3,
      fun c => (h4 c).trans (State.spad_setCtx _ _ _), ?_, h6⟩
    simpa only [Bool.or_false, faultMsg, parkRef, wd, Bool.false_eq_true, if_false, Nat.add_zero] using h5

/-- The same for a fault raised in the state itself. -/
theorem settle_fault_parks (w code detail : Nat) (f1 : Word) (a wr : Bool) :
    s.parksWith (settle w s (.trap { code := code, detail := detail, f1 := f1, addr := a, write := wr } s)) w code detail f1 a wr :=
  settle_trap_parks w code detail f1 a wr (fun _ => rfl) rfl

/-- The same for a fault raised in the counted state. -/
theorem settle_counted_parks (w code detail : Nat) (f1 : Word) (a wr : Bool) :
    s.parksWith (settle w s (.trap { code := code, detail := detail, f1 := f1, addr := a, write := wr } (s.counted i)))
      w code detail f1 a wr :=
  settle_trap_parks w code detail f1 a wr (fun _ => counted_setCtx _) (by rw [counted_ctx]; apply faulted_self <;> simp)

/-- A word that does not accept a pending hint, or that the open repetition body does not allow, is ILL (R52, R355). -/
theorem execute_unaccepted {body : State → Act (State × Word)} (hr : s.ctx.status = .running)
    (h : accepts s.ctx.hints i.word = false ∨ repAllows s.ctx i.word = false) :
    ∃ t, execute i body s = .next t ∧ s.parksWith t i.word 0x01 0 0 false false := by
  have hp : prelude i s = fault s cILL 0 := by
    rcases h with h | h <;> simp [prelude, h, bind, Except.bind, fault]
  refine ⟨settle i.word s (.trap { code := cILL } s), by simp only [execute, hr, if_true, hp, fault, Except.bind], ?_⟩
  exact settle_fault_parks i.word cILL 0 0 false false

end Sys2Proof.Machine
end

