-- ==== Sys2Proof/Laws/PerInstr.lean ====
section
/-!
SUPPORT. Laws stated per instruction. `Encodes`: every well-formed instruction has a word; an event has none and is not well formed.
-/

namespace Sys2Proof.Laws.Encodes

/-- A well-formed instruction has a word. -/
def Statement (i : Instr) : Prop := i.wf = true → ∃ w, encode i = some w

theorem trap (a : Nat) : Statement (.trap a) := fun _ => ⟨_, rfl⟩
theorem brk : Statement .brk := fun _ => ⟨_, rfl⟩
theorem frec (d a i : Nat) : Statement (.frec d a i) := fun _ => ⟨_, rfl⟩
theorem fres (d a f : Nat) : Statement (.fres d a f) := fun _ => ⟨_, rfl⟩
theorem fabt (d a : Nat) : Statement (.fabt d a) := fun _ => ⟨_, rfl⟩
theorem icinv (m a b : Nat) : Statement (.icinv m a b) := fun _ => ⟨_, rfl⟩
theorem tlbinv (m a b : Nat) : Statement (.tlbinv m a b) := fun _ => ⟨_, rfl⟩
theorem hnop : Statement .hnop := fun _ => ⟨_, rfl⟩
theorem hext (i : Nat) : Statement (.hext i) := fun _ => ⟨_, rfl⟩
theorem hreg : Statement .hreg := fun _ => ⟨_, rfl⟩
theorem hjoin (o : Nat) : Statement (.hjoin o) := fun _ => ⟨_, rfl⟩
theorem hprio (n : Nat) : Statement (.hprio n) := fun _ => ⟨_, rfl⟩
theorem hbank (b : Nat) : Statement (.hbank b) := fun _ => ⟨_, rfl⟩
theorem hstall (n : Nat) : Statement (.hstall n) := fun _ => ⟨_, rfl⟩
theorem htake (f n : Nat) : Statement (.htake f n) := fun _ => ⟨_, rfl⟩
theorem hlay (i : Nat) : Statement (.hlay i) := fun _ => ⟨_, rfl⟩
theorem hflag : Statement .hflag := fun _ => ⟨_, rfl⟩
theorem hlsend (m : Nat) : Statement (.hlsend m) := fun _ => ⟨_, rfl⟩
theorem htrace (i : Nat) : Statement (.htrace i) := fun _ => ⟨_, rfl⟩
theorem hres (k p : Nat) : Statement (.hres k p) := fun _ => ⟨_, rfl⟩
theorem add (d a b : Nat) : Statement (.add d a b) := fun _ => ⟨_, rfl⟩
theorem sub (d a b : Nat) : Statement (.sub d a b) := fun _ => ⟨_, rfl⟩
theorem mul (d a b : Nat) : Statement (.mul d a b) := fun _ => ⟨_, rfl⟩
theorem mulh (d a b : Nat) : Statement (.mulh d a b) := fun _ => ⟨_, rfl⟩
theorem mulhn (d a b : Nat) : Statement (.mulhn d a b) := fun _ => ⟨_, rfl⟩
theorem div (d a b : Nat) : Statement (.div d a b) := fun _ => ⟨_, rfl⟩
theorem divn (d a b : Nat) : Statement (.divn d a b) := fun _ => ⟨_, rfl⟩
theorem rem (d a b : Nat) : Statement (.rem d a b) := fun _ => ⟨_, rfl⟩
theorem remn (d a b : Nat) : Statement (.remn d a b) := fun _ => ⟨_, rfl⟩
theorem and (d a b : Nat) : Statement (.and d a b) := fun _ => ⟨_, rfl⟩
theorem or (d a b : Nat) : Statement (.or d a b) := fun _ => ⟨_, rfl⟩
theorem xor (d a b : Nat) : Statement (.xor d a b) := fun _ => ⟨_, rfl⟩
theorem andn (d a b : Nat) : Statement (.andn d a b) := fun _ => ⟨_, rfl⟩
theorem orn (d a b : Nat) : Statement (.orn d a b) := fun _ => ⟨_, rfl⟩
theorem shl (d a b : Nat) : Statement (.shl d a b) := fun _ => ⟨_, rfl⟩
theorem shr (d a b : Nat) : Statement (.shr d a b) := fun _ => ⟨_, rfl⟩
theorem sar (d a b : Nat) : Statement (.sar d a b) := fun _ => ⟨_, rfl⟩
theorem rol (d a b : Nat) : Statement (.rol d a b) := fun _ => ⟨_, rfl⟩
theorem min (d a b : Nat) : Statement (.min d a b) := fun _ => ⟨_, rfl⟩
theorem max (d a b : Nat) : Statement (.max d a b) := fun _ => ⟨_, rfl⟩
theorem minn (d a b : Nat) : Statement (.minn d a b) := fun _ => ⟨_, rfl⟩
theorem maxn (d a b : Nat) : Statement (.maxn d a b) := fun _ => ⟨_, rfl⟩
theorem slt (d a b : Nat) : Statement (.slt d a b) := fun _ => ⟨_, rfl⟩
theorem sltn (d a b : Nat) : Statement (.sltn d a b) := fun _ => ⟨_, rfl⟩
theorem seq (d a b : Nat) : Statement (.seq d a b) := fun _ => ⟨_, rfl⟩
theorem sne (d a b : Nat) : Statement (.sne d a b) := fun _ => ⟨_, rfl⟩
theorem clz (d a : Nat) : Statement (.clz d a) := fun _ => ⟨_, rfl⟩
theorem ctz (d a : Nat) : Statement (.ctz d a) := fun _ => ⟨_, rfl⟩
theorem popc (d a : Nat) : Statement (.popc d a) := fun _ => ⟨_, rfl⟩
theorem sxb (d a : Nat) : Statement (.sxb d a) := fun _ => ⟨_, rfl⟩
theorem sxh (d a : Nat) : Statement (.sxh d a) := fun _ => ⟨_, rfl⟩
theorem sxw (d a : Nat) : Statement (.sxw d a) := fun _ => ⟨_, rfl⟩
theorem zxb (d a : Nat) : Statement (.zxb d a) := fun _ => ⟨_, rfl⟩
theorem zxh (d a : Nat) : Statement (.zxh d a) := fun _ => ⟨_, rfl⟩
theorem zxw (d a : Nat) : Statement (.zxw d a) := fun _ => ⟨_, rfl⟩
theorem bfx (d a b : Nat) : Statement (.bfx d a b) := fun _ => ⟨_, rfl⟩
theorem bfi (d a b : Nat) : Statement (.bfi d a b) := fun _ => ⟨_, rfl⟩
theorem padd (d a b : Nat) : Statement (.padd d a b) := fun _ => ⟨_, rfl⟩
theorem pchk (d a b : Nat) : Statement (.pchk d a b) := fun _ => ⟨_, rfl⟩
theorem addi (d a i : Nat) : Statement (.addi d a i) := fun _ => ⟨_, rfl⟩
theorem andi (d a i : Nat) : Statement (.andi d a i) := fun _ => ⟨_, rfl⟩
theorem ori (d a i : Nat) : Statement (.ori d a i) := fun _ => ⟨_, rfl⟩
theorem xori (d a i : Nat) : Statement (.xori d a i) := fun _ => ⟨_, rfl⟩
theorem shli (d a n : Nat) : Statement (.shli d a n) := fun _ => ⟨_, rfl⟩
theorem shri (d a n : Nat) : Statement (.shri d a n) := fun _ => ⟨_, rfl⟩
theorem sari (d a n : Nat) : Statement (.sari d a n) := fun _ => ⟨_, rfl⟩
theorem roli (d a n : Nat) : Statement (.roli d a n) := fun _ => ⟨_, rfl⟩
theorem slti (d a i : Nat) : Statement (.slti d a i) := fun _ => ⟨_, rfl⟩
theorem sltni (d a i : Nat) : Statement (.sltni d a i) := fun _ => ⟨_, rfl⟩
theorem ldhi (d i : Nat) : Statement (.ldhi d i) := fun _ => ⟨_, rfl⟩
theorem lea (d i : Nat) : Statement (.lea d i) := fun _ => ⟨_, rfl⟩
theorem rdsr (d r : Nat) : Statement (.rdsr d r) := fun _ => ⟨_, rfl⟩
theorem wrsr (a r : Nat) : Statement (.wrsr a r) := fun _ => ⟨_, rfl⟩
theorem beq (a b o : Nat) : Statement (.beq a b o) := fun _ => ⟨_, rfl⟩
theorem bne (a b o : Nat) : Statement (.bne a b o) := fun _ => ⟨_, rfl⟩
theorem blt (a b o : Nat) : Statement (.blt a b o) := fun _ => ⟨_, rfl⟩
theorem bge (a b o : Nat) : Statement (.bge a b o) := fun _ => ⟨_, rfl⟩
theorem bltn (a b o : Nat) : Statement (.bltn a b o) := fun _ => ⟨_, rfl⟩
theorem bgen (a b o : Nat) : Statement (.bgen a b o) := fun _ => ⟨_, rfl⟩
theorem jmp (o : Nat) : Statement (.jmp o) := fun _ => ⟨_, rfl⟩
theorem jal (o : Nat) : Statement (.jal o) := fun _ => ⟨_, rfl⟩
theorem jr (a : Nat) : Statement (.jr a) := fun _ => ⟨_, rfl⟩
theorem ret : Statement .ret := fun _ => ⟨_, rfl⟩
theorem jalr (d a : Nat) : Statement (.jalr d a) := fun _ => ⟨_, rfl⟩
theorem loop (a o : Nat) : Statement (.loop a o) := fun _ => ⟨_, rfl⟩
theorem ld (d b z o : Nat) : Statement (.ld d b z o) := fun _ => ⟨_, rfl⟩
theorem lds (d b z o : Nat) : Statement (.lds d b z o) := fun _ => ⟨_, rfl⟩
theorem st (s b z o : Nat) : Statement (.st s b z o) := fun _ => ⟨_, rfl⟩
theorem vld (v b p o : Nat) : Statement (.vld v b p o) := fun _ => ⟨_, rfl⟩
theorem vlds (v b p s : Nat) : Statement (.vlds v b p s) := fun _ => ⟨_, rfl⟩
theorem vldb (v b p o : Nat) : Statement (.vldb v b p o) := fun _ => ⟨_, rfl⟩
theorem vst (v b p o : Nat) : Statement (.vst v b p o) := fun _ => ⟨_, rfl⟩
theorem vsts (v b p s : Nat) : Statement (.vsts v b p s) := fun _ => ⟨_, rfl⟩
theorem vgat (v b i p : Nat) : Statement (.vgat v b i p) := fun _ => ⟨_, rfl⟩
theorem vsct (v b i p : Nat) : Statement (.vsct v b i p) := fun _ => ⟨_, rfl⟩
theorem mget (x y z t : Nat) : Statement (.mget x y z t) := fun _ => ⟨_, rfl⟩
theorem mgetv (y t : Nat) : Statement (.mgetv y t) := fun _ => ⟨_, rfl⟩
theorem mput (x y z : Nat) : Statement (.mput x y z) := fun _ => ⟨_, rfl⟩
theorem mputR (x y z : Nat) : Statement (.mputR x y z) := fun _ => ⟨_, rfl⟩
theorem mputv (y v : Nat) : Statement (.mputv y v) := fun _ => ⟨_, rfl⟩
theorem mputvR (y v : Nat) : Statement (.mputvR y v) := fun _ => ⟨_, rfl⟩
theorem cpy (x y z w m : Nat) : Statement (.cpy x y z w m) := fun _ => ⟨_, rfl⟩
theorem cpy2 (x y z w m : Nat) : Statement (.cpy2 x y z w m) := fun _ => ⟨_, rfl⟩
theorem cpydl (x y z w : Nat) : Statement (.cpydl x y z w) := fun _ => ⟨_, rfl⟩
theorem cpyst (x : Nat) : Statement (.cpyst x) := fun _ => ⟨_, rfl⟩
theorem swinit (x y z : Nat) : Statement (.swinit x y z) := fun _ => ⟨_, rfl⟩
theorem swwait (x y : Nat) : Statement (.swwait x y) := fun _ => ⟨_, rfl⟩
theorem swget (x y : Nat) : Statement (.swget x y) := fun _ => ⟨_, rfl⟩
theorem swadd (x y : Nat) : Statement (.swadd x y) := fun _ => ⟨_, rfl⟩
theorem wsld (x y z w : Nat) : Statement (.wsld x y z w) := fun _ => ⟨_, rfl⟩
theorem wsldB (x y z w : Nat) : Statement (.wsldB x y z w) := fun _ => ⟨_, rfl⟩
theorem wswr (x y z w : Nat) : Statement (.wswr x y z w) := fun _ => ⟨_, rfl⟩
theorem wsinfo (x : Nat) : Statement (.wsinfo x) := fun _ => ⟨_, rfl⟩
theorem fenceAcq (m s : Nat) : Statement (.fenceAcq m s) := fun _ => ⟨_, rfl⟩
theorem fenceRel (m s : Nat) : Statement (.fenceRel m s) := fun _ => ⟨_, rfl⟩
theorem fenceFull (m s : Nat) : Statement (.fenceFull m s) := fun _ => ⟨_, rfl⟩
theorem fack : Statement .fack := fun _ => ⟨_, rfl⟩
theorem amoadd (d a b m o s r : Nat) : Statement (.amoadd d a b m o s r) := fun _ => ⟨_, rfl⟩
theorem amoand (d a b m o s r : Nat) : Statement (.amoand d a b m o s r) := fun _ => ⟨_, rfl⟩
theorem amoor (d a b m o s r : Nat) : Statement (.amoor d a b m o s r) := fun _ => ⟨_, rfl⟩
theorem amoxor (d a b m o s r : Nat) : Statement (.amoxor d a b m o s r) := fun _ => ⟨_, rfl⟩
theorem amomin (d a b m o s r : Nat) : Statement (.amomin d a b m o s r) := fun _ => ⟨_, rfl⟩
theorem amomax (d a b m o s r : Nat) : Statement (.amomax d a b m o s r) := fun _ => ⟨_, rfl⟩
theorem amominn (d a b m o s r : Nat) : Statement (.amominn d a b m o s r) := fun _ => ⟨_, rfl⟩
theorem amomaxn (d a b m o s r : Nat) : Statement (.amomaxn d a b m o s r) := fun _ => ⟨_, rfl⟩
theorem amoswp (d a b m o s r : Nat) : Statement (.amoswp d a b m o s r) := fun _ => ⟨_, rfl⟩
theorem amocas (d a b m o s f r : Nat) : Statement (.amocas d a b m o s f r) := fun _ => ⟨_, rfl⟩
theorem barcfg (s a x i : Nat) : Statement (.barcfg s a x i) := fun _ => ⟨_, rfl⟩
theorem barrv (s d x i : Nat) : Statement (.barrv s d x i) := fun _ => ⟨_, rfl⟩
theorem barwt (s a x i : Nat) : Statement (.barwt s a x i) := fun _ => ⟨_, rfl⟩
theorem barsy (s x i : Nat) : Statement (.barsy s x i) := fun _ => ⟨_, rfl⟩
theorem barq (s d x i : Nat) : Statement (.barq s d x i) := fun _ => ⟨_, rfl⟩
theorem send (c p n t : Nat) : Statement (.send c p n t) := fun _ => ⟨_, rfl⟩
theorem sendv (c v n t : Nat) : Statement (.sendv c v n t) := fun _ => ⟨_, rfl⟩
theorem reply (p n t : Nat) : Statement (.reply p n t) := fun _ => ⟨_, rfl⟩
theorem replyv (v n t : Nat) : Statement (.replyv v n t) := fun _ => ⟨_, rfl⟩
theorem bind (t e c : Nat) : Statement (.bind t e c) := fun _ => ⟨_, rfl⟩
theorem unbind (t : Nat) : Statement (.unbind t) := fun _ => ⟨_, rfl⟩
theorem done : Statement .done := fun _ => ⟨_, rfl⟩
theorem refuse : Statement .refuse := fun _ => ⟨_, rfl⟩
theorem msgrd (d i : Nat) : Statement (.msgrd d i) := fun _ => ⟨_, rfl⟩
theorem jset (a b t : Nat) : Statement (.jset a b t) := fun _ => ⟨_, rfl⟩
theorem arrive (a b : Nat) : Statement (.arrive a b) := fun _ => ⟨_, rfl⟩
theorem jget (d a : Nat) : Statement (.jget d a) := fun _ => ⟨_, rfl⟩
theorem gdef (d a : Nat) : Statement (.gdef d a) := fun _ => ⟨_, rfl⟩
theorem gsucc (d a b : Nat) : Statement (.gsucc d a b) := fun _ => ⟨_, rfl⟩
theorem gdone (d a : Nat) : Statement (.gdone d a) := fun _ => ⟨_, rfl⟩
theorem gqry (d a : Nat) : Statement (.gqry d a) := fun _ => ⟨_, rfl⟩
theorem gdoneHold (d a : Nat) : Statement (.gdoneHold d a) := fun _ => ⟨_, rfl⟩
theorem wput (d a b : Nat) : Statement (.wput d a b) := fun _ => ⟨_, rfl⟩
theorem wtake (d a b : Nat) : Statement (.wtake d a b) := fun _ => ⟨_, rfl⟩
theorem wqcfg (d a b : Nat) : Statement (.wqcfg d a b) := fun _ => ⟨_, rfl⟩
theorem hcfg (h a s z t : Nat) : Statement (.hcfg h a s z t) := fun _ => ⟨_, rfl⟩
theorem hadv (h n : Nat) : Statement (.hadv h n) := fun _ => ⟨_, rfl⟩
theorem hadvP (h n : Nat) : Statement (.hadvP h n) := fun _ => ⟨_, rfl⟩
theorem hget (d h : Nat) : Statement (.hget d h) := fun _ => ⟨_, rfl⟩
theorem vadd (d a b p t : Nat) : Statement (.vadd d a b p t) := fun _ => ⟨_, rfl⟩
theorem vsub (d a b p t : Nat) : Statement (.vsub d a b p t) := fun _ => ⟨_, rfl⟩
theorem vmul (d a b p t : Nat) : Statement (.vmul d a b p t) := fun _ => ⟨_, rfl⟩
theorem vfma (d a b p t : Nat) : Statement (.vfma d a b p t) := fun _ => ⟨_, rfl⟩
theorem vmin (d a b p t : Nat) : Statement (.vmin d a b p t) := fun _ => ⟨_, rfl⟩
theorem vmax (d a b p t : Nat) : Statement (.vmax d a b p t) := fun _ => ⟨_, rfl⟩
theorem vabs (d a p t : Nat) : Statement (.vabs d a p t) := fun _ => ⟨_, rfl⟩
theorem vneg (d a p t : Nat) : Statement (.vneg d a p t) := fun _ => ⟨_, rfl⟩
theorem vand (d a b p : Nat) : Statement (.vand d a b p) := fun _ => ⟨_, rfl⟩
theorem vor (d a b p : Nat) : Statement (.vor d a b p) := fun _ => ⟨_, rfl⟩
theorem vxor (d a b p : Nat) : Statement (.vxor d a b p) := fun _ => ⟨_, rfl⟩
theorem vandn (d a b p : Nat) : Statement (.vandn d a b p) := fun _ => ⟨_, rfl⟩
theorem vshl (d a b p t : Nat) : Statement (.vshl d a b p t) := fun _ => ⟨_, rfl⟩
theorem vshr (d a b p t : Nat) : Statement (.vshr d a b p t) := fun _ => ⟨_, rfl⟩
theorem vsar (d a b p t : Nat) : Statement (.vsar d a b p t) := fun _ => ⟨_, rfl⟩
theorem vrot (d a b p t : Nat) : Statement (.vrot d a b p t) := fun _ => ⟨_, rfl⟩
theorem vceq (d a b p t : Nat) : Statement (.vceq d a b p t) := fun _ => ⟨_, rfl⟩
theorem vcne (d a b p t : Nat) : Statement (.vcne d a b p t) := fun _ => ⟨_, rfl⟩
theorem vclt (d a b p t : Nat) : Statement (.vclt d a b p t) := fun _ => ⟨_, rfl⟩
theorem vcle (d a b p t : Nat) : Statement (.vcle d a b p t) := fun _ => ⟨_, rfl⟩
theorem vmov (d a p : Nat) : Statement (.vmov d a p) := fun _ => ⟨_, rfl⟩
theorem vsel (d a b p t : Nat) : Statement (.vsel d a b p t) := fun _ => ⟨_, rfl⟩
theorem vbc (d a p t : Nat) : Statement (.vbc d a p t) := fun _ => ⟨_, rfl⟩
theorem vext (d a i t : Nat) : Statement (.vext d a i t) := fun _ => ⟨_, rfl⟩
theorem vprm (d a b p : Nat) : Statement (.vprm d a b p) := fun _ => ⟨_, rfl⟩
theorem vsld (d a n p : Nat) : Statement (.vsld d a n p) := fun _ => ⟨_, rfl⟩
theorem vrev (d a p t : Nat) : Statement (.vrev d a p t) := fun _ => ⟨_, rfl⟩
theorem vzip (d a b p t : Nat) : Statement (.vzip d a b p t) := fun _ => ⟨_, rfl⟩
theorem vrsum (d a p t : Nat) : Statement (.vrsum d a p t) := fun _ => ⟨_, rfl⟩
theorem vrmax (d a p t : Nat) : Statement (.vrmax d a p t) := fun _ => ⟨_, rfl⟩
theorem vrmin (d a p t : Nat) : Statement (.vrmin d a p t) := fun _ => ⟨_, rfl⟩
theorem vrand (d a p t : Nat) : Statement (.vrand d a p t) := fun _ => ⟨_, rfl⟩
theorem vrcp (d a p t : Nat) : Statement (.vrcp d a p t) := fun _ => ⟨_, rfl⟩
theorem vrsq (d a p t : Nat) : Statement (.vrsq d a p t) := fun _ => ⟨_, rfl⟩
theorem vsqt (d a p t : Nat) : Statement (.vsqt d a p t) := fun _ => ⟨_, rfl⟩
theorem vexp (d a p t : Nat) : Statement (.vexp d a p t) := fun _ => ⟨_, rfl⟩
theorem vlog (d a p t : Nat) : Statement (.vlog d a p t) := fun _ => ⟨_, rfl⟩
theorem vtnh (d a p t : Nat) : Statement (.vtnh d a p t) := fun _ => ⟨_, rfl⟩
theorem vsgm (d a p t : Nat) : Statement (.vsgm d a p t) := fun _ => ⟨_, rfl⟩
theorem vdiv (d a b p t : Nat) : Statement (.vdiv d a b p t) := fun _ => ⟨_, rfl⟩
theorem vcvt (d a x p t : Nat) : Statement (.vcvt d a x p t) := fun _ => ⟨_, rfl⟩
theorem vcef (d a x p t : Nat) : Statement (.vcef d a x p t) := fun _ => ⟨_, rfl⟩
theorem vpak (d a x p t : Nat) : Statement (.vpak d a x p t) := fun _ => ⟨_, rfl⟩
theorem vunp (d a x p t : Nat) : Statement (.vunp d a x p t) := fun _ => ⟨_, rfl⟩
theorem vtki (d a k p t : Nat) : Statement (.vtki d a k p t) := fun _ => ⟨_, rfl⟩
theorem vtkm (d a k p t : Nat) : Statement (.vtkm d a k p t) := fun _ => ⟨_, rfl⟩
theorem vtkr (d a k p t : Nat) : Statement (.vtkr d a k p t) := fun _ => ⟨_, rfl⟩
theorem vtkn (d a k p t : Nat) : Statement (.vtkn d a k p t) := fun _ => ⟨_, rfl⟩
theorem vpop (d a p t : Nat) : Statement (.vpop d a p t) := fun _ => ⟨_, rfl⟩
theorem vclz (d a p t : Nat) : Statement (.vclz d a p t) := fun _ => ⟨_, rfl⟩
theorem vctz (d a p t : Nat) : Statement (.vctz d a p t) := fun _ => ⟨_, rfl⟩
theorem vbrv (d a p t : Nat) : Statement (.vbrv d a p t) := fun _ => ⟨_, rfl⟩
theorem cxbind (d a x : Nat) : Statement (.cxbind d a x) := fun _ => ⟨_, rfl⟩
theorem cxdrop (x : Nat) : Statement (.cxdrop x) := fun _ => ⟨_, rfl⟩
theorem cxdropAll (x : Nat) : Statement (.cxdropAll x) := fun _ => ⟨_, rfl⟩
theorem cxinfo (d i x : Nat) : Statement (.cxinfo d i x) := fun _ => ⟨_, rfl⟩
theorem kdef (k a b : Nat) : Statement (.kdef k a b) := fun _ => ⟨_, rfl⟩
theorem kinfo (d k i : Nat) : Statement (.kinfo d k i) := fun _ => ⟨_, rfl⟩
theorem kview (d a b : Nat) : Statement (.kview d a b) := fun _ => ⟨_, rfl⟩
theorem kd (d a r : Nat) : Statement (.kd d a r) := fun _ => ⟨_, rfl⟩
theorem kdt (d a r : Nat) : Statement (.kdt d a r) := fun _ => ⟨_, rfl⟩
theorem kspush (k : Nat) : Statement (.kspush k) := fun _ => ⟨_, rfl⟩
theorem kacc (k r : Nat) : Statement (.kacc k r) := fun _ => ⟨_, rfl⟩
theorem kswait (k : Nat) : Statement (.kswait k) := fun _ => ⟨_, rfl⟩
theorem kstar (d a r : Nat) : Statement (.kstar d a r) := fun _ => ⟨_, rfl⟩
theorem kstari (d a r : Nat) : Statement (.kstari d a r) := fun _ => ⟨_, rfl⟩
theorem kcod (d a r : Nat) : Statement (.kcod d a r) := fun _ => ⟨_, rfl⟩
theorem kdot (s a b r : Nat) : Statement (.kdot s a b r) := fun _ => ⟨_, rfl⟩
theorem kwedge (d a b r : Nat) : Statement (.kwedge d a b r) := fun _ => ⟨_, rfl⟩
theorem kinterp (d a b r : Nat) : Statement (.kinterp d a b r) := fun _ => ⟨_, rfl⟩
theorem kadd (d a b r : Nat) : Statement (.kadd d a b r) := fun _ => ⟨_, rfl⟩
theorem ksub (d a b r : Nat) : Statement (.ksub d a b r) := fun _ => ⟨_, rfl⟩
theorem kmul (d a b r : Nat) : Statement (.kmul d a b r) := fun _ => ⟨_, rfl⟩
theorem ksc (d a s r : Nat) : Statement (.ksc d a s r) := fun _ => ⟨_, rfl⟩
theorem kmov (d a : Nat) : Statement (.kmov d a) := fun _ => ⟨_, rfl⟩
theorem kcvtBx (d a r : Nat) : Statement (.kcvtBx d a r) := fun _ => ⟨_, rfl⟩
theorem kcvtF32 (d a r : Nat) : Statement (.kcvtF32 d a r) := fun _ => ⟨_, rfl⟩
theorem kcvtF16 (d a r : Nat) : Statement (.kcvtF16 d a r) := fun _ => ⟨_, rfl⟩
theorem kcvtBf16 (d a r : Nat) : Statement (.kcvtBf16 d a r) := fun _ => ⟨_, rfl⟩
theorem kcvtBxFix (d a r : Nat) : Statement (.kcvtBxFix d a r) := fun _ => ⟨_, rfl⟩
theorem rmpoke (d a b x : Nat) : Statement (.rmpoke d a b x) := fun _ => ⟨_, rfl⟩
theorem rmsplit (d a b x : Nat) : Statement (.rmsplit d a b x) := fun _ => ⟨_, rfl⟩
theorem rmflip (d a x : Nat) : Statement (.rmflip d a x) := fun _ => ⟨_, rfl⟩
theorem rmclps (d a b x : Nat) : Statement (.rmclps d a b x) := fun _ => ⟨_, rfl⟩
theorem rmcmit (d a x : Nat) : Statement (.rmcmit d a x) := fun _ => ⟨_, rfl⟩
theorem kxfer (d a r : Nat) : Statement (.kxfer d a r) := fun _ => ⟨_, rfl⟩
theorem mmcfg (a : Nat) : Statement (.mmcfg a) := fun _ => ⟨_, rfl⟩
theorem mmldb (a i j : Nat) : Statement (.mmldb a i j) := fun _ => ⟨_, rfl⟩
theorem mmzp (a : Nat) : Statement (.mmzp a) := fun _ => ⟨_, rfl⟩
theorem mmcnt (a b : Nat) : Statement (.mmcnt a b) := fun _ => ⟨_, rfl⟩
theorem mmmul (a b : Nat) : Statement (.mmmul a b) := fun _ => ⟨_, rfl⟩
theorem mmdrn : Statement .mmdrn := fun _ => ⟨_, rfl⟩
theorem mmmrg (d a : Nat) : Statement (.mmmrg d a) := fun _ => ⟨_, rfl⟩
theorem mmclr (c : Nat) : Statement (.mmclr c) := fun _ => ⟨_, rfl⟩
theorem mmsta (d i : Nat) : Statement (.mmsta d i) := fun _ => ⟨_, rfl⟩
theorem sacc (a b r : Nat) : Statement (.sacc a b r) := fun _ => ⟨_, rfl⟩
theorem mmst (a b : Nat) : Statement (.mmst a b) := fun _ => ⟨_, rfl⟩
theorem rep (n s : Nat) : Statement (.rep n s) := fun _ => ⟨_, rfl⟩
theorem repend : Statement .repend := fun _ => ⟨_, rfl⟩
theorem lcall (o g : Nat) : Statement (.lcall o g) := fun _ => ⟨_, rfl⟩
theorem lret : Statement .lret := fun _ => ⟨_, rfl⟩
theorem laxis (d n : Nat) : Statement (.laxis d n) := fun _ => ⟨_, rfl⟩
theorem laxisTag (d r f : Nat) : Statement (.laxisTag d r f) := fun _ => ⟨_, rfl⟩
theorem lred (d a o n f t : Nat) : Statement (.lred d a o n f t) := fun _ => ⟨_, rfl⟩
theorem lsel (d a b f n : Nat) : Statement (.lsel d a b f n) := fun _ => ⟨_, rfl⟩
theorem lbc (d a f n : Nat) : Statement (.lbc d a f n) := fun _ => ⟨_, rfl⟩
theorem ltag (k n : Nat) : Statement (.ltag k n) := fun _ => ⟨_, rfl⟩
theorem lidx (d n : Nat) : Statement (.lidx d n) := fun _ => ⟨_, rfl⟩
theorem fopen (d a b : Nat) : Statement (.fopen d a b) := fun _ => ⟨_, rfl⟩
theorem fclose (a : Nat) : Statement (.fclose a) := fun _ => ⟨_, rfl⟩
theorem fpath (a b : Nat) : Statement (.fpath a b) := fun _ => ⟨_, rfl⟩
theorem fstat (d a i : Nat) : Statement (.fstat d a i) := fun _ => ⟨_, rfl⟩
theorem rget (f a b p : Nat) : Statement (.rget f a b p) := fun _ => ⟨_, rfl⟩
theorem rput (f a b p : Nat) : Statement (.rput f a b p) := fun _ => ⟨_, rfl⟩
theorem ramo (f a b o : Nat) : Statement (.ramo f a b o) := fun _ => ⟨_, rfl⟩
theorem fwait (a : Nat) : Statement (.fwait a) := fun _ => ⟨_, rfl⟩
theorem rputSw (f b p : Nat) : Statement (.rputSw f b p) := fun _ => ⟨_, rfl⟩
theorem messageArrival (c : Nat) (k : Option Nat) : Statement (.messageArrival c k) := fun h => by cases h
theorem activationStart (c : Nat) : Statement (.activationStart c) := fun h => by cases h
theorem systemHandler (c : Nat) : Statement (.systemHandler c) := fun h => by cases h
theorem remoteOpExecute (c : Nat) (k : Option Nat) : Statement (.remoteOpExecute c k) := fun h => by cases h
theorem joinArrival (c : Nat) (k : Option Nat) : Statement (.joinArrival c k) := fun h => by cases h
theorem syncWordRaise (c : Nat) : Statement (.syncWordRaise c) := fun h => by cases h
theorem mgetReply (k : Nat) : Statement (.mgetReply k) := fun h => by cases h
theorem memoryNodeRequest (k : Nat) : Statement (.memoryNodeRequest k) := fun h => by cases h
theorem writeAcknowledgement (k : Nat) : Statement (.writeAcknowledgement k) := fun h => by cases h
theorem pageWalk (die vf va : Nat) : Statement (.pageWalk die vf va) := fun h => by cases h
theorem farReadFill (k : Nat) : Statement (.farReadFill k) := fun h => by cases h
theorem markerArrival (k : Nat) : Statement (.markerArrival k) := fun h => by cases h
theorem markerApply (die src : Nat) : Statement (.markerApply die src) := fun h => by cases h
theorem clockNoteArrival (k : Nat) : Statement (.clockNoteArrival k) := fun h => by cases h
theorem copyJobStart (die job : Nat) : Statement (.copyJobStart die job) := fun h => by cases h
theorem copyPartLanded (die job n : Nat) : Statement (.copyPartLanded die job n) := fun h => by cases h
theorem copyJobMnodeStop (die job : Nat) : Statement (.copyJobMnodeStop die job) := fun h => by cases h
theorem rowActivationAlert (die : Nat) : Statement (.rowActivationAlert die) := fun h => by cases h
theorem refreshPostponementDue (die : Nat) : Statement (.refreshPostponementDue die) := fun h => by cases h
theorem wsRefreshWindowOpen (die : Nat) : Statement (.wsRefreshWindowOpen die) := fun h => by cases h
theorem wsRefreshWindowClose (die : Nat) : Statement (.wsRefreshWindowClose die) := fun h => by cases h
theorem copyRecordArrival (k : Nat) : Statement (.copyRecordArrival k) := fun h => by cases h
theorem copyRecordWithdrawal (k : Nat) : Statement (.copyRecordWithdrawal k) := fun h => by cases h
theorem seamSend (c : Nat) : Statement (.seamSend c) := fun h => by cases h
theorem seamArrival (k : Nat) : Statement (.seamArrival k) := fun h => by cases h
theorem seamArrivalResend (c : Nat) : Statement (.seamArrivalResend c) := fun h => by cases h
theorem seamTimeout (c x : Nat) : Statement (.seamTimeout c x) := fun h => by cases h
theorem hstallExpiry (c x : Nat) : Statement (.hstallExpiry c x) := fun h => by cases h
theorem parkedActivationSave (c : Nat) : Statement (.parkedActivationSave c) := fun h => by cases h
theorem preemptBoundary (c : Nat) (x : Option Nat) : Statement (.preemptBoundary c x) := fun h => by cases h
theorem preemptImmediate (c : Nat) (x : Option Nat) : Statement (.preemptImmediate c x) := fun h => by cases h
theorem contextRestore (c : Nat) (x : Option Nat) : Statement (.contextRestore c x) := fun h => by cases h
theorem coreMigration (c dst : Nat) : Statement (.coreMigration c dst) := fun h => by cases h
theorem countEngineStep (o : Nat) : Statement (.countEngineStep o) := fun h => by cases h
theorem serviceEngineStep (o : Nat) : Statement (.serviceEngineStep o) := fun h => by cases h
theorem mergeSetArrival (k : Nat) : Statement (.mergeSetArrival k) := fun h => by cases h
theorem launchRegistration (vf obj : Nat) (words : Option (List Word)) (spads : List Nat) : Statement (.launchRegistration vf obj words spads) := fun h => by cases h
theorem nodePlacement (die node c : Nat) : Statement (.nodePlacement die node c) := fun h => by cases h
theorem nodeDispatch (die node : Nat) : Statement (.nodeDispatch die node) := fun h => by cases h
theorem nodeCompletion (die node : Nat) : Statement (.nodeCompletion die node) := fun h => by cases h
theorem hostMessage (m : HostMsg) : Statement (.hostMessage m) := fun h => by cases h
theorem vfCreate (v : VfSpec) : Statement (.vfCreate v) := fun h => by cases h
theorem hostDebugCommand (vf c : Nat) (ref : Word) (abort : Bool) : Statement (.hostDebugCommand vf c ref abort) := fun h => by cases h
theorem attestationQuote (who : Nat) (nonce : BitVec 256) : Statement (.attestationQuote who nonce) := fun h => by cases h
theorem portModeWrite (v : BitVec 16) : Statement (.portModeWrite v) := fun h => by cases h
theorem registerWrite (r : PfReg) (v : Nat) : Statement (.registerWrite r v) := fun h => by cases h
theorem runClockCommand (die : Nat) (clk : Clock) : Statement (.runClockCommand die clk) := fun h => by cases h
theorem holdCommand (die : Nat) : Statement (.holdCommand die) := fun h => by cases h
theorem keepCommand (die : Nat) : Statement (.keepCommand die) := fun h => by cases h
theorem offCommand (die : Nat) : Statement (.offCommand die) := fun h => by cases h
theorem stackSelfRefreshCommand (die : Nat) (on : Bool) : Statement (.stackSelfRefreshCommand die on) := fun h => by cases h
theorem dieDrainDone (die : Nat) : Statement (.dieDrainDone die) := fun h => by cases h
theorem thermalWarning (die : Nat) : Statement (.thermalWarning die) := fun h => by cases h
theorem thermalAlert (die : Nat) : Statement (.thermalAlert die) := fun h => by cases h
theorem thermalTrip (die : Nat) : Statement (.thermalTrip die) := fun h => by cases h
theorem powerGood (die : Nat) (img : List Byte) : Statement (.powerGood die img) := fun h => by cases h
theorem recoveryDoorbell (length : Nat) : Statement (.recoveryDoorbell length) := fun h => by cases h
theorem stackTrained (die : Nat) : Statement (.stackTrained die) := fun h => by cases h
theorem stackTrainTimeout (die : Nat) : Statement (.stackTrainTimeout die) := fun h => by cases h
theorem matrixCalibrated (die : Nat) : Statement (.matrixCalibrated die) := fun h => by cases h
theorem portTrainingDone (port : Nat) (ok : Bool) : Statement (.portTrainingDone port ok) := fun h => by cases h
theorem coreReset (c : Nat) : Statement (.coreReset c) := fun h => by cases h
theorem packageReset : Statement .packageReset := fun h => by cases h
theorem memoryNodeReset (die : Nat) : Statement (.memoryNodeReset die) := fun h => by cases h
theorem fabricPacketArrival (p : FabPacket) : Statement (.fabricPacketArrival p) := fun h => by cases h
theorem flaggedApply (die k : Nat) : Statement (.flaggedApply die k) := fun h => by cases h
theorem fabricAckArrival (a : FabAck) : Statement (.fabricAckArrival a) := fun h => by cases h
theorem rgetDataArrival (a : FabAck) (data : List Byte) : Statement (.rgetDataArrival a data) := fun h => by cases h
theorem ramoReply (a : FabAck) (old : Word) : Statement (.ramoReply a old) := fun h => by cases h
theorem packetTrim (die flow pkt : Nat) : Statement (.packetTrim die flow pkt) := fun h => by cases h
theorem flowRetryTimeout (die flow : Nat) : Statement (.flowRetryTimeout die flow) := fun h => by cases h
theorem laceFlitReceive (port : Nat) (f : LaceFlit) : Statement (.laceFlitReceive port f) := fun h => by cases h
theorem laceReplayRequest (port seq : Nat) : Statement (.laceReplayRequest port seq) := fun h => by cases h
theorem laneScoreInterval (port : Nat) (counts : List Nat) : Statement (.laneScoreInterval port counts) := fun h => by cases h
theorem readReplyArrival (k : Nat) : Statement (.readReplyArrival k) := fun h => by cases h
theorem markerAcknowledgement (k : Nat) : Statement (.markerAcknowledgement k) := fun h => by cases h
theorem barrierArrival (k : Nat) : Statement (.barrierArrival k) := fun h => by cases h
theorem weightStoreLanding (die job : Nat) : Statement (.weightStoreLanding die job) := fun h => by cases h
theorem invalidationRequestArrival (k : Nat) : Statement (.invalidationRequestArrival k) := fun h => by cases h
theorem memoryNodeResetRelease (die : Nat) : Statement (.memoryNodeResetRelease die) := fun h => by cases h
theorem coreResetRelease (c : Nat) : Statement (.coreResetRelease c) := fun h => by cases h
theorem powerLoss : Statement .powerLoss := fun h => by cases h
theorem objectLoad (vf : Nat) (image : List Byte) (name : Nat) (place : List SegPlace) : Statement (.objectLoad vf image name place) := fun h => by cases h
theorem objectUnload (vf obj : Nat) : Statement (.objectUnload vf obj) := fun h => by cases h
theorem pointerKeyReplace (vf : Nat) (key : BitVec 128) : Statement (.pointerKeyReplace vf key) := fun h => by cases h
theorem powerTransitionDone (die : Nat) : Statement (.powerTransitionDone die) := fun h => by cases h

end Sys2Proof.Laws.Encodes
end

