-- ==== Sys2Proof/Laws/Plan.lean ====
section
/-!
SUPPORT. Laws of the instructions whose instances begin one after the other once all have passed their checks (R371, R373): what
`inTurn` and `planned` can do.
-/

namespace Sys2Proof.Machine

variable {room : State → Planned → Bool} {act : State → Planned → State} {check : State → Act (State × List Planned)} {s : State}

/-- Nothing left to begin. -/
@[simp] theorem inTurn_nil (b : Bool) : inTurn room act b [] s = .ok s := rfl

/-- The first instance begins when there is room for it. -/
theorem inTurn_room {p : Planned} {ps : List Planned} (b : Bool) (h : room s p = true) :
    inTurn room act b (p :: ps) s = inTurn room act true ps (act s p) := by simp [inTurn, h]

/-- Without room the instruction waits at issue, or holds with what it has left once an instance has begun. -/
theorem inTurn_full {p : Planned} {ps : List Planned} (b : Bool) (h : room s p = false) :
    inTurn room act b (p :: ps) s =
      if b then .error (.hold (s.keepHeld { s.holding with atomic := true, plan := p :: ps })) else .error (.wait .other) := by
  simp [inTurn, h]

/-- An instruction that has begun goes on without its checks. -/
theorem planned_begun {p : Planned} {ps : List Planned} (h : s.holding.plan = p :: ps) :
    planned room act check s = inTurn room act true (p :: ps) s := by simp [planned, h]

/-- One that has not begun makes its checks, and begins what they planned. -/
theorem planned_fresh {u : State} {ps : List Planned} (h : s.holding.plan = []) (c : check s = .ok (u, ps)) :
    planned room act check s = inTurn room act false ps u := by simp [planned, h, c, bind, Except.bind]

/-- A check that stops, stops the instruction before any instance has begun. -/
theorem planned_stopped {st : Stop} (h : s.holding.plan = []) (c : check s = .error st) : planned room act check s = .error st := by
  simp [planned, h, c, bind, Except.bind]

end Sys2Proof.Machine
end

