-- ==== Sys2Proof/Laws/Vector.lean ====
section
/-!
SUPPORT. Laws of the frame of vector instructions: with ready operands a vector instruction runs once per active instance, writes its
destination, pops its links and joins its flags.
-/

namespace Sys2Proof.Machine

variable {s s' : State} {i : Ins}

/-- Running a computation that never stops over instances collects its results in order. -/
theorem widenOver_ok {α : Type} (S : Nat) (f : State → Nat → Act (State × α)) (v : Nat → α)
    (h : ∀ k, f s k = .ok (s, v k)) (ks : List Nat) : widenOver S f ks s = .ok (s, ks.map fun k => (k, v k)) := by
  induction ks with
  | nil => rfl
  | cons k ks ih => simp [widenOver, h, atInstance, Except.bind, ih]

/-- The value of a listed instance. -/
theorem tget_map_mem {α : Type} (d : α) (v : Nat → α) {ks : List Nat} {k : Nat} (h : k ∈ ks) :
    tget (ks.map fun k => (k, v k)) d k = v k := by
  induction ks with
  | nil => simp at h
  | cons j ks ih =>
    by_cases hj : j = k
    · subst hj; simp [tget, tlook]
    · have : k ∈ ks := by simpa [Ne.symm hj] using h
      simpa [tget, tlook, hj] using ih this

/-- Operand readiness sees of a state its context, its links and its handles. -/
theorem sourceChecks_ready {srcs : List (Nat × Nat)} (h : ∀ p ∈ srcs, sourceReady s p) (hc : s'.ctx.handles = s.ctx.handles)
    (hcur : s'.cur = s.cur) : sourceChecks s' srcs = .ok () := by
  induction srcs with
  | nil => rfl
  | cons p ps ih =>
    obtain ⟨f, c⟩ := p
    have hp := h (f, c) (by simp)
    have hps := ih fun q hq => h q (by simp [hq])
    have hh : s'.ctx.handle (c - 52) = s.ctx.handle (c - 52) := by simp [Ctx.handle, hc]
    simp only [sourceReady] at hp
    by_cases h1 : isPort c = true
    · have h2 : isHandle c = false := by simp [isPort, isHandle] at h1 ⊢; omega
      have h3 : (neighbour s.cur c).isSome = true := by
        rcases hp with hp | hp | hp | hp | hp | hp
        all_goals first | exact hp.2.1 | (simp [isPort] at h1; omega) | (simp [hp.1] at h2)
      obtain ⟨n, hn⟩ := Option.isSome_iff_exists.1 h3
      simp [sourceChecks, h1, h2, portCheck, hcur, hn, hps, bind, Except.bind]
    · by_cases h2 : isHandle c = true
      · have h3 : handleUsable s c := by
          rcases hp with hp | hp | hp | hp | hp | hp
          all_goals first | exact hp.2.1 | (simp [isHandle] at h2; omega) | (simp [hp.1] at h1)
        have h4 : handleCheck s' c = .ok () := by
          simp only [handleCheck, hh, if_neg h3.1, if_neg (by have := h3.2; omega : ¬ (s.ctx.handle (c - 52)).size < 128)]
        simp [sourceChecks, h1, h2, h4, hps, bind, Except.bind]
      · simp [sourceChecks, h1, h2, hps]

/-- The waits of ready sources are over. -/
theorem sourceWaits_ready {srcs : List (Nat × Nat)} (h : ∀ p ∈ srcs, sourceReady s p) (hm : matrixIdle s')
    (hc : s'.ctx.handles = s.ctx.handles) (hh : s'.ctx.hints = s.ctx.hints) (hcur : s'.cur = s.cur)
    (hf : (s'.core s.cur).fifos = (s.core s.cur).fifos) : sourceWaits s' srcs = .ok () := by
  induction srcs with
  | nil => rfl
  | cons p ps ih =>
    obtain ⟨f, c⟩ := p
    have hp := h (f, c) (by simp)
    have hps := ih fun q hq => h q (by simp [hq])
    have hh1 : s'.ctx.handle (c - 52) = s.ctx.handle (c - 52) := by simp [Ctx.handle, hc]
    have ht : takeOf s'.ctx c f = takeOf s.ctx c f := by simp [takeOf, hh, hh1]
    have hs : spadWait s' false = .ok () := by simp [spadWait, show s'.myCommands = [] from hm, waitFor]
    simp only [sourceReady] at hp
    by_cases h1 : isPort c = true
    · have h2 : isHandle c = false := by simp [isPort, isHandle] at h1 ⊢; omega
      have h3 : tget (s.core s.cur).fifos [] c ≠ [] := by
        rcases hp with hp | hp | hp | hp | hp | hp
        all_goals first | exact hp.2.2 | (simp [isPort] at h1; omega) | (simp [hp.1] at h2)
      simp [sourceWaits, h1, h2, hcur, hf, h3, hps, bind, Except.bind, waitFor]
    · by_cases h2 : isHandle c = true
      · have h3 : takeOf s.ctx c f ≤ (s.ctx.handle (c - 52)).filled := by
          rcases hp with hp | hp | hp | hp | hp | hp
          all_goals first | exact hp.2.2 | (simp [isHandle] at h2; omega) | (simp [hp.1] at h1)
        have h4 : handleWait s' c f false = .ok () := by
          simp [handleWait, hs, ht, hh1, h3, waitFor, bind, Except.bind]
        simp [sourceWaits, h1, h2, h4, hps, bind, Except.bind]
      · simp [sourceWaits, h1, h2, hps]

end Sys2Proof.Machine
end

