-- ==== Sys2Proof/Tests/Slice0.lean ====
section
/-!
SUPPORT. Tests: ill-formed instructions are refused, words written out from the spec decode to their instructions, single steps
give the values the spec gives, and for every statement with hypotheses a state and operands that meet all of them.
-/

namespace Sys2Proof.Tests

open Sys2Proof Sys2Proof.Machine Sys2Proof.Machine.Claims

section

set_option Elab.async false

/-- The state the tests start from: an activation runs in context 0 of core 0, at service level 3. -/
def go : State := State.reset.boot

/-- The same with its context changed. -/
def on (f : Ctx → Ctx) : State := go.modCtx f

/-- A scalar register given a value. -/
def withS (n : Nat) (v : Word) : State := on fun x => x.putS n (plain v)

/-- A code pointer of the test's object at an offset. -/
def codeAt (o : Nat) : Word := mkPtr 0 permX 1 o

/-- One lift level of extent 4, scalar register 1 tagged with it. -/
def lifted (v : Word) (more : Table Word) : State :=
  on fun x => { x with lift := { levels := [⟨4, 0, 0⟩], active := [0, 1, 2, 3] }, regs := { s := [(1, ⟨1, v, more⟩)] } }

/-- The virtual function of the tests replaced. -/
def withVf (v : Vf) : State := { go with vfs := [(0, v)] }

/-- An object with one code segment and one pointer. -/
def demoObj : Obj :=
  { slots := [1], nptr := 1, table := 1, floor := false, cls := [], handlers := [], nodes := [], edges := [], words := []
    level3 := false, spads := [], wellFormed := true }

/-- Outside a repetition body there is room for any word. -/
theorem room_of_no_rep {x : Ctx} (h : x.rep = none) : bodyHasRoom x := fun r e => by rw [h] at e; cases e

/-- Without a pending `hjoin` there is nothing to check about it. -/
theorem join_of_none {s : State} (h : s.ctx.hints.join = none) : joinInCode s := fun o e => by rw [h] at e; cases e

/-- Without lift levels no pool register holds an instance (R368). -/
theorem instRegs_flat {x y : Ctx} (h : x.lift.levels = []) (l : y.lift = x.lift) (e : y.held = x.held) : y.instRegs ≤ x.instRegs := by
  have c : ∀ z : Ctx, z.lift = x.lift → ∀ t, instCount z.lift t = 1 := fun z e t => by simp [e, instCount, extOf, h, nth]
  simp [Ctx.instRegs, c x rfl, c y l, e]

/-- Tag records keep the lift state and what the word holds. -/
theorem noteTags_keeps (x : Ctx) (c n o : Nat) : (x.noteTags c n o).lift = x.lift ∧ (x.noteTags c n o).held = x.held := by
  unfold Ctx.noteTags; split <;> exact ⟨rfl, rfl⟩

/-- Without lift levels a scalar result finds room. -/
theorem sroom {s : State} (h : s.ctx.lift.levels = []) (d S : Nat) (f : Nat → Word) : scalarRoom s d S f :=
  .inl (instRegs_flat h (by unfold Ctx.putS; split; exacts [rfl, (noteTags_keeps ..).1])
    (by unfold Ctx.putS; split; exacts [rfl, (noteTags_keeps ..).2]))

/-- Without lift levels a vector result finds room. -/
theorem vroom {s : State} (h : s.ctx.lift.levels = []) (v S : Nat) : vectorRoom s v S := fun _f =>
  .inl (instRegs_flat h (noteTags_keeps ..).1 (noteTags_keeps ..).2)

/-- What a computation answers besides the state. -/
theorem found {β : Type} {x : Act (State × β)} {q : β} (h : (match x with | .ok r => some r.2 | .error _ => none) = some q) :
    ∃ u, x = .ok (u, q) := by
  cases x with
  | error e => cases h
  | ok r => obtain ⟨u, p⟩ := r; injection h with h; exact ⟨u, congrArg (fun p => Except.ok (u, p)) h⟩

/-- A data pointer into the test's page, all permissions. -/
def dataAt (o : Nat) : Word := mkPtr 0 15 1 o

/-- Register 1 holds a data pointer. -/
def withPtr (o : Nat) : State := withS 1 (dataAt o)

/-- No command is queued. -/
theorem idle {s : State} (h : s.myCommands = []) : matrixIdle s := h

/-- No word has bad parity. -/
theorem clean {s : State} (h : s.ctx.bad = []) : parityClean s := h

/-! ## Witnesses: scalar instructions -/

theorem test_twoSource_met : ∃ (i : Instr) (d a b w : Nat) (f : Word → Word → Word) (s : State),
    twoSource i = some (d, a, b, f) ∧ encode i = some w ∧ s.admits { word := w, reads := [a, b], writes := [d] } = true ∧
    scalarRoom s d (s.ctx.tagUnion [a, b]) fun k => f (atInst (s.ctx.sreg a) k) (atInst (s.ctx.sreg b) k) :=
  ⟨.add 3 1 2, 3, 1, 2, _, _, withS 1 7, rfl, rfl, by decide +kernel, .inl (by decide +kernel)⟩

theorem test_twoSource_lifted_met : ∃ (i : Instr) (d a b w : Nat) (f : Word → Word → Word) (s : State),
    twoSource i = some (d, a, b, f) ∧ encode i = some w ∧ s.admits { word := w, reads := [a, b], writes := [d] } = true ∧
    s.ctx.tagUnion [a, b] = 1 ∧
    scalarRoom s d (s.ctx.tagUnion [a, b]) fun k => f (atInst (s.ctx.sreg a) k) (atInst (s.ctx.sreg b) k) :=
  ⟨.div 3 1 2, 3, 1, 2, _, _, lifted 7 [(1, 8)], rfl, rfl, by decide +kernel, by decide +kernel, .inr (by decide +kernel)⟩

theorem test_oneSource_met : ∃ (i : Instr) (d a w : Nat) (f : Word → Word) (s : State),
    oneSource i = some (d, a, f) ∧ encode i = some w ∧ i.wf = true ∧ s.admits { word := w, reads := [a], writes := [d] } = true ∧
    scalarRoom s d (s.ctx.tagUnion [a]) fun k => f (atInst (s.ctx.sreg a) k) :=
  ⟨.shli 3 1 63, 3, 1, _, _, withS 1 7, rfl, rfl, by decide, by decide +kernel, .inl (by decide +kernel)⟩

theorem test_immediate_met : ∃ (i : Instr) (d a w : Nat) (f : Pending → Word → Word) (s : State),
    immediate i = some (d, a, f) ∧ encode i = some w ∧ i.wf = true ∧ s.admits { word := w, reads := [a], writes := [d] } = true ∧
    scalarRoom s d (s.ctx.tagUnion [a]) fun k => f s.ctx.hints (atInst (s.ctx.sreg a) k) :=
  ⟨.slti 3 1 0x1FFF, 3, 1, _, _, on fun x => { x with hints := { ext := [5, 6] } }, rfl, rfl, by decide, by decide +kernel,
    .inl (by decide +kernel)⟩

theorem test_ldhi_met : ∃ (d i w : Nat) (s : State), encode (.ldhi d i) = some w ∧ s.admits { word := w, writes := [d] } = true ∧
    scalarRoom s d 0 fun _ => ((BitVec.ofNat 20 i).signExtend 64) <<< 14 :=
  ⟨5, 0xFFFFF, _, go, rfl, by decide +kernel, .inl (by decide +kernel)⟩

theorem test_bfi_met : ∃ (d a b : Nat) (s : State), s.admits { word := wordBfi d a b, reads := [d, a, b], writes := [d] } = true ∧
    ∀ f, scalarRoom s d (s.ctx.tagUnion [d, a, b]) f :=
  ⟨0, 1, 2, go, by decide +kernel, fun _ => .inl (Nat.le_refl _)⟩

theorem test_padd_met : ∃ (d a b : Nat) (s : State), s.admits { word := wordPadd d a b, reads := [a, b], writes := [d] } = true ∧
    (∀ k ∈ activeOf s.ctx.lift (s.ctx.tagUnion [a, b]), (ptrSegment s.myVf (atInst (s.ctx.sreg a) k)).isSome = true ∧
      0 ≤ (ptrOff (atInst (s.ctx.sreg a) k) : Int) + (atInst (s.ctx.sreg b) k).toInt ∧
      (ptrOff (atInst (s.ctx.sreg a) k) : Int) + (atInst (s.ctx.sreg b) k).toInt < 2 ^ 40) ∧
    ∀ f, scalarRoom s d (s.ctx.tagUnion [a, b]) f :=
  ⟨0, 1, 2, on fun x => (x.putS 1 (plain (codeAt 8))).putS 2 (plain (-8)), by decide +kernel, by decide +kernel,
    fun _ => .inl (Nat.le_refl _)⟩

theorem test_pchk_met : ∃ (d a b : Nat) (s : State), s.admits { word := wordPchk d a b, reads := [a, b], writes := [d] } = true ∧
    (ptrSegment s.myVf (atInst (s.ctx.sreg a) 0)).isSome = true ∧ ∀ f, scalarRoom s d (s.ctx.tagUnion [a, b]) f :=
  ⟨0, 1, 2, withS 1 (codeAt 8), by decide +kernel, by decide +kernel, fun _ => .inl (Nat.le_refl _)⟩

/-- The test's object has a pointer table of one entry. -/
def withTable : State := withVf { bootVf with objs := [(0, demoObj)] }

theorem test_lea_met : ∃ (d i j va : Nat) (o : Obj) (s : State), s.admits { word := wordLea d i, writes := [d] } = true ∧
    s.admits { word := wordLea d j, writes := [d] } = true ∧ s.objOf s.ctx.id.vf s.ctx.pc = some o ∧ o.nptr ≤ j ∧ i < o.nptr ∧
    ptrCheck s.myVf (o.entryAt s.myVf i) permR 8 = .ok va ∧ va % 8 = 0 ∧
    tlook (s.core s.cur).icache (lineKey s.ctx.id.vf va) = none ∧
    (∃ u pa nc, translate s (o.entryAt s.myVf i) va permR false = .ok (u, pa, nc) ∧ s.memUp (homeDie pa) = true ∧
      s.poison.contains (granuleOf pa) = false) ∧ ∀ v, scalarRoom s d 0 v :=
  ⟨3, 0, 1, 0x10000, demoObj, withTable, by decide +kernel, by decide +kernel, (by decide +kernel), by decide, by decide,
    (by decide +kernel), by decide, by decide +kernel,
    (found (q := (0x10000050000, false)) (by decide +kernel)).elim fun u h => ⟨u, _, _, h, by decide +kernel, by decide +kernel⟩,
    sroom (by decide +kernel) _ _⟩

theorem test_lea_cached_met : ∃ (d i va line : Nat) (o : Obj) (s : State), s.admits { word := wordLea d i, writes := [d] } = true ∧
    s.objOf s.ctx.id.vf s.ctx.pc = some o ∧ i < o.nptr ∧ ptrCheck s.myVf (o.entryAt s.myVf i) permR 8 = .ok va ∧ va % 8 = 0 ∧
    tlook (s.core s.cur).icache (lineKey s.ctx.id.vf va) = some line ∧ ∀ v, scalarRoom s d 0 v :=
  ⟨3, 0, 0x10000, 0x123456789, demoObj, withTable.modCore 0 fun k => { k with icache := [(0x400, 0x123456789)] }, by decide +kernel,
    by decide +kernel, (by decide), by decide +kernel, by decide, (by decide +kernel), sroom (by decide +kernel) _ _⟩

/-! ## Witnesses: hints, control flow, special registers, parks -/

theorem test_attaching_met : ∃ (i : Instr) (w : Nat) (free : Pending → Prop) (add : Pending → Pending) (s u : State),
    attaching i = some (free, add) ∧ encode i = some w ∧ (s.ctx.status = .running ∧ bodyHasRoom s.ctx ∧ free s.ctx.hints) ∧
    (u.ctx.status = .running ∧ bodyHasRoom u.ctx ∧ ¬ free u.ctx.hints) :=
  ⟨.hext 5, _, _, _, on fun x => { x with hints := { ext := [1] } }, on fun x => { x with hints := { ext := [1, 2] } }, rfl, rfl,
    ⟨by decide +kernel, room_of_no_rep (by decide +kernel), by decide +kernel⟩, ⟨by decide +kernel, room_of_no_rep (by decide +kernel), by decide +kernel⟩⟩

theorem test_hints_met : ∃ s : State, s.ctx.status = .running ∧ bodyHasRoom s.ctx ∧ s.ctx.hints = {} ∧ s.ctx.rep = none :=
  ⟨go, by decide +kernel, room_of_no_rep (by decide +kernel), by decide +kernel, by decide +kernel⟩

theorem test_htrace_met : ∃ s : State, s.ctx.status = .running ∧ bodyHasRoom s.ctx ∧ s.myVf.trace = true ∧
    (tget s.host.traces [] s.ctx.id.vf).length < tget s.host.traceCounts 64 s.ctx.id.vf :=
  ⟨withVf { bootVf with trace := true }, by decide +kernel, room_of_no_rep (by decide +kernel), by decide +kernel, by decide +kernel⟩

theorem test_branch_met : ∃ (i : Instr) (a b o w : Nat) (c : Word → Word → Prop) (s : State) (t : Word),
    condBranch i = some (a, b, o, c) ∧ encode i = some w ∧ i.wf = true ∧ s.admits { word := w, reads := [a, b] } = true ∧
    s.ctx.tagUnion [a, b] = 0 ∧ joinInCode s ∧ c (s.ctx.sv a) (s.ctx.sv b) ∧ relative s (immInt s.ctx.hints 14 o) t ∧
    fetchable s t :=
  ⟨.bge 1 2 3, 1, 2, 3, _, _, go, codeAt 12, rfl, rfl, by decide, by decide +kernel, by decide +kernel, join_of_none (by decide +kernel),
    by decide +kernel, ⟨by decide +kernel, by decide +kernel, by decide +kernel⟩, 0x1000C, by decide +kernel⟩

theorem test_branch_not_taken_met : ∃ (i : Instr) (a b o w : Nat) (c : Word → Word → Prop) (s : State),
    condBranch i = some (a, b, o, c) ∧ encode i = some w ∧ i.wf = true ∧ s.admits { word := w, reads := [a, b] } = true ∧
    s.ctx.tagUnion [a, b] = 0 ∧ joinInCode s ∧ ¬ c (s.ctx.sv a) (s.ctx.sv b) :=
  ⟨.blt 1 2 3, 1, 2, 3, _, _, go, rfl, rfl, by decide, by decide +kernel, by decide +kernel, join_of_none (by decide +kernel),
    by decide +kernel⟩

theorem test_jmp_jal_met : ∃ (o : Nat) (t : Word) (s : State), (Instr.jmp o).wf = true ∧ s.admits { word := wordJmp o } = true ∧
    (Instr.jal o).wf = true ∧ s.admits { word := wordJal o, writes := [31] } = true ∧ relative s (immInt s.ctx.hints 26 o) t ∧
    fetchable s t ∧ scalarRoom s 31 0 fun _ => pc4 s :=
  ⟨2, codeAt 8, go, by decide, by decide +kernel, (by decide), by decide +kernel,
    ⟨by decide +kernel, by decide +kernel, by decide +kernel⟩, ⟨0x10008, by decide +kernel⟩, .inl (by decide +kernel)⟩

theorem test_jr_jalr_met : ∃ (d a : Nat) (s : State), s.admits { word := wordJr a, reads := [a] } = true ∧
    s.admits { word := wordJalr d a, reads := [a], writes := [d] } = true ∧ (s.ctx.sreg a).tags = 0 ∧
    fetchable s (s.ctx.sv a) ∧ ptrOff (s.ctx.sv a) % 4 = 0 ∧ scalarRoom s d 0 fun _ => pc4 s :=
  ⟨2, 1, withS 1 (codeAt 0xFFFC), by decide +kernel, by decide +kernel, by decide +kernel, ⟨0x1FFFC, by decide +kernel⟩,
    by decide +kernel, .inl (by decide +kernel)⟩

theorem test_ret_met : ∃ s : State, s.admits { word := wordRet, reads := [31] } = true ∧ (s.ctx.sreg 31).tags = 0 ∧
    fetchable s (s.ctx.sv 31) ∧ ptrOff (s.ctx.sv 31) % 4 = 0 :=
  ⟨withS 31 (codeAt 0), by decide +kernel, by decide +kernel, ⟨0x10000, by decide +kernel⟩, by decide +kernel⟩

theorem test_loop_met : ∃ (a o : Nat) (t : Word) (s : State), (Instr.loop a o).wf = true ∧
    s.admits { word := wordLoop a o, reads := [a], writes := [a], ends := true } = true ∧ (s.ctx.sreg a).tags = 0 ∧ joinInCode s ∧
    (s.ctx.sv a - 1 ≠ 0 → relative s (immInt s.ctx.hints 14 o) t ∧ fetchable s t) ∧ scalarRoom s a 0 fun _ => s.ctx.sv a - 1 :=
  ⟨1, 2, codeAt 8, withS 1 2, by decide, by decide +kernel, by decide +kernel, join_of_none (by decide +kernel),
    fun _ => ⟨⟨by decide +kernel, by decide +kernel, by decide +kernel⟩, 0x10008, by decide +kernel⟩, .inl (by decide +kernel)⟩

/-- Instances 0 and 2 of register 1 are zero, under an `hjoin` four words on. -/
def forked : State :=
  on fun x =>
    { x with hints := { join := some 4 }, lift := { levels := [⟨4, 0, 0⟩], active := [0, 1, 2, 3] },
             regs := { s := [(1, ⟨1, 0, [(1, 5), (3, 6)]⟩)] } }

theorem test_batched_branch_met : ∃ (i : Instr) (a b o p w va : Nat) (c : Word → Word → Prop) (j t : Word) (s : State),
    condBranch i = some (a, b, o, c) ∧ encode i = some w ∧ i.wf = true ∧
    s.admits { word := w, reads := [a, b], ends := true } = true ∧ s.ctx.tagUnion [a, b] ≠ 0 ∧ s.ctx.hints.join = some p ∧
    relative s p j ∧ ptrCheck s.myVf j 0 4 = .ok va ∧ relative s (immInt s.ctx.hints 14 o) t ∧ ptrOff s.ctx.pc < ptrOff t ∧
    ptrOff t ≤ ptrOff j ∧ fetchable s t ∧ s.ctx.lift.frames.length < 16 ∧
    ∃ taken : Nat → Bool, ∀ k, taken k = true ↔ c (atInst (s.ctx.sreg a) k) (atInst (s.ctx.sreg b) k) :=
  ⟨.beq 1 0 2, 1, 0, 2, 4, _, 0x10010, _, codeAt 16, codeAt 8, forked, rfl, rfl, by decide, by decide +kernel, (by decide +kernel),
    by decide +kernel, ⟨by decide +kernel, by decide +kernel, by decide +kernel⟩, by decide +kernel,
    ⟨by decide +kernel, by decide +kernel, by decide +kernel⟩, by decide +kernel, by decide +kernel, ⟨0x10008, by decide +kernel⟩,
    by decide +kernel, fun k => decide (atInst (forked.ctx.sreg 1) k = atInst (forked.ctx.sreg 0) k), fun _ => decide_eq_true_iff⟩

theorem test_rdsr_met (r : Nat) (h : r = 0x040 ∨ r = 0x002 ∨ r = 0x012 ∨ r = 0x023 ∨ r = 0x025 ∨ r = 0xFFF) :
    ∃ (d : Nat) (v : Word) (s : State), plainSpecial s r = some v ∧ s.admits { word := wordRdsr d r, writes := [d] } = true ∧
    scalarRoom s d 0 fun _ => v := by
  rcases h with rfl | rfl | rfl | rfl | rfl | rfl <;> exact ⟨9, _, go, rfl, by decide +kernel, .inl (by decide +kernel)⟩

/-- R365, R366: `sr.gauge2` names the level pushed with it; `sr.lact` counts instances and the open frame with its axes. -/
theorem test_lift_registers :
    let s := on fun x => { x with lift := { levels := [⟨4, 2, 0⟩], active := [0, 2], frames := [.fork 0 1 [] [] 0] }
                                  sp := { x.sp with gauge := [1, 1, 4, 1] } }
    readSpecial s 0x022 0 = 0x10004 ∧ readSpecial s 0x025 0 = 0x1010002 := by decide +kernel

theorem test_rdsr_lidx_met : ∃ (d : Nat) (s : State), s.admits { word := wordRdsr d 0x026, writes := [d] } = true ∧
    scalarRoom s d (2 ^ s.ctx.lift.levels.length - 1) fun k => BitVec.ofNat 64 k :=
  ⟨9, lifted 7 [], by decide +kernel, .inr (by decide +kernel)⟩

theorem test_wrsr_met : ∃ (a r q : Nat) (s u : State),
    (s.admits { word := wordWrsr a r, reads := [a], ends := true, once := true } = true ∧
      ∃ sp, specialWritten s.ctx.sp (s.ctx.sv a) r = some sp) ∧
    (s.admits { word := wordWrsr a q, reads := [a], ends := true, once := true } = true ∧
      specialWritten s.ctx.sp (s.ctx.sv a) q = none) ∧
    (u.admits { word := wordWrsr a r, reads := [a], ends := true, once := true } = true ∧
      specialWritten u.ctx.sp (u.ctx.sv a) r = none) :=
  ⟨1, 0x010, 0x030, withS 1 0x300, withS 1 0x400, ⟨by decide +kernel, _, rfl⟩, ⟨by decide +kernel, rfl⟩, by decide +kernel, rfl⟩

theorem test_trap_met : ∃ (a : Nat) (s : State),
    s.admits { word := wordTrap a, reads := [a], ends := true, once := true } = true ∧
    s.admits { word := wordBrk, ends := true, once := true } = true :=
  ⟨1, withS 1 7, by decide +kernel, by decide +kernel⟩

theorem test_unaccepted_met : ∃ (i : Instr) (w : Nat) (s u : State), encode i = some w ∧ i.wf = true ∧ bits w 26 6 ≠ 0x01 ∧
    (s.ctx.status = .running ∧ accepts s.ctx.hints w = false) ∧ (u.ctx.status = .running ∧ repAllows u.ctx w = false) :=
  ⟨.add 3 1 2, _, on fun x => { x with hints := { flag := true } }, on fun x => { x with rep := some ⟨2, 1, 0, 0, 16, none, []⟩ }, rfl, by decide, by decide,
    ⟨by decide +kernel, by decide +kernel⟩, by decide +kernel, by decide +kernel⟩

/-- Words that no operand value makes ILL. -/
theorem legal_of {s : State} {i : Instr} {w : Nat} (a : i ≠ .repend) (b : ∀ d n, i ≠ .msgrd d n)
    (c : bits w 26 6 ≠ 0x1B ∧ bits w 26 6 ≠ 0x22 ∧ bits w 26 6 ≠ 0x32) : operandsLegal s i w :=
  ⟨fun e => absurd e a, fun d n e => absurd e (b d n), fun e => absurd e (not_or.2 ⟨c.1, c.2.1⟩), fun e => absurd e c.2.2⟩

/-- The die at a service level. -/
def atLevel (n : Nat) : State := go.modDie 0 fun d => { d with pw := { d.pw with level := n } }

theorem test_level_met : ∃ (i j : Instr) (w v : Nat) (s u : State),
    (encode i = some w ∧ i.wf = true ∧ bits w 26 6 = 0x3B ∧ s.ctx.status = .running ∧ accepts s.ctx.hints w = true ∧
      repAllows s.ctx w = true ∧ operandsLegal s i w ∧ s.ctx.accf = [] ∧ s.level < 3) ∧
    (encode j = some v ∧ j.wf = true ∧ 0x18 ≤ bits v 26 6 ∧
      ¬ (0x28 ≤ bits v 26 6 ∧ bits v 26 6 ≤ 0x34 ∧ v / 4 % 8 = 0 ∧ (bits v 26 6 = 0x32 → v / 256 % 64 = 0)) ∧
      u.ctx.status = .running ∧ accepts u.ctx.hints v = true ∧ repAllows u.ctx v = true ∧ operandsLegal u j v ∧ u.ctx.accf = [] ∧
      u.level < 2) :=
  ⟨.mmdrn, .vadd 1 2 3 0 1, _, _, atLevel 2, atLevel 1,
    ⟨rfl, by decide, by decide, (by decide +kernel), by decide +kernel, by decide +kernel,
      legal_of (by decide) (fun _ _ => by simp) (by decide),
      by decide +kernel, by decide +kernel⟩,
    rfl, by decide, by decide, (by decide), by decide +kernel, by decide +kernel, (by decide +kernel),
    legal_of (by decide) (fun _ _ => by simp) (by decide),
    by decide +kernel, by decide +kernel⟩

theorem test_level_pointer_met : ∃ (r b z o : Nat) (s : State), s.ctx.tagUnion [r, b] = 0 ∧ isSpad (s.ctx.sv b) = false ∧ s.level < 2 ∧
    (Instr.ld r b z o).wf = true ∧ s.admits { word := wordLd r b z o, reads := [b], writes := [r] } = true ∧
    (Instr.lds r b z o).wf = true ∧ s.admits { word := wordLds r b z o, reads := [b], writes := [r] } = true ∧
    (Instr.st r b z o).wf = true ∧ s.admits { word := wordSt r b z o, reads := [r, b] } = true :=
  ⟨3, 1, 0, 0, (atLevel 1).modCtx fun x => x.putS 1 (plain (codeAt 8)), by decide +kernel, by decide +kernel, (by decide +kernel),
    by decide, by decide +kernel, (by decide), by decide +kernel, by decide, (by decide +kernel)⟩

theorem test_wrsr_readonly_met : ∃ (r : Nat) (s : State), s.ctx.status = .running ∧ ∀ v, specialWritten s.ctx.sp v r = none :=
  ⟨0x030, lifted 7 [], by decide +kernel, fun _ => rfl⟩

theorem test_regviol_met : ∃ (i : Instr) (d a b w c : Nat) (f : Word → Word → Word) (s : State),
    twoSource i = some (d, a, b, f) ∧ encode i = some w ∧ s.ctx.status = .running ∧ accepts s.ctx.hints w = true ∧
    repAllows s.ctx w = true ∧ svcOk s.level w = true ∧ [a, b, d].any s.awaits = false ∧ d < 32 ∧ a < 32 ∧ b < 32 ∧
    s.ctx.region.violates [a, b] [d] = some c :=
  ⟨.add 3 3 2, 3, 3, 2, _, 3, _, go, rfl, rfl, by decide +kernel, by decide +kernel, (by decide +kernel), by decide +kernel,
    by decide +kernel, (by decide), by decide, by decide, (by decide +kernel)⟩

/-! ## Witnesses: memories, loads and stores -/

theorem test_memory_met : ∃ (m : Memory) (a : Nat) (bs : List Byte), Memory.wf m = true ∧ bs.length = 3 ∧ a = 7 ∧ m ≠ [] :=
  ⟨[(8, 5)], 7, [1, 0, 2], by decide, rfl, rfl, by decide⟩

/-- Register 1 names the last 128 bytes of the scratchpad, register 2 holds a stride of −4. -/
def atTop : State := on fun x => (x.putS 1 (plain 786304)).putS 2 (plain (-4))

theorem test_load_spad_met : ∃ (d b z o : Nat) (signed : Bool) (addr : Nat → Nat) (s : State),
    let i : Instr := if signed then .lds d b z o else .ld d b z o
    let w := if signed then wordLds d b z o else wordLd d b z o
    let n : Nat := 2 ^ z
    let S := s.ctx.tagUnion [b]
    i.wf = true ∧ s.admits { word := w, reads := [b], writes := [d] } = true ∧ s.ctx.held = none ∧ matrixIdle s ∧
    (∀ k ∈ activeOf s.ctx.lift S, atSpad s b (immInt s.ctx.hints 11 o * n) n n k (addr k)) ∧ ∀ v, scalarRoom s d S v :=
  ⟨3, 1, 2, 31, true, fun _ => 786428, atTop, by decide, by decide +kernel, by decide +kernel, idle (by decide +kernel),
    by unfold atSpad; decide +kernel, sroom (by decide +kernel) _ _⟩

/-- A pointer names the last doubleword of the test's page. -/
theorem at_page_end (q perm : Nat) (c : q = 11 ∨ q = 12) (h : perm = 2 ∨ perm = 4) (s : State) (e : s = withPtr 0xFFF8 ∨ s = (withPtr 0xFFF8).modCtx fun x =>
      { x with held := some ⟨9, 0, [(0, .data [1, 2, 3, 4, 5, 6, 7, 0xFF])], false, 0, 1, false, [], none⟩ }) :
    atHbm s 1 (immInt s.ctx.hints q 0 * (2 ^ 3 : Nat)) (2 ^ 3) perm (perm == 4) (dataAt 0xFFF8) 0x1000005FFF8 := by
  rcases c with rfl | rfl <;> rcases h with rfl | rfl <;> rcases e with rfl | rfl <;>
    exact ⟨by decide +kernel, by decide +kernel, (by decide +kernel), by decide +kernel, by decide +kernel, (by decide +kernel),
      by decide +kernel, 0x1FFF8, (found (q := (0x1000005FFF8, false)) (by decide +kernel)).elim fun u h =>
        ⟨u, false, by decide +kernel, by decide +kernel, h⟩⟩

theorem test_load_hbm_met : ∃ (d b z o id : Nat) (bs : List Byte) (signed : Bool) (ea : Word) (pa : Nat) (s : State),
    let i : Instr := if signed then .lds d b z o else .ld d b z o
    let w := if signed then wordLds d b z o else wordLd d b z o
    let n : Nat := 2 ^ z
    i.wf = true ∧ s.admits { word := w, reads := [b], writes := [d] } = true ∧ 2 ≤ s.level ∧ s.ctx.lift = {} ∧
    atHbm s b (immInt s.ctx.hints 11 o * n) n permR false ea pa ∧ s.ctx.held = some ⟨id, 0, [(0, .data bs)], false, 0, 1, false, [], none⟩ ∧
    bs.length = n ∧ ∀ v, scalarRoom s d 0 v :=
  ⟨3, 1, 3, 0, 9, [1, 2, 3, 4, 5, 6, 7, 0xFF], false, dataAt 0xFFF8, 0x1000005FFF8, _, by decide, by decide +kernel,
    (by decide +kernel), by decide +kernel, at_page_end 11 2 (.inl rfl) (.inl rfl) _ (.inr rfl), by decide +kernel, by decide,
    sroom (by decide +kernel) _ _⟩

theorem test_load_hbm_first_met : ∃ (d b z o : Nat) (signed : Bool) (ea : Word) (pa : Nat) (s : State),
    let i : Instr := if signed then .lds d b z o else .ld d b z o
    let w := if signed then wordLds d b z o else wordLd d b z o
    let n : Nat := 2 ^ z
    i.wf = true ∧ s.admits { word := w, reads := [b], writes := [d] } = true ∧ 2 ≤ s.level ∧ s.ctx.lift = {} ∧
    atHbm s b (immInt s.ctx.hints 11 o * n) n permR false ea pa ∧ s.ctx.held = none ∧ s.readsOf s.cur < 64 ∧
    homeDie pa = s.myDie :=
  ⟨3, 1, 3, 0, false, dataAt 0xFFF8, 0x1000005FFF8, _, by decide, by decide +kernel, (by decide +kernel), by decide +kernel,
    at_page_end 11 2 (.inl rfl) (.inl rfl) _ (.inl rfl), by decide +kernel, by decide +kernel, by decide +kernel⟩

theorem test_store_spad_met : ∃ (r b z o : Nat) (addr : Nat → Nat) (s : State),
    let n : Nat := 2 ^ z
    let S := s.ctx.tagUnion [r, b]
    (Instr.st r b z o).wf = true ∧ s.admits { word := wordSt r b z o, reads := [r, b] } = true ∧ matrixIdle s ∧
    placed s [r] [b] ∧ (∀ k ∈ activeOf s.ctx.lift S, atSpad s b (immInt s.ctx.hints 12 o * n) n n k (addr k)) :=
  ⟨0, 1, 3, 15, fun _ => 786424, atTop, by decide, by decide +kernel, idle (by decide +kernel),
    fun _ => by decide +kernel, by unfold atSpad; decide +kernel⟩

theorem test_store_hbm_met : ∃ (r b z o : Nat) (ea : Word) (pa : Nat) (s : State),
    let n : Nat := 2 ^ z
    (Instr.st r b z o).wf = true ∧ s.admits { word := wordSt r b z o, reads := [r, b] } = true ∧ 2 ≤ s.level ∧ s.ctx.lift = {} ∧
    (s.ctx.sreg r).tags = 0 ∧ atHbm s b (immInt s.ctx.hints 12 o * n) n permW true ea pa :=
  ⟨0, 1, 3, 0, dataAt 0xFFF8, 0x1000005FFF8, _, by decide, by decide +kernel, (by decide +kernel), by decide +kernel,
    by decide +kernel, at_page_end 12 4 (.inr rfl) (.inr rfl) _ (.inl rfl)⟩

theorem test_vector_loads_met : ∃ (v b p o : Nat) (addr : Nat → Nat) (s : State),
    let S := s.ctx.tagUnion [b, pCode p]
    (Instr.vld v b p o).wf = true ∧ s.admits { word := wordVld v b p o, reads := [b, pCode p], writes := [vCode v] } = true ∧
    (Instr.vldb v b p o).wf = true ∧ s.admits { word := wordVldb v b p o, reads := [b, pCode p], writes := [vCode v] } = true ∧
    s.ctx.held = none ∧ matrixIdle s ∧ (∀ k ∈ activeOf s.ctx.lift S, atSpad s b (immInt s.ctx.hints 9 o * 128) 128 8 k (addr k)) ∧
    (∀ k ∈ activeOf s.ctx.lift S, atSpad s b (immInt s.ctx.hints 9 o * 4) 4 4 k (addr k)) ∧ vectorRoom s v S :=
  ⟨47, 1, 0, 0, fun _ => 786304, atTop, by decide, by decide +kernel, (by decide), by decide +kernel, by decide +kernel,
    idle (by decide +kernel), by unfold atSpad; decide +kernel, by unfold atSpad; decide +kernel,
    vroom (by decide +kernel) _ _⟩

theorem test_vlds_vsts_met : ∃ (v b p st : Nat) (addr : Nat → Nat → Nat) (s : State),
    let S := s.ctx.tagUnion [b, st, pCode p]
    (Instr.vlds v b p st).wf = true ∧ s.admits { word := wordVlds v b p st, reads := [b, st, pCode p], writes := [vCode v] } = true ∧
    (Instr.vsts v b p st).wf = true ∧ s.admits { word := wordVsts v b p st, reads := dataReg v ++ [b, st, pCode p] } = true ∧
    s.ctx.tagUnion (dataReg v ++ [b, st, pCode p]) = S ∧ parityClean s ∧ placed s (dataReg v) [b, st] ∧
    matrixIdle s ∧ (∀ k ∈ activeOf s.ctx.lift S, (atInst (s.ctx.sreg st) k).toInt % 4 = 0 ∧
      lanesAt s b p (fun k l => l * (atInst (s.ctx.sreg st) k).toInt) k (addr k)) ∧ vectorRoom s v S :=
  ⟨5, 1, 0, 2, fun _ l => 786304 - 4 * l, atTop, by decide, by decide +kernel, (by decide), by decide +kernel, by decide +kernel,
    clean (by decide +kernel), fun _ => by decide +kernel, idle (by decide +kernel),
    by unfold lanesAt; decide +kernel, vroom (by decide +kernel) _ _⟩

/-- Vector register 7 holds offsets 0 and 124 in lanes 0 and 31, predicate 1 names these lanes. -/
def scattered : State :=
  on fun x => ((x.putS 1 (plain 786304)).putV 7 (plain (124 <<< 992))).putP 1 (plain 0x80000001)

theorem test_vgat_vsct_met : ∃ (v b i p : Nat) (addr : Nat → Nat → Nat) (s : State),
    let S := s.ctx.tagUnion [b, vCode i, pCode p]
    (Instr.vgat v b i p).wf = true ∧ s.admits { word := wordVgat v b i p, reads := [b, vCode i, pCode p], writes := [vCode v] } = true ∧
    (Instr.vsct v b i p).wf = true ∧ s.admits { word := wordVsct v b i p, reads := dataReg v ++ [b, vCode i, pCode p] } = true ∧
    s.ctx.tagUnion (dataReg v ++ [b, vCode i, pCode p]) = S ∧ placed s (dataReg v) [b, vCode i] ∧
    matrixIdle s ∧ parityClean s ∧ (∀ k ∈ activeOf s.ctx.lift S,
      lanesAt s b p (fun k l => ((laneOf (atInst (s.ctx.vreg i) k) l).toNat : Int)) k (addr k)) ∧ vectorRoom s v S :=
  ⟨5, 1, 7, 1, fun _ l => if l = 31 then 786428 else 786304, scattered, by decide, by decide +kernel, (by decide), by decide +kernel,
    by decide +kernel, fun _ => by decide +kernel, idle (by decide +kernel), clean (by decide +kernel),
    by unfold lanesAt; decide +kernel, vroom (by decide +kernel) _ _⟩

theorem test_vst_met : ∃ (v b p o : Nat) (addr : Nat → Nat) (s : State),
    let S := s.ctx.tagUnion (dataReg v ++ [b, pCode p])
    (Instr.vst v b p o).wf = true ∧ s.admits { word := wordVst v b p o, reads := dataReg v ++ [b, pCode p] } = true ∧
    matrixIdle s ∧ parityClean s ∧ placed s (dataReg v) [b] ∧
    (∀ k ∈ activeOf s.ctx.lift S, atSpad s b (immInt s.ctx.hints 9 o * 128) 128 8 k (addr k)) :=
  ⟨61, 1, 0, 0, fun _ => 786304, atTop, by decide, by decide +kernel, idle (by decide +kernel),
    clean (by decide +kernel), fun _ => by decide +kernel, by unfold atSpad; decide +kernel⟩

/-! ## Witnesses: vector instructions -/

/-- Readiness where every operand is a register and nothing is lifted. -/
theorem ready_regs {s : State} {w : Nat} {u : VUse}
    (ha : s.admits { word := w, reads := u.reads, writes := u.dst.regs, ends := u.ends } = true) (hr : s.ctx.rep = none)
    (hm : s.myCommands = []) (hp : s.ctx.bad = []) (hs : ∀ p ∈ u.srcs, p.2 < 48) (hd : u.dst.code < 48 ∨ u.dst.code = 61)
    (hl : s.ctx.lift.levels = []) : vectorReady s w u :=
  ⟨ha, hr, hm, hp, fun p h => .inl (hs p h), hd.elim (fun h => .inl ⟨h, vroom hl _ _⟩) fun h => .inr (.inl h)⟩

/-- Vector register 8 has been written in the open region, so a word may read and write it. -/
def written : State := on fun x => { x with region := { x.region with wmask := maskOf [vCode 8] } }

/-- Every kind of operand is ready: an entry in the east link of core 0, a slot filled in handle 0, a slot free in handle 1, room in
the east neighbour. -/
def linked : State :=
  (on fun x => { x with handles := [(0, ⟨0, 2, 4, 1, 1, 0, 1⟩), (1, ⟨512, 2, 4, 1, 1, 0, 1⟩)] }).modCore 0 fun k =>
    { k with fifos := [(49, [5])] }

theorem test_vector_arith_met : ∃ (i : Instr) (F : VForm) (w : Nat) (s : State), vectorArith i = some F ∧ encode i = some w ∧
    i.wf = true ∧ vectorReady s w F.use :=
  ⟨.vfma 8 9 10 2 1, _, _, written, rfl, rfl, by decide, ready_regs (by decide +kernel) (by decide +kernel) (by decide +kernel)
    (by decide +kernel) (by decide) (by decide) (by decide +kernel)⟩

theorem test_vector_ports_met : ∃ (i : Instr) (F : VForm) (w : Nat) (s : State), vectorArith i = some F ∧ encode i = some w ∧
    i.wf = true ∧ vectorReady s w F.use ∧ isPort F.dst = true :=
  ⟨.vadd 49 49 52 0 5, _, _, linked, rfl, rfl, by decide, ⟨by decide +kernel, by decide +kernel, idle (by decide +kernel),
    clean (by decide +kernel), by unfold sourceReady handleUsable; decide +kernel,
    .inr (.inr (.inl ⟨by decide +kernel, rfl, 1, by decide +kernel, by decide +kernel⟩))⟩, rfl⟩

theorem test_vector_handle_met : ∃ (i : Instr) (F : VForm) (w : Nat) (s : State), vectorArith i = some F ∧ encode i = some w ∧
    i.wf = true ∧ vectorReady s w F.use ∧ isHandle F.dst = true :=
  ⟨.vsub 53 61 60 0 5, _, _, linked, rfl, rfl, by decide, ⟨by decide +kernel, by decide +kernel, idle (by decide +kernel),
    clean (by decide +kernel), by unfold sourceReady handleUsable; decide +kernel,
    .inr (.inr (.inr ⟨by decide +kernel, rfl, by unfold handleUsable; decide +kernel, by decide +kernel⟩))⟩, rfl⟩

theorem test_vector_bits_met : ∃ (i : Instr) (F : VForm) (w : Nat) (s : State), vectorBits i = some F ∧ encode i = some w ∧
    i.wf = true ∧ vectorReady s w F.use :=
  ⟨.vrot 8 9 10 2 5, _, _, go, rfl, rfl, by decide, ready_regs (by decide +kernel) (by decide +kernel) (by decide +kernel)
    (by decide +kernel) (by decide) (by decide) (by decide +kernel)⟩

theorem test_vector_moves_met : ∃ (i : Instr) (F : VForm) (w : Nat) (s : State), vectorMoves i = some F ∧ encode i = some w ∧
    i.wf = true ∧ vectorReady s w F.use :=
  ⟨.vzip 8 9 10 2 5, _, _, go, rfl, rfl, by decide, ready_regs (by decide +kernel) (by decide +kernel) (by decide +kernel)
    (by decide +kernel) (by decide) (by decide) (by decide +kernel)⟩

theorem test_vext_met : ∃ (d a e t : Nat) (s : State), (Instr.vext d a e t).wf = true ∧
    vectorReady s (wordVext d a e t) { srcs := [(1, a)], dst := .scal d } ∧
    ∀ f, scalarRoom s d (computeTags s { srcs := [(1, a)], dst := .scal d }) f :=
  ⟨3, 7, 31, 5, go, by decide, ready_regs (by decide +kernel) (by decide +kernel) (by decide +kernel) (by decide +kernel) (by decide)
    (by decide) (by decide +kernel), sroom (by decide +kernel) _ _⟩

theorem test_vector_compare_met : ∃ (i : Instr) (d a b p t w : Nat) (lt eq gt nan quiet : Bool) (s : State),
    compare i = some (d, a, b, p, t, lt, eq, gt, nan, quiet) ∧ encode i = some w ∧ i.wf = true ∧
    let u : VUse := { srcs := [(1, a), (2, b)], pr := p, dst := .pred d }
    vectorReady s w u ∧ (∀ f : Nat → Lane, s.roomFor (s.ctx.putP d (writeTagged s.ctx.lift (s.ctx.preg d) (computeTags s u) f))) :=
  ⟨.vclt 1 2 3 0 0, 1, 2, 3, 0, 0, _, _, _, _, _, _, go, rfl, rfl, by decide, ready_regs (by decide +kernel) (by decide +kernel)
    (by decide +kernel) (by decide +kernel) (by decide) (by decide) (by decide +kernel), fun f => .inl (by
      unfold Ctx.putP; split
      · exact Nat.le_refl _
      · exact instRegs_flat (by decide +kernel) (noteTags_keeps ..).1 (noteTags_keeps ..).2)⟩

theorem test_vector_reduce_met : ∃ (i : Instr) (F : VForm) (w : Nat) (s : State), vectorReduce i = some F ∧ encode i = some w ∧
    i.wf = true ∧ vectorReady s w F.use :=
  ⟨.vrsum 7 6 0 5, _, _, go, rfl, rfl, by decide, ready_regs (by decide +kernel) (by decide +kernel) (by decide +kernel)
    (by decide +kernel) (by decide) (by decide) (by decide +kernel)⟩

theorem test_vector_topk_met : ∃ (i : Instr) (F : VForm) (w : Nat) (s : State), vectorReduce i = some F ∧ encode i = some w ∧
    i.wf = true ∧ vectorReady s w F.use :=
  ⟨.vtki 7 6 31 0 0, _, _, go, rfl, rfl, by decide, ready_regs (by decide +kernel) (by decide +kernel) (by decide +kernel)
    (by decide +kernel) (by decide) (by decide) (by decide +kernel)⟩

theorem test_vector_convert_met : ∃ (i : Instr) (F : VForm) (a x t w : Nat) (s : State), vectorConvert i = some (F, a, x, t) ∧
    encode i = some w ∧ i.wf = true ∧ vectorReady s w F.use ∧
    (∀ k ∈ activeOf s.ctx.lift (computeTags s F.use), quantises (tyOf t) (tyOf x) = true → tyOf x = .n4 →
      (quantOf (atInst (s.ctx.vreg (a + 1)) k)).z < 16) ∧ quantises (tyOf t) (tyOf x) = true ∧ tyOf x = .n4 :=
  ⟨.vcvt 8 6 9 0 0, _, 6, 9, 0, _, go, rfl, rfl, by decide, ready_regs (by decide +kernel) (by decide +kernel) (by decide +kernel)
    (by decide +kernel) (by decide) (by decide) (by decide +kernel), by decide +kernel, by decide, by decide⟩

theorem test_vcef_met : ∃ (d a x p t : Nat) (s : State), (Instr.vcef d a x p t).wf = true ∧ a < 47 ∧
    let u : VUse := { srcs := [(1, a)] ++ (if tyOf x = .n4 then [(9, a + 1)] else []), pr := p, dst := .pair d (d + 1) }
    s.admits { word := wordVcef d a x p t, reads := u.reads, writes := u.dst.regs } = true ∧ s.ctx.rep = none ∧ matrixIdle s ∧
    parityClean s ∧ s.ctx.lift = {} ∧ s.ctx.tagUnion u.reads = 0 ∧ (tyOf x = .n4 → (quantOf (s.ctx.vreg (a + 1)).val).z < 16) :=
  ⟨2, 6, 9, 0, 0, go, by decide, by decide, (by decide +kernel), by decide +kernel, idle (by decide +kernel),
    clean (by decide +kernel), by decide +kernel, by decide +kernel, by decide +kernel⟩

/-! ## Witnesses: bounded pointers -/

/-- A load through the pointer in register 1 has its bytes. -/
def came (n : Nat) : State := (withPtr 0).modCtx fun x => { x with held := some ⟨9, 0, [(0, .data (leBytes n 0x1234567))], false, 0, 1, false, [], none⟩ }

theorem test_vld_hbm_met : ∃ (v b p o : Nat) (bs : List Byte) (ea : Word) (s : State), (Instr.vld v b p o).wf = true ∧
    s.admits { word := wordVld v b p o, reads := [b, pCode p], writes := [vCode v] } = true ∧ s.ctx.tagUnion [b, pCode p] = 0 ∧
    isSpad (s.ctx.sv b) = false ∧ addOffset s (s.ctx.sv b) (immInt s.ctx.hints 9 o * 128) false = .ok ea ∧ isSpad ea = false ∧
    allCame s bs ∧ vectorRoom s v 0 :=
  ⟨3, 1, 0, 0, _, dataAt 0, came 128, by decide, by decide +kernel, (by decide +kernel), by decide +kernel, by decide +kernel,
    (by decide +kernel), ⟨9, [(0, .data (leBytes 128 0x1234567))], [leBytes 128 0x1234567], by decide +kernel, by decide, rfl, rfl⟩,
    vroom (by decide +kernel) _ _⟩

theorem test_vldb_hbm_met : ∃ (v b p o : Nat) (bs : List Byte) (ea : Word) (s : State), (Instr.vldb v b p o).wf = true ∧
    s.admits { word := wordVldb v b p o, reads := [b, pCode p], writes := [vCode v] } = true ∧ s.ctx.tagUnion [b, pCode p] = 0 ∧
    isSpad (s.ctx.sv b) = false ∧ addOffset s (s.ctx.sv b) (immInt s.ctx.hints 9 o * 4) false = .ok ea ∧ isSpad ea = false ∧
    allCame s bs ∧ vectorRoom s v 0 :=
  ⟨3, 1, 0, 1, _, dataAt 4, came 4, by decide, by decide +kernel, (by decide +kernel), by decide +kernel, by decide +kernel,
    (by decide +kernel), ⟨9, [(0, .data (leBytes 4 0x1234567))], [leBytes 4 0x1234567], by decide +kernel, by decide, rfl, rfl⟩,
    vroom (by decide +kernel) _ _⟩

theorem test_vst_hbm_met : ∃ (v b p o : Nat) (ea : Word) (u : State) (ps : List (Nat × Nat × Bool)) (s : State),
    (Instr.vst v b p o).wf = true ∧ s.admits { word := wordVst v b p o, reads := dataReg v ++ [b, pCode p] } = true ∧
    s.ctx.tagUnion (dataReg v ++ [b, pCode p]) = 0 ∧ parityClean s ∧ isSpad (s.ctx.sv b) = false ∧
    addOffset s (s.ctx.sv b) (immInt s.ctx.hints 9 o * 128) true = .ok ea ∧ isSpad ea = false ∧
    resolve s ea 128 8 permW true = .ok (u, .hbm ps) :=
  (found (x := resolve (withPtr 0xFF80) (dataAt 0xFF80) 128 8 permW true) (q := .hbm [(0x1000005FF80, 128, false)])
    (by decide +kernel)).elim fun u h =>
  ⟨3, 1, 0, 0, dataAt 0xFF80, u, _, withPtr 0xFF80, by decide, by decide +kernel, by decide +kernel, clean (by decide +kernel),
    by decide +kernel, by decide +kernel, by decide +kernel, h⟩

/-- Register 1 holds a data pointer, register 2 the last 16 scratchpad bytes, register 3 a count of 16. -/
def forGet : State :=
  on fun x => ((x.putS 1 (plain (dataAt 0xFFF0))).putS 2 (plain 786416)).putS 3 (plain 16)

theorem test_mget_met : ∃ (xz : Option (Nat × Nat)) (y ty : Nat) (u : State) (ps : List (Nat × Nat × Bool)) (s : State),
    let i : Instr := match xz with
      | some (x, z) => .mget x y z ty
      | none => .mgetv y ty
    let w := match xz with
      | some (x, z) => wordMget x y z ty
      | none => wordMgetv y ty
    let regs := match xz with
      | some (x, z) => [x, y, z]
      | none => [y]
    let n := match xz with
      | some (_, z) => (s.ctx.sv z).toNat
      | none => 128
    let v := (extended s.ctx.hints 8 ty).1
    i.wf = true ∧ s.admits { word := w, reads := regs, ends := true } = true ∧ s.ctx.tagUnion regs = 0 ∧ matrixIdle s ∧
    v < 2 ^ 32 ∧ v % 256 < 240 ∧ countFits n ∧ (∀ x z, xz = some (x, z) → spadRange (s.ctx.sv x) n) ∧
    resolvePtr s (s.ctx.sv y) n 8 permR false = .ok (u, ps) ∧ s.ctx.held = none ∧ s.readsOf s.cur < 64 ∧ linesFree s ps = true :=
  (found (x := resolvePtr forGet (dataAt 0xFFF0) 16 8 permR false) (q := [(0x1000005FFF0, 16, false)]) (by decide +kernel)).elim
    fun u h =>
  ⟨some (2, 3), 1, 239, u, _, forGet, by decide, by decide +kernel, by decide +kernel, idle (by decide +kernel),
    by decide +kernel, by decide +kernel, by unfold countFits; decide +kernel, fun x z e => by
      cases e; unfold spadRange; decide +kernel, h, by decide +kernel, by decide +kernel, by decide +kernel⟩

theorem test_mgetv_met : ∃ (y ty : Nat) (u : State) (ps : List (Nat × Nat × Bool)) (s : State), (Instr.mgetv y ty).wf = true ∧
    s.admits { word := wordMgetv y ty, reads := [y], ends := true } = true ∧ s.ctx.tagUnion [y] = 0 ∧ matrixIdle s ∧
    (extended s.ctx.hints 8 ty).1 < 2 ^ 32 ∧ (extended s.ctx.hints 8 ty).1 % 256 < 240 ∧ countFits 128 ∧
    resolvePtr s (s.ctx.sv y) 128 8 permR false = .ok (u, ps) ∧ s.ctx.held = none ∧ s.readsOf s.cur < 64 ∧ linesFree s ps = true :=
  (found (x := resolvePtr (withPtr 0xFF80) (dataAt 0xFF80) 128 8 permR false) (q := [(0x1000005FF80, 128, false)])
    (by decide +kernel)).elim fun u h =>
  ⟨1, 9, u, _, withPtr 0xFF80, by decide, by decide +kernel, by decide +kernel, idle (by decide +kernel),
    by decide +kernel, by decide +kernel, by unfold countFits; decide +kernel, h, by decide +kernel, by decide +kernel, by decide +kernel⟩

/-- A split-phase read of core 0 whose pieces have come. -/
def getDone (vecForm : Bool) : MgetRec :=
  { own := { core := 0 }, vecForm := vecForm, x := 64, y := 0x1234, n := 8, type := 9, tag := 7, due := 0, home := 0
    got := [(0, .data [1, 2, 3, 4, 5, 6, 7, 8])] }

/-- The replies of a split-phase read have come to a core; with `full` its queue holds 16 pending messages. -/
def replied (f full : Bool) : State :=
  let s := { go with mgets := [(3, getDone f)] }
  if full then s.modCore 0 fun k => { k with q := { k.q with pendq := List.replicate 16 { type := 9 } } } else s

theorem test_mget_reply_met (f full : Bool) : ∃ (k : Nat) (r : MgetRec) (bss : List (List Byte)) (m : Msg) (u s : State),
    tlook s.mgets k = some r ∧ r.due = 0 ∧ (s.core r.own.core).preempted = false ∧ r.got.map (fun e => e.2) = bss.map Piece.data ∧
    let c := r.own.core
    let bs := bss.flatten
    let rest : State := { s with mgets := tdel s.mgets k, reads := tdel s.reads k }
    u = (if r.vecForm || r.landed then rest else rest.setCore c { rest.core c with spad := mwrite (s.core c).spad r.x bs }) ∧
    (r.vecForm = false → s.isRunning c = true) ∧
    m = { type := r.type, tag := r.tag, words := [if r.vecForm then r.y else BitVec.ofNat 64 r.x, BitVec.ofNat 64 r.n, 0],
          vec := if r.vecForm then some (BitVec.ofNat 1024 (leNat bs)) else none, src := BitVec.ofNat 64 (0x1000 + r.home * 256),
          dst := c, vf := r.own.vf, launch := r.own.launch } ∧
    (u.arrive c m).isNone = full ∧ r.vecForm = f :=
  ⟨3, getDone f, [[1, 2, 3, 4, 5, 6, 7, 8]], _, _, replied f full, by cases f <;> cases full <;> decide +kernel, by cases f <;> rfl,
    by cases f <;> cases full <;> decide +kernel, by cases f <;> decide, rfl, fun _ => by cases f <;> cases full <;> decide +kernel, rfl,
    by cases f <;> cases full <;> decide +kernel, by cases f <;> rfl⟩

theorem test_mput_met : ∃ (x y z : Nat) (u : State) (ps : List (Nat × Nat × Bool)) (s : State),
    s.admits { word := wordMput x y z, reads := [x, y, z] } = true ∧ s.ctx.tagUnion [x, y, z] = 0 ∧ matrixIdle s ∧
    countFits (s.ctx.sv z).toNat ∧ spadRange (s.ctx.sv x) (s.ctx.sv z).toNat ∧
    resolvePtr s (s.ctx.sv y) (s.ctx.sv z).toNat 8 permW true = .ok (u, ps) :=
  (found (x := resolvePtr forGet (dataAt 0xFFF0) 16 8 permW true) (q := [(0x1000005FFF0, 16, false)]) (by decide +kernel)).elim
    fun u h =>
  ⟨2, 1, 3, u, _, forGet, by decide +kernel, by decide +kernel, idle (by decide +kernel), by unfold countFits; decide +kernel,
    by unfold spadRange; decide +kernel, h⟩

/-- Register 1 holds a reference to the last 128 scratchpad bytes of core 1, register 3 their count. -/
def forRef : State := on fun x => (x.putS 1 (plain 0x1000BFF80)).putS 3 (plain 128)

theorem test_mput_r_met : ∃ (x y z a c : Nat) (s : State),
    s.admits { word := wordMputR x y z, reads := [x, y, z], ends := true } = true ∧ s.ctx.tagUnion [x, y, z] = 0 ∧ matrixIdle s ∧
    countFits (s.ctx.sv z).toNat ∧ (s.ctx.sv z).toNat ≤ 128 ∧ spadRange (s.ctx.sv x) (s.ctx.sv z).toNat ∧
    resolveRef s (s.ctx.sv y) true = .ok (a, c) ∧ a + (s.ctx.sv z).toNat ≤ 786432 ∧ a % 8 = 0 :=
  ⟨2, 1, 3, 786304, 1, forRef, by decide +kernel, by decide +kernel, idle (by decide +kernel), by unfold countFits; decide +kernel,
    by decide +kernel, by unfold spadRange; decide +kernel, by decide +kernel, by decide +kernel, by decide⟩

theorem test_mputv_met : ∃ (y v : Nat) (tgt : PutTo) (s : State), (Instr.mputv y v).wf = true ∧
    s.admits { word := wordMputv y v, reads := dataReg v ++ [y], ends := isPort v } = true ∧ s.ctx.tagUnion (dataReg v ++ [y]) = 0 ∧
    (v = 62 → s.ctx.lift.levels = []) ∧ matrixIdle s ∧ parityClean s ∧ sourceReady s (2, v) ∧
    ∃ u ps, resolvePtr s (s.ctx.sv y) 128 8 permW true = .ok (u, ps) ∧ tgt = .hbm ps :=
  (found (x := resolvePtr (withPtr 0xFF80) (dataAt 0xFF80) 128 8 permW true) (q := [(0x1000005FF80, 128, false)])
    (by decide +kernel)).elim fun u h =>
  ⟨1, 62, _, withPtr 0xFF80, by decide, by decide +kernel, by decide +kernel, fun _ => by decide +kernel, idle (by decide +kernel),
    clean (by decide +kernel), .inr (.inr (.inr (.inl rfl))), u, _, h, rfl⟩

/-- The east link of core 0 has an entry besides. -/
def forRefPort : State := forRef.modCore 0 fun k => { k with fifos := [(49, [5])] }

theorem test_mputv_r_met : ∃ (y v : Nat) (tgt : PutTo) (s : State), (Instr.mputvR y v).wf = true ∧
    s.admits { word := wordMputvR y v, reads := dataReg v ++ [y], ends := true } = true ∧ s.ctx.tagUnion (dataReg v ++ [y]) = 0 ∧
    (v = 62 → s.ctx.lift.levels = []) ∧ matrixIdle s ∧ parityClean s ∧ sourceReady s (2, v) ∧ isPort v = true ∧
    ∃ a c, resolveRef s (s.ctx.sv y) true = .ok (a, c) ∧ a + 128 ≤ 786432 ∧ a % 8 = 0 ∧ tgt = .core c a :=
  ⟨1, 49, _, forRefPort, by decide, by decide +kernel, by decide +kernel, fun _ => by decide +kernel, idle (by decide +kernel),
    clean (by decide +kernel), by unfold sourceReady handleUsable; decide +kernel, rfl, 786304, 1, by decide +kernel, by decide, by decide,
    rfl⟩

/-! ## Witnesses: copies, the weight store, sync words -/

/-- Registers 1 and 2 hold scratchpad addresses, 3 a count, 4 a sync word, 5 a data pointer. -/
def forCopy (count : Word) : State :=
  on fun x =>
    ((((x.putS 1 (plain 0)).putS 2 (plain 0x8000)).putS 3 (plain count)).putS 4 (plain 0xBFFF0)).putS 5 (plain (dataAt 0))

theorem test_copy_met (two : Bool) : ∃ (x y z w m : Nat) (sh : CopyShape) (u u' : State) (ld ls : Loc)
    (sw : Option (Nat × Nat)) (s : State),
    let i : Instr := if two then .cpy2 x y z w m else .cpy x y z w m
    let word := if two then wordCpy2 x y z w m else wordCpy x y z w m
    let regs := (if 8 ≤ m then [] else [x]) ++ [y, z] ++ (if w = 0 then [] else [w])
    i.wf = true ∧ s.admits { word := word, reads := regs, ends := true } = true ∧ s.ctx.tagUnion regs = 0 ∧ matrixIdle s ∧
    s.cards s.cur < 32 ∧ s.ctx.held = none ∧ s.unacked (s.owner 0) (fun _ => true) = false ∧ copyShapeIs two (s.ctx.sv z) sh ∧
    jobSync s w sw ∧
    resolve u (s.ctx.sv y) ((sh.rows - 1) * sh.spitch + sh.rowlen) 8 permR false = .ok (u', ls) ∧
    m < 8 ∧ resolve s (s.ctx.sv x) ((sh.rows - 1) * sh.dpitch + sh.rowlen) 8 permW true = .ok (u, ld) := by
  cases two
  · refine (found (x := resolve (forCopy 64) (dataAt 0) 64 8 permR false) (q := .hbm [(0x10000050000, 64, false)])
      (by decide +kernel)).elim fun u h => ?_
    exact ⟨1, 5, 3, 4, 0, _, _, u, .spad 0, _, some (0, 0xBFFF0), forCopy 64, by decide, by decide +kernel, by decide +kernel,
      idle (by decide +kernel), by decide +kernel, by decide +kernel, by decide +kernel,
      ⟨by decide +kernel, by decide +kernel, by decide +kernel, rfl⟩,
      ⟨by decide +kernel, by decide +kernel, by decide +kernel⟩, h, by decide, by rfl⟩
  · exact ⟨1, 2, 3, 0, 0, ⟨16, 3, 24, 32⟩, _, _, .spad 0, .spad 0x8000, none, forCopy 0x4000300030002, by decide,
      by decide +kernel, by decide +kernel, idle (by decide +kernel), by decide +kernel, by decide +kernel, by decide +kernel,
      ⟨by decide +kernel, by decide +kernel, (by decide +kernel), by decide +kernel⟩, rfl, rfl, by decide, rfl⟩

theorem test_copy_to_handle_met : ∃ (x y z w m : Nat) (sh : CopyShape) (u' : State) (ls : Loc) (s : State),
    (Instr.cpy x y z w m).wf = true ∧ s.admits { word := wordCpy x y z w m, reads := [y, z], ends := true } = true ∧
    s.ctx.tagUnion [y, z] = 0 ∧ matrixIdle s ∧ s.cards s.cur < 32 ∧ s.ctx.held = none ∧ s.unacked (s.owner 0) (fun _ => true) = false ∧
    copyShapeIs false (s.ctx.sv z) sh ∧ jobSync s w none ∧
    resolve s (s.ctx.sv y) ((sh.rows - 1) * sh.spitch + sh.rowlen) 8 permR false = .ok (u', ls) ∧ 8 ≤ m ∧
    (s.ctx.handle (m - 8)).slots ≠ 0 ∧ sh.rowlen * sh.rows % (s.ctx.handle (m - 8)).size = 0 :=
  ⟨0, 2, 3, 0, 8, ⟨128, 1, 128, 128⟩, _, .spad 0x8000,
    (forCopy 128).modCtx fun x => { x with handles := [(0, ⟨0, 2, 4, 1, 0, 0, 0⟩)] }, by decide, by decide +kernel,
    by decide +kernel, idle (by decide +kernel), by decide +kernel, by decide +kernel, by decide +kernel,
    ⟨by decide +kernel, by decide +kernel, (by decide +kernel), by decide +kernel⟩, rfl, rfl, by decide, by decide +kernel,
    by decide +kernel⟩

/-- Register 4 holds a deal over a square of four cores in blocks of 64, with a sync word. -/
def forDeal : State := (forCopy 512).modCtx fun x => x.putS 4 (plain (6 + 0x10000 + 0x100000 + 0x80000000000 + 0x8000000000000))

theorem test_deal_met : ∃ (x y z w lb va : Nat) (u : State) (ps : List (Nat × Nat × Bool)) (s : State),
    let n := (s.ctx.sv z).toNat
    let p := (s.ctx.sv w).toNat
    let B : Nat := 2 ^ lb
    let width := p / 2 ^ 16 % 16 + 1
    let height := p / 2 ^ 20 % 16 + 1
    let first := p / 2 ^ 32 % 2048
    let num := width * height
    let sw := p / 2 ^ 44
    s.admits { word := wordCpydl x y z w, reads := [x, y, z, w], ends := true } = true ∧ s.ctx.tagUnion [x, y, z, w] = 0 ∧
    matrixIdle s ∧ s.cards s.cur < 32 ∧ s.ctx.held = none ∧ s.unacked (s.owner 0) (fun _ => true) = false ∧
    n % 8 = 0 ∧ 8 ≤ n ∧ n ≤ 2 ^ 24 ∧ p % 32 = lb ∧ 6 ≤ lb ∧ lb ≤ 16 ∧ p / 2 ^ 5 % 2 ^ 11 = 0 ∧ p / 2 ^ 24 % 256 = 0 ∧
    rowOf first + height ≤ 16 ∧ colOf first + width ≤ 16 ∧ n % B = 0 ∧ spadRange (s.ctx.sv x) ((n / B + num - 1) / num * B) ∧
    (∀ k < num, inQuads s.myVf (dealCore first width k) = true) ∧ (p / 2 ^ 43 % 2 = 1 → sw + 16 ≤ 786432 ∧ sw % 16 = 0) ∧
    resolvePtr s (s.ctx.sv y) n 8 permR false = .ok (u, ps) ∧ ptrCheck s.myVf (s.ctx.sv y) permR n = .ok va ∧
    p / 2 ^ 43 % 2 = 1 ∧ num = 4 :=
  (found (x := resolvePtr forDeal (dataAt 0) 512 8 permR false) (q := [(0x10000050000, 512, false)]) (by decide +kernel)).elim
    fun u h =>
  ⟨1, 5, 3, 4, 6, 0x10000, u, _, forDeal, by decide +kernel, by decide +kernel, idle (by decide +kernel), by decide +kernel, by decide +kernel,
    (by decide +kernel), by decide +kernel, by decide +kernel, (by decide +kernel), by decide +kernel, by decide, (by decide),
    by decide +kernel, by decide +kernel, (by decide +kernel), by decide +kernel, by decide +kernel, by unfold spadRange; decide +kernel,
    by decide +kernel, by decide +kernel, h, by decide +kernel, by decide +kernel, by decide +kernel⟩

theorem test_cpyst_wsinfo_met : ∃ (x : Nat) (s : State),
    s.admits { word := wordCpyst x, writes := [x], ends := true, once := true } = true ∧
    s.admits { word := wordWsinfo x, writes := [x], once := true } = true ∧ ∀ f, scalarRoom s x 0 f :=
  ⟨9, go, by decide +kernel, by decide +kernel, sroom (by decide +kernel) _ _⟩

/-- The virtual function of the tests has a window of one block; with `busy` another launch of it is in progress. -/
def forStore (busy : Bool) : State :=
  let s := forCopy 64
  let v : Vf := { bootVf with ws := [{ die := 0, base := 0, blocks := 1 }] }
  let l : Launch := { vf := 0, obj := 0, status := 0, die := 0, nodes := [], nslice := 1 }
  { s with vfs := [(0, v)], launches := if busy then [(7, l)] else [] }

theorem test_weight_store_met (write : Bool) : ∃ (x y z w : Nat) (sw : Option (Nat × Nat)) (s : State),
    let i : Instr := if write then .wswr x y z w else .wsld x y z w
    let word := if write then wordWswr x y z w else wordWsld x y z w
    let n := (s.ctx.sv z).toNat
    let far := s.ctx.sv (if write then x else y)
    let near := s.ctx.sv (if write then y else x)
    let others := s.launches.any fun l => l.2.vf == s.ctx.id.vf && l.2.status == 0 && some l.1 != s.ctx.id.launch
    i.wf = true ∧ s.admits { word := word, reads := wsRegs x y z w, ends := true } = true ∧ s.ctx.tagUnion (wsRegs x y z w) = 0 ∧
    (write = true → others = false) ∧ matrixIdle s ∧ n % 64 = 0 ∧ 64 ≤ n ∧ n ≤ 786432 ∧ far.toNat + n ≤ s.wsWindow.2 ∧
    far.toNat % 64 = 0 ∧ spadRange near n ∧ near.toNat % 64 = 0 ∧ jobSync s w sw :=
  ⟨if write then 6 else 1, if write then 1 else 6, 3, 4, some (0, 0xBFFF0), forStore false, by
    cases write <;> unfold spadRange jobSync matrixIdle <;> decide +kernel⟩

theorem test_weight_store_others_met : ∃ (x y z w : Nat) (s : State), (Instr.wswr x y z w).wf = true ∧
    s.admits { word := wordWswr x y z w, reads := wsRegs x y z w, ends := true } = true ∧ s.ctx.tagUnion (wsRegs x y z w) = 0 ∧
    s.launches.any (fun l => l.2.vf == s.ctx.id.vf && l.2.status == 0 && some l.1 != s.ctx.id.launch) = true :=
  ⟨6, 1, 3, 0, forStore true, by decide, by decide +kernel, (by decide +kernel), by decide +kernel⟩

theorem test_swinit_met : ∃ (x y z : Nat) (addr : Nat → Nat) (s : State),
    s.admits { word := wordSwinit x y z, reads := [x, y, z] } = true ∧ matrixIdle s ∧
    (∀ k ∈ activeOf s.ctx.lift (s.ctx.tagUnion [x, y, z]), wordAtInst s x k (addr k) ∧ atInst (s.ctx.sreg y) k ≠ 0 ∧
      (atInst (s.ctx.sreg y) k).toNat < 2 ^ 32 ∧ (z ≠ 0 → (atInst (s.ctx.sreg z) k).toNat < 240)) :=
  ⟨4, 3, 3, fun _ => 0xBFFF0, forCopy 239, by decide +kernel, idle (by decide +kernel), by unfold wordAtInst; decide +kernel⟩

theorem test_swwait_met : ∃ (x y v : Nat) (addr : Nat → Nat) (s : State),
    let past (y k : Nat) : Prop := (syncWord (s.core s.cur).spad (addr k)).gen ≠ (atInst (s.ctx.sreg y) k).toNat % 2 ^ 32 ∨
      (syncWord (s.core s.cur).spad (addr k)).er = true
    (s.admits { word := wordSwwait x y, reads := [x, y] } = true ∧ s.admits { word := wordSwwait x v, reads := [x, v] } = true) ∧
    matrixIdle s ∧
    (∀ k ∈ activeOf s.ctx.lift (s.ctx.tagUnion [x, y]), wordAtInst s x k (addr k)) ∧
    (∀ k ∈ activeOf s.ctx.lift (s.ctx.tagUnion [x, y]), past y k) ∧
    (∀ k ∈ activeOf s.ctx.lift (s.ctx.tagUnion [x, v]), wordAtInst s x k (addr k)) ∧
    ¬ ∀ k ∈ activeOf s.ctx.lift (s.ctx.tagUnion [x, v]), past v k :=
  ⟨4, 3, 0, fun _ => 0xBFFF0, forCopy 1, by decide +kernel, idle (by decide +kernel), by unfold wordAtInst; decide +kernel,
    by decide +kernel, by unfold wordAtInst; decide +kernel, by decide +kernel⟩

theorem test_swget_met : ∃ (x y : Nat) (addr : Nat → Nat) (s : State),
    s.admits { word := wordSwget x y, reads := [y], writes := [x] } = true ∧ matrixIdle s ∧
    (∀ k ∈ activeOf s.ctx.lift (s.ctx.tagUnion [y]), wordAtInst s y k (addr k)) ∧ ∀ f, scalarRoom s x (s.ctx.tagUnion [y]) f :=
  ⟨9, 4, fun _ => 0xBFFF0, forCopy 1, by decide +kernel, idle (by decide +kernel), by unfold wordAtInst; decide +kernel,
    sroom (by decide +kernel) _ _⟩

/-- Register 1 refers to a sync word of core `c`, register 2 holds a count; a release is complete. -/
def forAdd (c : Word) : State :=
  on fun x => { ((x.putS 1 (plain (c * 0x100000000 + 0xBFFF0))).putS 2 (plain 0xFFFFFFFF)) with rel := some ⟨true, 0⟩ }

theorem test_swadd_met (c : Nat) (h : c = 1 ∨ c = 256) : ∃ (x y a : Nat) (s : State),
    s.admits { word := wordSwadd x y, reads := [x, y], ends := true } = true ∧ s.ctx.tagUnion [x, y] = 0 ∧
    resolveRef s (s.ctx.sv x) true = .ok (a, c) ∧ a + 16 ≤ 786432 ∧ a % 16 = 0 ∧ s.ctx.sv y ≠ 0 ∧
    (s.ctx.sv y).toNat < 2 ^ 32 ∧ releasedToward s (dieOf c) := by
  rcases h with rfl | rfl
  · exact ⟨1, 2, 0xBFFF0, forAdd 1, by decide +kernel, by decide +kernel, (by decide +kernel), by decide, by decide, (by decide +kernel),
      by decide +kernel, by unfold releasedToward; decide +kernel⟩
  · exact ⟨1, 2, 0xBFFF0, { forAdd 256 with vfs := [(0, { bootVf with quads := List.range 128 })] }, by decide +kernel,
      by decide +kernel, (by decide +kernel), by decide, by decide, (by decide +kernel), by decide +kernel,
      by unfold releasedToward; decide +kernel⟩

/-! ## Witnesses: fences, atomics, barriers -/

/-- A write of the test's activation to a memory node is not acknowledged. -/
def pendingWrite : State := { go with writes := [(5, { own := go.owner 0, home := memNode 0, lines := [] })] }

/-- Before a release begins nothing is sent. -/
theorem unsent_none {s : State} (h : s.ctx.rel = none) : unsent s := fun r e => by rw [h] at e; cases e

/-- The release of a context stands at a point. -/
def releasing (r : Option Release) : State := on fun x => { x with rel := r }

theorem test_fence_met (full : Bool) (s : State)
    (h : s = go ∨ s = pendingWrite ∨ s = releasing (some ⟨true, 0⟩) ∨ s = releasing (some ⟨true, 3⟩)) : ∃ m sc : Nat,
    (if full then Instr.fenceFull m sc else .fenceRel m sc).wf = true ∧
    s.admits { word := if full then wordFenceFull m sc else wordFenceRel m sc, reads := maskReads sc m, ends := true, once := true } = true ∧
    (sc = 2 → (s.ctx.sv m).toNat < 256) := by
  cases full <;> rcases h with rfl | rfl | rfl | rfl <;> exact ⟨0, 2, by decide, by decide +kernel, fun _ => by decide +kernel⟩

theorem test_fence_points_met :
    (releasing (some ⟨true, 0⟩)).ctx.rel = some ⟨true, 0⟩ ∧ (releasing (some ⟨true, 3⟩)).ctx.rel = some ⟨true, 3⟩ ∧
    (unsent go ∧ go.unacked (go.owner 0) (covers 2 go.cur) = false ∧ markerDies go.myVf go.myDie 0 = []) ∧
    (unsent pendingWrite ∧ pendingWrite.unacked (pendingWrite.owner 0) (covers 2 pendingWrite.cur) = true) ∧
    markerDies (withVf { bootVf with quads := List.range 128 }).myVf 0 2 = [1] :=
  ⟨by decide +kernel, by decide +kernel, ⟨unsent_none (by decide +kernel), by decide +kernel, (by decide +kernel)⟩, ⟨unsent_none (by decide +kernel), by decide +kernel⟩,
    by decide +kernel⟩

theorem test_fence_acq_met : ∃ (m sc : Nat) (s : State), (Instr.fenceAcq m sc).wf = true ∧
    s.admits { word := wordFenceAcq m sc, reads := maskReads sc m, ends := true, once := true } = true ∧
    (sc = 2 → (s.ctx.sv m).toNat < 256) :=
  ⟨1, 2, withS 1 255, by decide, by decide +kernel, fun _ => by decide +kernel⟩

theorem test_fence_mask_met : ∃ (i : Instr) (m w : Nat) (s : State),
    (i = .fenceAcq m 2 ∨ i = .fenceRel m 2 ∨ i = .fenceFull m 2) ∧ encode i = some w ∧
    s.admits { word := w, reads := [m], ends := true, once := true } = true ∧ 256 ≤ (s.ctx.sv m).toNat :=
  ⟨.fenceRel 1 2, 1, _, withS 1 256, .inr (.inl rfl), rfl, by decide +kernel, by decide +kernel⟩

theorem test_fack_met : ∃ s u : State, s.admits { word := wordFack, ends := true } = true ∧
    s.unacked (s.owner 0) (fun _ => true) = false ∧ u.admits { word := wordFack, ends := true } = true ∧
    u.unacked (u.owner 0) (fun _ => true) = true :=
  ⟨go, pendingWrite, by decide +kernel, by decide +kernel, (by decide +kernel), by decide +kernel⟩

/-- A fence or a `fack` of the context holds. -/
theorem test_fence_preempted_met (sent : Bool) : ∃ (c i : Nat) (r : Release) (s : State), (s.ctxAt c i).status = .running ∧
    (s.ctxAt c i).rel = some r ∧ r.sent = sent := by
  refine ⟨0, 0, ⟨sent, if sent then 3 else 0⟩, releasing (some ⟨sent, if sent then 3 else 0⟩), ?_⟩
  cases sent <;> decide +kernel

theorem test_atomic_done_met : ∃ (i : Instr) (w fn d a b m o sc r id : Nat) (bytes : Nat → List Byte) (s : State),
    atomicOp i = some (fn, d, a, b, m, o, sc, r) ∧ encode i = some w ∧
    s.admits { word := w, reads := atomicReads fn a b m sc, writes := [d], ends := true } = true ∧
    s.ctx.held = some ⟨id, 0, (List.range (activeOf s.ctx.lift (s.ctx.tagUnion (atomicReads fn a b m sc))).length).map
      fun k => (k, .data (bytes k)), true, 0, 0, false, [], none⟩ ∧ ∀ f, scalarRoom s d (s.ctx.tagUnion (atomicReads fn a b m sc)) f :=
  ⟨.amocas 9 1 2 0 2 0 0 0, _, 9, 9, 1, 2, 0, 2, 0, 0, 4, fun _ => leBytes 8 7,
    on fun x => { x with held := some ⟨4, 0, [(0, .data (leBytes 8 7))], true, 0, 0, false, [], none⟩ }, rfl, rfl, by decide +kernel, by decide +kernel,
    sroom (by decide +kernel) _ _⟩

theorem test_atomic_core_met (r : Nat) (h : r = 0 ∨ r = 1) : ∃ (i : Instr) (w fn d a b m o sc : Nat) (s : State),
    atomicOp i = some (fn, d, a, b, m, o, sc, r) ∧ encode i = some w ∧
    s.admits { word := w, reads := atomicReads fn a b m sc, writes := [d], ends := true } = true ∧
    s.ctx.tagUnion (atomicReads fn a b m sc) = 0 ∧ s.ctx.held = none ∧ matrixIdle s ∧ scalarRoom s d 0 (fun _ => 0) ∧
    (sc = 2 → (s.ctx.sv m).toNat < 256) ∧ (2 ≤ o → releaseDone s sc) ∧
    (r = 0 → spadRange (atInst (s.ctx.sreg a) 0) 8) ∧
    (r = 1 → resolveRef s (atInst (s.ctx.sreg a) 0) true = .ok (786424, 0) ∧ 786424 + 8 ≤ 786432 ∧ 786424 % 8 = 0) := by
  rcases h with rfl | rfl
  · exact ⟨.amoadd 9 1 2 0 2 0 0, _, 0, 9, 1, 2, 0, 2, 0, withS 1 786424, rfl, rfl, by decide +kernel, by decide +kernel,
      by decide +kernel, idle (by decide +kernel), sroom (by decide +kernel) _ _ _, fun h => absurd h (by decide),
      fun _ => .inr ⟨by decide, unsent_none (by decide +kernel),
      by decide +kernel⟩, fun _ => by unfold spadRange; decide +kernel, fun h => absurd h (by decide)⟩
  · exact ⟨.amoswp 9 1 2 0 0 0 1, _, 8, 9, 1, 2, 0, 0, 0, withS 1 786424, rfl, rfl, by decide +kernel, by decide +kernel,
      by decide +kernel, idle (by decide +kernel), sroom (by decide +kernel) _ _ _, fun h => absurd h (by decide),
      fun h => absurd h (by decide), fun h => absurd h (by decide), fun _ => ⟨by decide +kernel, by decide, by decide⟩⟩

theorem test_atomic_hbm_met : ∃ (i : Instr) (w fn d a b m o sc : Nat) (u : State) (pa n : Nat) (nc : Bool) (s : State),
    atomicOp i = some (fn, d, a, b, m, o, sc, 0) ∧ encode i = some w ∧
    s.admits { word := w, reads := atomicReads fn a b m sc, writes := [d], ends := true } = true ∧
    s.ctx.tagUnion (atomicReads fn a b m sc) = 0 ∧ s.ctx.held = none ∧ matrixIdle s ∧ scalarRoom s d 0 (fun _ => 0) ∧
    (sc = 2 → (s.ctx.sv m).toNat < 256) ∧
    (2 ≤ o → releaseDone s sc) ∧ resolve s (atInst (s.ctx.sreg a) 0) 8 8 permA true = .ok (u, .hbm [(pa, n, nc)]) :=
  (found (x := resolve (withPtr 0xFFF8) (dataAt 0xFFF8) 8 8 permA true) (q := .hbm [(0x1000005FFF8, 8, false)])
    (by decide +kernel)).elim fun u h =>
  ⟨.amomaxn 9 1 2 0 0 0 0, _, 7, 9, 1, 2, 0, 0, 0, u, _, _, _, withPtr 0xFFF8, rfl, rfl, by decide +kernel, by decide +kernel,
    by decide +kernel, idle (by decide +kernel), sroom (by decide +kernel) _ _ _, fun h => absurd h (by decide),
    fun h => absurd h (by decide), h⟩

/-- Instances of register 1 name cells of the scratchpad; the first instance's old value has come. -/
def secondCell : State :=
  (lifted 786400 [(1, 786408), (2, 786416), (3, 786424)]).modCtx fun x =>
    { x with held := some ⟨4, 0, [(0, .data (leBytes 8 7))], true, 1, 0, false, [], none⟩ }

/-- The same with what is left of the plan. -/
def planned (core : Option Nat) (a : Nat) : State :=
  secondCell.modCtx fun x => { x with held := x.held.map fun h => { h with plan := [.amo core a, .amo (some 0) 786416] } }

theorem test_atomic_next_met (core : Option Nat) (a : Nat) (c : (core = some 0 ∧ a = 786408) ∨ (core = none ∧ a = 0x1000005FFF8)) :
    ∃ (i : Instr) (w fn d a' b m o sc r k j : Nat) (rest : List Planned) (h : Held) (bytes : Nat → List Byte) (s : State),
    atomicOp i = some (fn, d, a', b, m, o, sc, r) ∧ encode i = some w ∧
    s.admits { word := w, reads := atomicReads fn a' b m sc, writes := [d], ends := true } = true ∧
    s.ctx.held = some h ∧ h.due = 0 ∧ h.got = (List.range k).map (fun n => (n, .data (bytes n))) ∧ h.plan = .amo core a :: rest ∧
    (activeOf s.ctx.lift (s.ctx.tagUnion (atomicReads fn a' b m sc)))[k]? = some j ∧ (2 ≤ o → releaseDone s sc) ∧ r = 0 ∧ k = 1 :=
  ⟨.amoadd 9 1 2 0 0 0 0, _, 0, 9, 1, 2, 0, 0, 0, 0, 1, 1, [.amo (some 0) 786416], _, fun _ => leBytes 8 7, planned core a, rfl, rfl,
    by rcases c with ⟨rfl, rfl⟩ | ⟨rfl, rfl⟩ <;> decide +kernel, rfl, rfl, rfl, rfl,
    by rcases c with ⟨rfl, rfl⟩ | ⟨rfl, rfl⟩ <;> decide +kernel, fun h => absurd h (by decide), rfl, rfl⟩

theorem test_atomic_plan_met (r : Nat) (h : r = 0 ∨ r = 1) : ∃ (i : Instr) (w fn d a b m o sc j : Nat) (js : List Nat)
    (core at_ : Nat → Nat) (s : State), atomicOp i = some (fn, d, a, b, m, o, sc, r) ∧ encode i = some w ∧
    s.admits { word := w, reads := atomicReads fn a b m sc, writes := [d], ends := true } = true ∧
    activeOf s.ctx.lift (s.ctx.tagUnion (atomicReads fn a b m sc)) = j :: js ∧ s.ctx.held = none ∧ matrixIdle s ∧
    scalarRoom s d (s.ctx.tagUnion (atomicReads fn a b m sc)) (fun _ => 0) ∧ (2 ≤ o → releaseDone s sc) ∧ js ≠ [] ∧
    ∀ k ∈ j :: js, (sc = 2 → (atInst (s.ctx.sreg m) k).toNat < 256) ∧
      let x := atInst (s.ctx.sreg a) k
      ((r = 0 ∧ spadRange x 8 ∧ core k = s.cur ∧ at_ k = x.toNat) ∨
       (r = 1 ∧ resolveRef s x true = .ok (at_ k, core k) ∧ at_ k + 8 ≤ 786432 ∧ at_ k % 8 = 0)) := by
  let s := lifted 786400 [(1, 786408), (2, 786416), (3, 786424)]
  have room : scalarRoom s 9 (s.ctx.tagUnion (atomicReads 0 1 2 0 0)) (fun _ => 0) := .inr (by decide +kernel)
  rcases h with rfl | rfl
  · exact ⟨.amoadd 9 1 2 0 0 0 0, _, 0, 9, 1, 2, 0, 0, 0, 0, [1, 2, 3], fun _ => 0, fun k => 786400 + 8 * k, s, rfl, rfl, by decide +kernel,
      by decide +kernel, by decide +kernel, idle (by decide +kernel), room, fun h => absurd h (by decide), by decide,
      by unfold spadRange; decide +kernel⟩
  · exact ⟨.amoadd 9 1 2 0 0 0 1, _, 0, 9, 1, 2, 0, 0, 0, 0, [1, 2, 3], fun _ => 0, fun k => 786400 + 8 * k, s, rfl, rfl, by decide +kernel,
      by decide +kernel, by decide +kernel, idle (by decide +kernel), room, fun h => absurd h (by decide), by decide,
      by unfold spadRange; decide +kernel⟩

theorem test_atomic_mask_met : ∃ (i : Instr) (w fn d a b m o : Nat) (s : State), atomicOp i = some (fn, d, a, b, m, o, 2, 0) ∧
    encode i = some w ∧ s.admits { word := w, reads := atomicReads fn a b m 2, writes := [d], ends := true } = true ∧
    s.ctx.tagUnion (atomicReads fn a b m 2) = 0 ∧ s.ctx.held = none ∧ spadRange (s.ctx.sv a) 8 ∧ 256 ≤ (s.ctx.sv m).toNat :=
  ⟨.amoor 9 1 2 1 2 2 0, _, 2, 9, 1, 2, 1, 2, withS 1 786424, rfl, rfl, by decide +kernel, by decide +kernel, by decide +kernel,
    by unfold spadRange; decide +kernel, by decide +kernel⟩

/-- Record 3 of core 0 is given; register 1 holds a value; `barsy` may be under way. -/
def barred (b : BarRec) (v : Word) (bs : Option (Nat × Nat)) (h : Option Held) : State :=
  (on fun x => { (x.putS 1 (plain v)) with barsy := bs, held := h }).modCore 0 fun k => { k with barriers := [(3, b.word)] }

/-- One of two arrivals has come, the generation is about to wrap. -/
def halfway : BarRec := ⟨true, 0, 0, 65535, 1, 2⟩

theorem test_barcfg_met : ∃ (x im n a : Nat) (s : State), barNumber s x im = .ok n ∧
    s.admits { word := wordBarcfg 0 a x im, reads := [a, x], ends := true, once := true } = true ∧
    ((s.ctx.sv a).toNat < 256 ∧ (((s.core s.cur).barrier n).c = true → ((s.core s.cur).barrier n).launch = myLaunch s) ∧
      ((s.core s.cur).barrier n).arrived = 0) :=
  ⟨0, 3, 3, 1, barred ⟨false, 0, 0, 65535, 0, 2⟩ 255 none none, by decide +kernel, by decide +kernel, (by decide +kernel),
    by decide +kernel, by decide +kernel⟩

theorem test_barcfg_bar_met : ∃ (x im n a : Nat) (s u : State), barNumber s x im = .ok n ∧
    s.admits { word := wordBarcfg 0 a x im, reads := [a, x], ends := true, once := true } = true ∧ 255 < (s.ctx.sv a).toNat ∧
    barNumber u x im = .ok n ∧ u.admits { word := wordBarcfg 0 a x im, reads := [a, x], ends := true, once := true } = true ∧
    ((u.core u.cur).barrier n).c = true ∧ ((u.core u.cur).barrier n).launch ≠ myLaunch u :=
  ⟨0, 3, 3, 1, barred halfway 256 none none, barred ⟨true, 0, 9, 0, 0, 2⟩ 1 none none, by decide +kernel, by decide +kernel,
    (by decide +kernel), by decide +kernel, by decide +kernel, (by decide +kernel), by decide +kernel⟩

/-- With an arrival outstanding the record's own scope and target may be given again, and nothing else. -/
theorem test_barcfg_outstanding_met (v : Word) (h : v = 2 ∨ v = 3 ∨ v = 0) : ∃ (x im n a : Nat) (s : State), barNumber s x im = .ok n ∧
    s.admits { word := wordBarcfg 0 a x im, reads := [a, x], ends := true, once := true } = true ∧ (s.ctx.sv a).toNat < 256 ∧
    (let b := (s.core s.cur).barrier n
     b.c = true ∧ b.launch = myLaunch s ∧ b.arrived ≠ 0 ∧ b.sc = 0 ∧ ((s.ctx.sv a).toNat = b.target ↔ v = 2)) := by
  refine ⟨0, 3, 3, 1, barred halfway v none none, ?_⟩
  rcases h with rfl | rfl | rfl <;> decide +kernel

theorem test_barrv_met : ∃ (x im n d : Nat) (s : State), barNumber s x im = .ok n ∧
    s.admits { word := wordBarrv 0 d x im, reads := [x], writes := [d], ends := true, once := true } = true ∧
    barUsable s ((s.core s.cur).barrier n) ∧ ((s.core s.cur).barrier n).arrived < ((s.core s.cur).barrier n).target ∧
    s.ctx.held = none ∧ releaseDone s 0 ∧ ∀ f, scalarRoom s d 0 f :=
  ⟨0, 3, 3, 9, barred halfway 1 none none, by decide +kernel, by decide +kernel, by unfold barUsable; decide +kernel, by decide +kernel,
    by decide +kernel, .inr ⟨by decide, unsent_none (by decide +kernel), by decide +kernel⟩, sroom (by decide +kernel) _ _⟩

theorem test_barrv_bar_met : ∃ (x im n d : Nat) (s : State), barNumber s x im = .ok n ∧
    s.admits { word := wordBarrv 0 d x im, reads := [x], writes := [d], ends := true, once := true } = true ∧
    ¬ barUsable s ((s.core s.cur).barrier n) :=
  ⟨0, 4, 4, 9, barred halfway 1 none none, by decide +kernel, by decide +kernel, by unfold barUsable; decide +kernel⟩

theorem test_barwt_barq_met (g : Nat) (h : g = 65535 ∨ g = 0) : ∃ (x im n a d : Nat) (s : State), barNumber s x im = .ok n ∧
    s.admits { word := wordBarwt 0 a x im, reads := [a, x], once := true } = true ∧
    s.admits { word := wordBarq 0 d x im, reads := [x], writes := [d], once := true } = true ∧ (∀ f, scalarRoom s d 0 f) ∧
    barUsable s ((s.core s.cur).barrier n) ∧ (s.ctx.sv a).toNat % 65536 = g ∧ ((s.core s.cur).barrier n).gen = 65535 := by
  rcases h with rfl | rfl
  · exact ⟨0, 3, 3, 1, 9, barred halfway 65535 none none, by decide +kernel, by decide +kernel, by decide +kernel,
      sroom (by decide +kernel) _ _, by unfold barUsable; decide +kernel, by decide +kernel, by decide +kernel⟩
  · exact ⟨0, 3, 3, 1, 9, barred halfway 65536 none none, by decide +kernel, by decide +kernel, by decide +kernel,
      sroom (by decide +kernel) _ _, by unfold barUsable; decide +kernel, by decide +kernel, by decide +kernel⟩

theorem test_barwt_bar_met : ∃ (x im n a d : Nat) (s : State), barNumber s x im = .ok n ∧
    s.admits { word := wordBarwt 0 a x im, reads := [a, x], once := true } = true ∧
    s.admits { word := wordBarsy 0 x im, reads := [x], ends := true, once := true } = true ∧ s.ctx.barsy = none ∧
    s.admits { word := wordBarq 0 d x im, reads := [x], writes := [d], once := true } = true ∧
    ¬ barUsable s ((s.core s.cur).barrier n) :=
  ⟨0, 3, 3, 1, 9, barred ⟨true, 1, 0, 0, 0, 2⟩ 1 none none, by decide +kernel, by decide +kernel, (by decide +kernel), by decide +kernel,
    by decide +kernel, by unfold barUsable; decide +kernel⟩

theorem test_barrier_beyond_met (sc : Nat) (h : sc = 0 ∨ sc = 1) : ∃ (x im a d : Nat) (s : State), (s.ctx.sv x).toNat + im = 512 ∧
    s.admits { word := wordBarcfg sc a x im, reads := [a, x], ends := true, once := true } = true ∧
    s.admits { word := wordBarwt sc a x im, reads := [a, x], once := true } = true ∧
    s.admits { word := wordBarrv sc d x im, reads := [x], writes := [d], ends := true, once := true } = true ∧
    s.admits { word := wordBarq sc d x im, reads := [x], writes := [d], once := true } = true ∧
    s.admits { word := wordBarsy sc x im, reads := [x], ends := true, once := true } = true := by
  refine ⟨2, 1, 1, 9, withS 2 511, ?_⟩
  rcases h with rfl | rfl <;> decide +kernel

theorem test_barsy_met : ∃ (x im n : Nat) (s u v : State),
    (barNumber s x im = .ok n ∧ s.admits { word := wordBarsy 0 x im, reads := [x], ends := true, once := true } = true ∧
      (∀ g, s.ctx.barsy ≠ some (n, g)) ∧ barUsable s ((s.core s.cur).barrier n) ∧
      ((s.core s.cur).barrier n).arrived < ((s.core s.cur).barrier n).target ∧ s.ctx.held = none ∧ releaseDone s 0) ∧
    (barNumber u x im = .ok n ∧ u.admits { word := wordBarsy 0 x im, reads := [x], ends := true, once := true } = true ∧
      u.ctx.barsy = some (n, 5) ∧ ((u.core u.cur).barrier n).gen ≠ 5) ∧
    (barNumber v x im = .ok n ∧ v.admits { word := wordBarsy 0 x im, reads := [x], ends := true, once := true } = true ∧
      v.ctx.barsy = some (n, 65535) ∧ ((v.core v.cur).barrier n).gen = 65535) :=
  ⟨0, 3, 3, barred halfway 1 none none, barred halfway 1 (some (3, 5)) none, barred halfway 1 (some (3, 65535)) none,
    ⟨by decide +kernel, by decide +kernel, fun g e => (nomatch e), by unfold barUsable; decide +kernel, by decide +kernel,
      by decide +kernel, .inr ⟨by decide, unsent_none (by decide +kernel), by decide +kernel⟩⟩,
    ⟨by decide +kernel, by decide +kernel, (by decide +kernel), by decide +kernel⟩, by decide +kernel, by decide +kernel,
    (by decide +kernel), by decide +kernel⟩

theorem test_octet_barriers_met : ∃ (x im n a d : Nat) (s u : State) (p : Nat) (v : Word) (h : Held),
    (barNumber s x im = .ok n ∧ s.ctx.held = none ∧
      s.admits { word := wordBarcfg 1 a x im, reads := [a, x], ends := true, once := true } = true ∧ (s.ctx.sv a).toNat < 256 ∧
      s.admits { word := wordBarrv 1 d x im, reads := [x], writes := [d], ends := true, once := true } = true ∧
      scalarRoom s d 0 (fun _ => 0) ∧ releaseDone s 1 ∧
      s.admits { word := wordBarwt 1 a x im, reads := [a, x], once := true } = true ∧
      s.admits { word := wordBarsy 1 x im, reads := [x], ends := true, once := true } = true ∧ s.ctx.barsy = none ∧
      s.admits { word := wordBarq 1 d x im, reads := [x], writes := [d], once := true } = true) ∧
    (barNumber u x im = .ok n ∧ (u.ctx.held = some h ∧ h.id ≠ 0 ∧ h.due = 0 ∧ h.got = [(p, .data (leBytes 8 v.toNat))]) ∧
      u.admits { word := wordBarcfg 1 a x im, reads := [a, x], ends := true, once := true } = true ∧ (u.ctx.sv a).toNat < 256 ∧
      u.admits { word := wordBarrv 1 d x im, reads := [x], writes := [d], ends := true, once := true } = true ∧
      u.admits { word := wordBarwt 1 a x im, reads := [a, x], once := true } = true ∧
      ((u.core (coreOf (octetOf u.cur) 0)).barrier n).gen ≠ (u.ctx.sv a).toNat % 65536 ∧
      u.admits { word := wordBarsy 1 x im, reads := [x], ends := true, once := true } = true ∧ u.ctx.barsy = none ∧
      u.admits { word := wordBarq 1 d x im, reads := [x], writes := [d], once := true } = true ∧ ∀ f, scalarRoom u d 0 f) :=
  ⟨0, 3, 3, 1, 9, barred halfway 255 none none,
    barred halfway 255 none (some ⟨4, 0, [(0, .data (leBytes 8 77))], true, 0, 0, false, [], none⟩), 0, 77, _,
    ⟨by decide +kernel, by decide +kernel, (by decide +kernel), by decide +kernel, by decide +kernel, sroom (by decide +kernel) _ _ _,
      .inr ⟨by decide, unsent_none (by decide +kernel), by decide +kernel⟩, by decide +kernel, by decide +kernel, (by decide +kernel),
      by decide +kernel⟩, by decide +kernel, ⟨rfl, by decide, by decide, by decide⟩, by decide +kernel, by decide +kernel,
    (by decide +kernel), by decide +kernel, by decide +kernel, (by decide +kernel), by decide +kernel, by decide +kernel,
    sroom (by decide +kernel) _ _⟩
/-! ## Witnesses: messages, handlers, joins, graphs, queues, handles -/

/-- The activation was started by a message of type 5 from the given sender; register 1 names core 255. -/
def fromMsg (src : Word) (node : Option Nat) : State :=
  let m : Msg := { type := 5, tag := 0x77, src := src }
  on fun x => { (x.putS 1 (plain 255)) with id := { x.id with msg := m, type := 5, node := node } }

/-- A system message started the activation. -/
def bySystem : State := (fromMsg 3 none).modCtx fun x => { x with id := { x.id with system := true } }

theorem test_send_met (full : Bool) : ∃ (i : Instr) (w p n ty : Nat) (c v : Option Nat) (s : State) (dst : Nat → Nat),
    sendForm i = some (c, p, n, ty, v) ∧ encode i = some w ∧
    s.admits { word := w, reads := sendReads c p n v, ends := true } = true ∧ (extended s.ctx.hints 8 ty).1 < 2 ^ 32 ∧
    (∀ u, v = some u → sourceReady s (1, u) ∧ matrixIdle s ∧ parityClean s) ∧
    (∀ k ∈ activeOf s.ctx.lift (s.ctx.tagUnion (sendReads c p n v)), dst k < 2048 ∧ inQuads s.myVf (dst k) = true ∧ match c with
      | some c => (atInst (s.ctx.sreg c) k).toNat = dst k
      | none => s.ctx.id.node = none ∧ s.ctx.id.system = false ∧ s.ctx.id.msg.src.toNat = dst k) ∧ c.isSome = true ∧ v.isSome = true ∧
    (s.core s.cur).noCredit = full := by
  cases full
  · exact ⟨.sendv 1 7 2 9, _, 9, 2, 9, some 1, some 7, fromMsg 3 none, fun _ => 255, rfl, rfl, by decide +kernel, by decide +kernel,
      fun u h => by cases h; exact ⟨.inl (by decide), idle (by decide +kernel), clean (by decide +kernel)⟩, by decide +kernel, rfl, rfl,
      by decide +kernel⟩
  · exact ⟨.sendv 1 7 2 9, _, 9, 2, 9, some 1, some 7, (fromMsg 3 none).modCore 0 fun k => { k with noCredit := true }, fun _ => 255, rfl,
      rfl, by decide +kernel, by decide +kernel,
      fun u h => by cases h; exact ⟨.inl (by decide), idle (by decide +kernel), clean (by decide +kernel)⟩, by decide +kernel, rfl, rfl,
      by decide +kernel⟩

theorem test_reply_met : ∃ (i : Instr) (w p n ty : Nat) (s : State) (dst : Nat → Nat), sendForm i = some (none, p, n, ty, none) ∧
    encode i = some w ∧ s.admits { word := w, reads := sendReads none p n none, ends := true } = true ∧
    (extended s.ctx.hints 8 ty).1 < 2 ^ 32 ∧
    ∀ k ∈ activeOf s.ctx.lift (s.ctx.tagUnion (sendReads none p n none)), dst k < 2048 ∧ inQuads s.myVf (dst k) = true ∧
      s.ctx.id.node = none ∧ s.ctx.id.system = false ∧ s.ctx.id.msg.src.toNat = dst k :=
  ⟨.reply 2 1 0, _, 2, 1, 0, fromMsg 3 none, fun _ => 3, rfl, rfl, by decide +kernel, by decide +kernel, by decide +kernel⟩

theorem test_reply_host_met : ∃ (i : Instr) (w p n ty : Nat) (s u : State), sendForm i = some (none, p, n, ty, none) ∧
    encode i = some w ∧
    (s.admits { word := w, reads := sendReads none p n none, ends := true } = true ∧ (extended s.ctx.hints 8 ty).1 < 2 ^ 32 ∧
      s.ctx.id.node = none ∧ s.ctx.id.system = false ∧ s.ctx.id.msg.src = 0x10000 ∧
      (s.core s.cur).noCredit = false) ∧
    (u.admits { word := w, reads := sendReads none p n none, ends := true } = true ∧ (extended u.ctx.hints 8 ty).1 < 2 ^ 32 ∧
      u.ctx.id.node.isSome = true ∧ u.ctx.tagUnion (sendReads none p n none) = 0) :=
  ⟨.reply 2 1 0, _, 2, 1, 0, fromMsg 0x10000 none, fromMsg 3 (some 4), rfl, rfl, by decide +kernel, by decide +kernel⟩

theorem test_reply_system_met : ∃ (w p n ty : Nat) (s : State), encode (.reply p n ty) = some w ∧
    s.admits { word := w, reads := sendReads none p n none, ends := true } = true ∧ (extended s.ctx.hints 8 ty).1 < 2 ^ 32 ∧
    s.ctx.id.system = true ∧ s.ctx.tagUnion (sendReads none p n none) = 0 :=
  ⟨_, 2, 1, 0, bySystem, rfl, by decide +kernel, by decide +kernel, (by decide +kernel), by decide +kernel⟩

/-- Registers 1 to 3 hold a type, an entry and a flags word. -/
def forBind (ty : Word) : State :=
  on fun x => ((x.putS 1 (plain ty)).putS 2 (plain (codeAt 0x40))).putS 3 (plain 0x3008)

theorem test_bind_met (ty : Word) (h : ty = 0 ∨ ty = 239 ∨ ty = 253 ∨ ty = 255) : ∃ (t e c va : Nat) (s : State),
    s.admits { word := wordBind t e c, reads := [t, e, c], once := true } = true ∧
    ((s.ctx.sv t).toNat < 240 ∨ (253 ≤ (s.ctx.sv t).toNat ∧ (s.ctx.sv t).toNat ≤ 255)) ∧
    ptrCheck s.myVf (s.ctx.sv e) permX 4 = .ok va ∧ (s.ctx.sv c).toNat < 2 ^ 14 ∧ (s.ctx.sv c).toNat / 16 % 16 = 0 ∧
    1 ≤ (s.ctx.sv c).toNat % 16 ∧ (s.ctx.sv c).toNat % 16 ≤ 8 ∧ (s.ctx.sv c).toNat / 256 ≤ 48 ∧
    (∀ m ∈ (s.core s.cur).q.pendq, m.type ≠ (s.ctx.sv t).toNat) ∧ s.ctx.sv t = ty := by
  refine ⟨1, 2, 3, 0x10040, forBind ty, ?_⟩
  rcases h with rfl | rfl | rfl | rfl <;> decide +kernel

theorem test_unbind_met (ty : Word) (h : ty = 5 ∨ ty = 254) : ∃ (t : Nat) (s : State),
    s.admits { word := wordUnbind t, reads := [t], once := true } = true ∧
    ((s.ctx.sv t).toNat < 240 ∨ (253 ≤ (s.ctx.sv t).toNat ∧ (s.ctx.sv t).toNat ≤ 255)) ∧
    (s.core s.cur).q.pendq.length + ((s.core s.cur).q.mailbox.filter fun m => m.type == (s.ctx.sv t).toNat).length ≤ 16 ∧
    s.ctx.sv t = ty := by
  refine ⟨1, forBind ty, ?_⟩
  rcases h with rfl | rfl <;> decide +kernel

theorem test_bind_type_met (ty : Word) (h : ty = 240 ∨ ty = 252 ∨ ty = 256) : ∃ (t e c : Nat) (s : State),
    s.admits { word := wordBind t e c, reads := [t, e, c], once := true } = true ∧
    s.admits { word := wordUnbind t, reads := [t], once := true } = true ∧
    (240 ≤ (s.ctx.sv t).toNat ∧ (s.ctx.sv t).toNat < 253 ∨ 256 ≤ (s.ctx.sv t).toNat) ∧ s.ctx.sv t = ty := by
  refine ⟨1, 2, 3, forBind ty, ?_⟩
  rcases h with rfl | rfl | rfl <;> decide +kernel

/-- A node that runs; the activation is its start activation. -/
def demoNode (st : NodeState) (n : Nat) : Node :=
  { entry := codeAt 0, slice := 0, ctxs := 1, vregs := 48, spad := 0, bars := 0, cx := 0, held := false, count := n, words := []
    succs := [], vf := 0, launch := some 7, state := st }

/-- Die 0 has node 4 running and node 5 pending; register 1 names the one, register 2 the other. -/
def forNode : State :=
  let t : Table Node := [(4, demoNode .running 0), (5, demoNode .pending 2)]
  let l : Launch := { vf := 0, obj := 0, status := 0, die := 0, nodes := [4, 5], nslice := 1 }
  let s := on fun x =>
    { ((x.putS 1 (plain 4)).putS 2 (plain 5)) with id := { x.id with node := some 4, launch := some 7 } }
  { (s.modDie 0 fun d => { d with nodes := t }) with launches := [(7, l)] }

/-- A node reference is usable when the node it names is of the own virtual function. -/
theorem ref_ok {s : State} {x : Word} (h : x.toNat < 2 ^ 19) (g : (s.die (x.toNat / 65536)).pw.state ≠ .hold)
    (e : (match s.nodeAt x.toNat with | some n => n.vf == s.ctx.id.vf | none => true) = true) : nodeRefOk s x :=
  ⟨h, g, fun n k => by rw [k] at e; exact beq_iff_eq.mp e⟩

/-- The activation may end. -/
theorem may_end {s : State} (a : s.ctx.lift.frames = []) (b : s.myCommands = []) (c : s.ctx.accf = []) : mayEnd s := ⟨a, b, c⟩

theorem test_done_met : ∃ (s : State) (ref : Nat) (n : Node), s.admits { word := wordDone, ends := true } = true ∧ mayEnd s ∧
    notAborting s ∧ s.ctx.id.node = some ref ∧ s.nodeAt ref = some n ∧ n.state = .running ∧ n.held = false ∧ n.completing = none :=
  ⟨forNode, 4, demoNode .running 0, by decide +kernel, may_end (by decide +kernel) (by decide +kernel) (by decide +kernel),
    fun l x e f => by cases e; cases f; rfl, by decide +kernel, by decide +kernel, rfl, rfl, rfl⟩

/-- A lift frame is open; a matrix command of the activation is unfinished; an accumulator trap is pending. -/
def unended (k : Nat) : State :=
  match k with
  | 0 => on fun x => { x with lift := { levels := [⟨4, 0, 0⟩], active := [0, 1], frames := [.fork (codeAt 16) 1 [0, 1, 2, 3] [2, 3] (codeAt 8)] } }
  | 1 => go.modOctet 0 fun o => { o with members := [(0, { queue := [{ cmd := .drn, own := go.owner 0, seq := 0 }] })] }
  | _ => on fun x => { x with accf := [2, 4] }

theorem test_not_end_met (k : Nat) (h : k = 0 ∨ k = 1 ∨ k = 2) : ∃ s : State,
    s.admits { word := wordDone, ends := true } = true ∧ s.admits { word := wordRefuse, ends := true } = true ∧
    s.ctx.id.node = none ∧ s.ctx.id.system = false ∧
    (k = 0 → s.ctx.lift.frames ≠ []) ∧ (k = 1 → s.ctx.lift.frames = [] ∧ ¬ matrixIdle s) ∧
    (k = 2 → s.ctx.lift.frames = [] ∧ matrixIdle s ∧ ∃ b bs, s.ctx.accf = b :: bs) := by
  refine ⟨unended k, ?_⟩
  rcases h with rfl | rfl | rfl <;> unfold matrixIdle
  · exact ⟨by decide +kernel, by decide +kernel, (by decide +kernel), by decide +kernel, by decide +kernel, fun h => absurd h (by decide),
      fun h => absurd h (by decide)⟩
  · exact ⟨by decide +kernel, by decide +kernel, (by decide +kernel), by decide +kernel, fun h => absurd h (by decide), by decide +kernel,
      fun h => absurd h (by decide)⟩
  · exact ⟨by decide +kernel, by decide +kernel, (by decide +kernel), by decide +kernel, fun h => absurd h (by decide),
      fun h => absurd h (by decide), fun _ => ⟨by decide +kernel, by decide +kernel, 2, [4], by decide +kernel⟩⟩

theorem test_refuse_met (src : Word) (h : src = 3 ∨ src = 0x10000) : ∃ s : State,
    s.admits { word := wordRefuse, ends := true } = true ∧ s.ctx.id.node = none ∧ s.ctx.id.system = false ∧ mayEnd s ∧ notAborting s ∧
    (src = 3 → s.ctx.id.msg.fromCore = true) ∧ (src = 0x10000 → s.ctx.id.msg.fromHost = true) := by
  refine ⟨fromMsg src none, ?_⟩
  rcases h with rfl | rfl <;>
    exact ⟨by decide +kernel, by decide +kernel, by decide +kernel,
      may_end (by decide +kernel) (by decide +kernel) (by decide +kernel), fun l x e => (nomatch e), by decide +kernel, by decide +kernel⟩

theorem test_refuse_bound_met : ∃ s u : State, s.admits { word := wordRefuse, ends := true } = true ∧ s.ctx.id.node.isSome = true ∧
    u.admits { word := wordRefuse, ends := true } = true ∧ u.ctx.id.system = true :=
  ⟨forNode, bySystem, by decide +kernel, by decide +kernel, (by decide +kernel), by decide +kernel⟩

theorem test_msgrd_met (i : Nat) (h : i = 5 ∨ i = 6 ∨ i = 8 ∨ i = 31) : ∃ (d : Nat) (s : State), (Instr.msgrd d i).wf = true ∧
    s.admits { word := wordMsgrd d i, writes := [d], once := true } = true ∧ ∀ v, scalarRoom s d 0 v := by
  rcases h with rfl | rfl | rfl | rfl <;>
    exact ⟨9, fromMsg 3 none, by decide +kernel, by decide +kernel, sroom (by decide +kernel) _ _⟩

/-- Register 4 names the last 16 bytes of the scratchpad, register 3 holds a count. -/
def forJoin : State := on fun x => (x.putS 4 (plain 0xBFFF0)).putS 3 (plain 1)

/-- Register 1 refers to the last 16 bytes of core 1, register 2 holds a count. -/
def forArrive : State := on fun x => (x.putS 1 (plain 0x1000BFFF0)).putS 2 (plain 0xFFFFFFFF)

theorem test_jset_met : ∃ (a b ty : Nat) (s : State), s.admits { word := wordJset a b ty, reads := [a, b], ends := true } = true ∧
    s.ctx.tagUnion [a, b] = 0 ∧ wordAtInst s a 0 (s.ctx.sv a).toNat ∧ s.ctx.sv b ≠ 0 ∧ (s.ctx.sv b).toNat < 2 ^ 32 ∧ ty < 240 ∧
    matrixIdle s :=
  ⟨4, 3, 239, forJoin, by decide +kernel, by decide +kernel, by unfold wordAtInst; decide +kernel, by decide +kernel,
    by decide +kernel, by decide, idle (by decide +kernel)⟩

theorem test_arrive_met (b : Nat) (h : b = 0 ∨ b = 2) : ∃ (a p c : Nat) (s : State),
    let regs := if b = 0 then [a] else [a, b]
    let n := if b = 0 then 1 else (s.ctx.sv b).toNat
    s.admits { word := wordArrive a b, reads := regs, ends := true } = true ∧ s.ctx.tagUnion regs = 0 ∧
    resolveRef s (s.ctx.sv a) true = .ok (p, c) ∧ p + 16 ≤ 786432 ∧ p % 16 = 0 ∧ 1 ≤ n ∧ n < 2 ^ 32 ∧ matrixIdle s ∧
    releasedToward s (dieOf c) := by
  rcases h with rfl | rfl <;> exact ⟨1, 0xBFFF0, 1, forArrive, by unfold releasedToward matrixIdle; decide +kernel⟩

theorem test_jget_met : ∃ (d a : Nat) (addr : Nat → Nat) (s u : State),
    s.admits { word := wordJget d a, reads := [a], writes := [d] } = true ∧ matrixIdle s ∧
    (∀ k ∈ activeOf s.ctx.lift (s.ctx.tagUnion [a]), wordAtInst s a k (addr k)) ∧ (∀ f, scalarRoom s d (s.ctx.tagUnion [a]) f) ∧
    s.ownOps s.cur = false ∧ u.admits { word := wordJget d a, reads := [a], writes := [d] } = true ∧ matrixIdle u ∧
    (∀ k ∈ activeOf u.ctx.lift (u.ctx.tagUnion [a]), wordAtInst u a k (addr k)) ∧ u.ownOps u.cur = true :=
  ⟨9, 4, fun _ => 0xBFFF0, forJoin, forJoin.post ⟨0, 0, 0, .remote (.jset 0 1 5 {})⟩, by decide +kernel,
    idle (by decide +kernel), by unfold wordAtInst; decide +kernel, sroom (by decide +kernel) _ _, by decide +kernel,
    by decide +kernel, idle (by decide +kernel), by unfold wordAtInst; decide +kernel, by decide +kernel⟩

/-- A node descriptor of one context lies at the start of the scratchpad. -/
def forDef : State :=
  go.modCore 0 fun k =>
    { k with spad := mwrite k.spad 0 (leBytes 8 (codeAt 0x40).toNat ++ leBytes 8 (0x10000 + 0x1000000 * 48) ++ leBytes 64 0) }

theorem test_gdef_met : ∃ (d a : Nat) (s : State), s.admits { word := wordGdef d a, reads := [a], writes := [d], ends := true } = true ∧
    s.ctx.tagUnion [a] = 0 ∧ matrixIdle s ∧ spadRange (s.ctx.sv a) 80 ∧
    (∃ va, ptrCheck s.myVf (descOf (mread (s.core s.cur).spad (s.ctx.sv a).toNat 80)).entry permX 4 = .ok va) ∧
    (∀ v : Word, scalarRoom s d 0 (fun _ => v)) ∧ (s.die s.myDie).nodeUsed < 65536 :=
  ⟨9, 1, forDef, by decide +kernel, by decide +kernel, idle (by decide +kernel), by unfold spadRange; decide +kernel,
    ⟨0x10040, by decide +kernel⟩, fun _ => sroom (by decide +kernel) _ _ _, by decide +kernel⟩

theorem test_gsucc_met : ∃ (d a b : Nat) (s : State) (m n : Node),
    s.admits { word := wordGsucc d a b, reads := [a, b], writes := [d], ends := true } = true ∧ s.ctx.tagUnion [a, b] = 0 ∧
    nodeRefOk s (s.ctx.sv a) ∧ nodeRefOk s (s.ctx.sv b) ∧ (s.ctx.sv a).toNat ≠ (s.ctx.sv b).toNat ∧
    (∀ v : Word, scalarRoom s d 0 (fun _ => v)) ∧ s.nodeAt (s.ctx.sv b).toNat = some m ∧ m.state = .pending ∧
    s.nodeAt (s.ctx.sv a).toNat = some n ∧ n.state ≠ .done :=
  ⟨9, 1, 2, forNode, demoNode .pending 2, demoNode .running 0, by decide +kernel, by decide +kernel,
    ref_ok (by decide +kernel) (by decide +kernel) (by decide +kernel), ref_ok (by decide +kernel) (by decide +kernel) (by decide +kernel),
    by decide +kernel, fun _ => sroom (by decide +kernel) _ _ _, by decide +kernel, rfl, by decide +kernel, by decide⟩

theorem test_gdone_gqry_met (hold : Bool) : ∃ (d a : Nat) (s : State) (n : Node),
    (if hold then Instr.gdoneHold d a else .gdone d a).wf = true ∧
    s.admits { word := if hold then wordGdoneHold d a else wordGdone d a, reads := [a], writes := [d], ends := true } = true ∧
    s.admits { word := wordGqry d a, reads := [a], writes := [d] } = true ∧
    s.ctx.tagUnion [a] = 0 ∧ nodeRefOk s (s.ctx.sv a) ∧ (∀ v : Word, scalarRoom s d 0 (fun _ => v)) ∧
    s.nodeAt (s.ctx.sv a).toNat = some n ∧ n.state = .running ∧ n.completing = none := by
  cases hold <;> exact ⟨9, 1, forNode, demoNode .running 0, by decide, by decide +kernel, (by decide +kernel), by decide +kernel,
    ref_ok (by decide +kernel) (by decide +kernel) (by decide +kernel), fun _ => sroom (by decide +kernel) _ _ _, by decide +kernel,
    rfl, rfl⟩

/-- Queue 3 of die 0 is owned and holds a range; register 1 names it, registers 2 and 4 hold a range and an empty one, 3 a count. -/
def forQueue (n : Nat) : State :=
  let w : Table WorkQ := [(3, ⟨some 0, List.replicate n (5, 9)⟩)]
  let s := on fun x =>
    (((x.putS 1 (plain 3)).putS 2 (plain 0x900000005)).putS 3 (plain 2)).putS 4 (plain 0x500000005)
  s.modDie 0 fun d => { d with wqs := w }

theorem test_wput_wtake_met (k : Nat) (h : k = 0 ∨ k = 1 ∨ k = 1024) : ∃ (d a b die q : Nat) (s : State),
    s.admits { word := wordWput d a b, reads := [a, b], writes := [d], ends := true } = true ∧
    s.admits { word := wordWtake d a b, reads := [a, b], writes := [d], ends := true } = true ∧
    s.admits { word := wordWqcfg d a b, reads := [a, b], writes := [d] } = true ∧
    s.ctx.tagUnion [a, b] = 0 ∧ queueAt s (s.ctx.sv a) die q ∧ (s.workQ (die, q)).owner = some s.ctx.id.vf ∧ releasedToward s die ∧
    (∀ v : Word, scalarRoom s d 0 (fun _ => v)) ∧ (s.workQ (die, q)).ranges.length = k ∧ (s.ctx.sv b).toNat < 4 := by
  refine ⟨9, 1, 3, 0, 3, forQueue k, ?_⟩
  rcases h with rfl | rfl | rfl <;>
    exact ⟨by decide +kernel, by decide +kernel, (by decide +kernel), by decide +kernel,
      by unfold queueAt; decide +kernel, by decide +kernel, by unfold releasedToward; decide +kernel,
      fun _ => sroom (by decide +kernel) _ _ _, by decide +kernel, by decide +kernel⟩

theorem test_wqcfg_met (f : Nat) (h : f = 0 ∨ f = 2 ∨ f = 3) : ∃ (d a b die q : Nat) (s : State),
    s.admits { word := wordWqcfg d a b, reads := [a, b], writes := [d] } = true ∧ s.ctx.tagUnion [a, b] = 0 ∧
    queueAt s (s.ctx.sv a) die q ∧ (∀ v : Word, scalarRoom s d 0 (fun _ => v)) ∧ (s.ctx.sv b).toNat = f ∧
    (s.workQ (die, q)).owner = some s.ctx.id.vf := by
  refine ⟨9, 1, 5, 0, 3, (forQueue 2).modCtx fun x => x.putS 5 (plain (BitVec.ofNat 64 f)), ?_⟩
  rcases h with rfl | rfl | rfl <;>
    exact ⟨by decide +kernel, by decide +kernel, by unfold queueAt; decide +kernel, fun _ => sroom (by decide +kernel) _ _ _,
      by decide +kernel, by decide +kernel⟩

theorem test_wqcfg_take_met : ∃ (d a b die q : Nat) (s : State),
    s.admits { word := wordWqcfg d a b, reads := [a, b], writes := [d] } = true ∧ s.ctx.tagUnion [a, b] = 0 ∧
    queueAt s (s.ctx.sv a) die q ∧ (∀ v : Word, scalarRoom s d 0 (fun _ => v)) ∧ (s.ctx.sv b).toNat = 1 ∧
    (s.workQ (die, q)).owner = none :=
  ⟨9, 1, 2, 0, 3, (withS 1 3).modCtx fun x => x.putS 2 (plain 1), by decide +kernel, by decide +kernel, by unfold queueAt; decide +kernel,
    fun _ => sroom (by decide +kernel) _ _ _, by decide +kernel, by decide +kernel⟩

theorem test_hcfg_met : ∃ (h a z0 z t : Nat) (s : State), (Instr.hcfg h a z0 z t).wf = true ∧
    s.admits { word := wordHcfg h a z0 z t, reads := [a], once := true } = true ∧ fillsHandle s (h - 52) = false ∧
    t + 1 ≤ 2 ^ z0 ∧ spadRange (s.ctx.sv a) (2 ^ z0 * (8 * 2 ^ z)) :=
  ⟨59, 1, 3, 4, 7, withS 1 (786432 - 1024), by decide, by decide +kernel, (by decide +kernel), by decide, by unfold spadRange; decide +kernel⟩

theorem test_hadv_met (produce : Bool) (n : Nat) (h : n = 1 ∨ n = 2) : ∃ (h : Nat) (s : State),
    let i : Instr := if produce then .hadvP h n else .hadv h n
    let w := if produce then wordHadvP h n else wordHadv h n
    i.wf = true ∧ s.admits { word := w, once := true } = true ∧ (s.ctx.handle (h - 52)).slots ≠ 0 ∧
    (if produce then s.ctx.freeSlots (h - 52) else (s.ctx.handle (h - 52)).filled) = 1 := by
  cases produce <;> rcases h with rfl | rfl <;> exact ⟨52, linked, by decide +kernel⟩

theorem test_hget_met : ∃ (d h k : Nat) (s : State), s.admits { word := wordHget d h, writes := [d], once := true } = true ∧
    (s.ctx.handle (h - 52)).slots ≠ 0 ∧ (∀ v : Word, scalarRoom s d 0 (fun _ => v)) ∧
    s.admits { word := wordHget d k, writes := [d], once := true } = true ∧ (s.ctx.handle (k - 52)).slots = 0 :=
  ⟨9, 52, 54, linked, by decide +kernel, by decide +kernel, fun _ => sroom (by decide +kernel) _ _ _, by decide +kernel, by decide +kernel⟩

/-! ## Witnesses: complexes, cochains, seams, remeshing -/

/-- One triangle, all weights 1. -/
def triangle (g : Nat) : Cplx :=
  let w : Nat := 0x3F800000
  let f1 : List (List (Nat × Int)) := [[(0, -1), (1, 1)], [(1, -1), (2, 1)], [(0, -1), (2, 1)]]
  let f2 : List (List (Nat × Int)) := [[(0, 1), (1, 1), (2, -1)]]
  { gen := g, dim := 2, simp := true, own := [3, 3, 1, 0], nf := [0, 2, 3, 0], len := 0, faces := [f1, f2, []]
    verts := [[[0, 1], [1, 2], [0, 2]], [[0, 1, 2]], []], weights := [[w, w, w], [w, w, w], [w], []] }

/-- An f32 cochain register of one channel: generation, degree, base. -/
def cochainReg (g deg base : Nat) : KReg := { w0 := wd (g * 2 ^ 48 + 0x2400000000 + deg * 2 ^ 32), w1 := wd (0x100000 + base) }

/-- Core 0 holds the triangle in slot 0; k1 and k4 hold degree 0, k2 and k5 degree 1, k3 degree 2; register 1 holds a value. -/
def forCochain (sl : Slot) (v : Word) (recs : List CopyRec) : State :=
  (on fun x =>
    { (x.putS 1 (plain v)) with
      regs := { (x.putS 1 (plain v)).regs with
                k := [(1, cochainReg 1 0 0), (2, cochainReg 1 1 64), (3, cochainReg 1 2 128), (4, cochainReg 1 0 192),
                      (5, cochainReg 2 0 256)] } }).modCore 0 fun k =>
    { k with slots := [(0, sl)], seam := { k.seam with recs := recs } }

/-- The usual state of these tests. -/
def meshed (v : Word) : State := forCochain { ctr := 1, cur := some (triangle 1) } v []

theorem test_cxbind_met : ∃ (d a x : Nat) (s : State),
    s.admits { word := wordCxbind d a x, reads := [a], writes := [d], ends := true, once := true } = true ∧ spadRange (s.ctx.sv a) 80 ∧
    (s.ctx.sv a).toNat + mreadNat (s.core s.cur).spad ((s.ctx.sv a).toNat + 28) 4 ≤ 786432 ∧ matrixIdle s ∧
    unitFree s ∧ ∀ v : Word, scalarRoom s d 0 (fun _ => v) :=
  ⟨9, 1, 0, meshed 786352, by decide +kernel, by unfold spadRange; decide +kernel, by decide +kernel, idle (by decide +kernel),
    by unfold unitFree; decide +kernel,
    fun _ => sroom (by decide +kernel) _ _ _⟩

theorem test_cxdrop_met : ∃ (x : Nat) (s : State), s.admits { word := wordCxdrop x, ends := true, once := true } = true ∧
    s.admits { word := wordCxdropAll x, ends := true, once := true } = true ∧ unitFree s :=
  ⟨0, meshed 0, by decide +kernel, by decide +kernel, by unfold unitFree; decide +kernel⟩

theorem test_cxinfo_kinfo_met : ∃ (d i k x : Nat) (s : State), s.admits { word := wordCxinfo d i x, writes := [d] } = true ∧
    s.admits { word := wordKinfo d k i, reads := [kCode k], writes := [d] } = true ∧ (∀ v, scalarRoom s d 0 v) ∧
    (s.ctx.kreg k).defined = true ∧ (s.core s.cur).bindState (s.ctx.kreg k) = .live :=
  ⟨9, 2, 1, 0, meshed 0, by decide +kernel, by decide +kernel, sroom (by decide +kernel) _ _, by decide +kernel, by decide +kernel⟩

/-- Registers 1 and 2 hold the words of a definition: degree 2, f32, two channels, the last two rows' worth of scratchpad. -/
def forDefine : State := (meshed 0x600010000).modCtx fun x => x.putS 2 (plain (0x100000 + 786424))

theorem test_kdef_met : ∃ (k a b : Nat) (c : Cplx) (s : State),
    let w0 := s.ctx.sv a
    let w1 := s.ctx.sv b
    let r : KReg := { w0 := w0, w1 := w1 }
    s.admits { word := wordKdef k a b, reads := [a, b], writes := [kCode k], once := true } = true ∧
    w0 &&& ~~~ 0x0000001FFFFF0000 = 0 ∧ w1 &&& ~~~ 0x00000FFFFFFFFFFF = 0 ∧ ((s.core s.cur).slot r.slot).cur = some c ∧
    r.deg ≤ c.dim ∧ (r.fmt ≠ 0 → r.exp = 0) ∧ r.base % 8 = 0 ∧ (r.choff + r.chm + 1) * r.es ≤ r.rowBytes ∧
    kSpan s r c 0 = .ok () ∧ kSpan s r c (destTags s.ctx.lift 0 (s.ctx.kreg k).tags) = .ok () ∧ unitFree s :=

  ⟨6, 1, 2, triangle 1, forDefine, by decide +kernel, by decide +kernel, (by decide +kernel), by decide +kernel, by decide +kernel,
    (by decide +kernel), by decide +kernel, by decide +kernel, (by decide +kernel), by decide +kernel, by unfold unitFree; decide +kernel⟩

theorem test_kview_met : ∃ (d a b : Nat) (s : State),
    s.admits { word := wordKview d a b, reads := [kCode a, b], writes := [kCode d] } = true ∧ (s.ctx.sreg b).tags = 0 ∧ liveReg s a ∧
    (s.ctx.kreg a).pushed = false ∧ 1 ≤ (s.ctx.sv b).toNat / 256 ∧ (s.ctx.sv b).toNat / 256 ≤ 256 ∧
    (s.ctx.sv b).toNat % 256 + (s.ctx.sv b).toNat / 256 ≤ (s.ctx.kreg a).chm + 1 ∧
    (s.ctx.kreg a).choff + (s.ctx.sv b).toNat % 256 < 256 ∧ unitFree s :=
  ⟨6, 1, 1, meshed 256, by decide +kernel, by decide +kernel, ⟨by decide +kernel, by decide +kernel⟩, by decide +kernel,
    by decide +kernel, (by decide +kernel), by decide +kernel, by decide +kernel, by unfold unitFree; decide +kernel⟩

theorem test_cochain_operator_met : ∃ (i : Instr) (w d r : Nat) (srcs : List Nat) (sc : Option Nat) (sp : KSpec)
    (f : KIn → Nat → Nat → KElem) (s : State),
    cochainForm i = some (d, srcs, sc, r, sp, f) ∧ encode i = some w ∧
    let reads := srcs.map kCode ++ sc.toList
    let k := s.ctx.kreg d
    let x := (s.core s.cur).cplxOf k
    s.admits { word := w, reads := reads, writes := [kCode d] } = true ∧ s.ctx.tagUnion reads = 0 ∧ s.ctx.lift.frames = [] ∧
    (∀ n ∈ srcs ++ [d], liveReg s n ∧ (s.ctx.kreg n).pushed = false) ∧ kAgree s (srcs ++ [d]) sp = .ok () ∧
    (∀ a ∈ srcs.map s.ctx.kreg, kOverlaps s.ctx.lift k x 0 a x = false ∧ kSpan s a x a.tags = .ok ()) ∧ kSpan s k x 0 = .ok () ∧
    matrixIdle s ∧ unitFree s ∧ fld s.ctx.sp.kmode 0 0 = 0 :=
  ⟨.kd 2 1 4, _, 2, 4, [1], none, _, _, meshed 0, rfl, rfl, by decide +kernel, by decide +kernel, by decide +kernel,
    by unfold liveReg; decide +kernel, by decide +kernel, by decide +kernel, by decide +kernel, idle (by decide +kernel),
    by unfold unitFree; decide +kernel, by decide +kernel⟩

theorem test_cochain_wedge_met : ∃ (i : Instr) (w d r : Nat) (srcs : List Nat) (sc : Option Nat) (sp : KSpec)
    (f : KIn → Nat → Nat → KElem) (s : State),
    cochainForm i = some (d, srcs, sc, r, sp, f) ∧ encode i = some w ∧ srcs.length = 2 ∧
    s.admits { word := w, reads := srcs.map kCode ++ sc.toList, writes := [kCode d] } = true ∧
    (∀ n ∈ srcs ++ [d], liveReg s n ∧ (s.ctx.kreg n).pushed = false) ∧ kAgree s (srcs ++ [d]) sp = .ok () :=
  ⟨.kwedge 6 1 2 0, _, 6, 0, [1, 2], none, _, _, (meshed 0).modCtx fun x => x.putK 6 (cochainReg 1 1 512), rfl, rfl, rfl, by decide +kernel,
    by unfold liveReg; decide +kernel, by decide +kernel⟩

theorem test_kdot_met : ∃ (d a b r : Nat) (s : State),
    s.admits { word := wordKdot d a b r, reads := [kCode a, kCode b], writes := [d] } = true ∧ s.ctx.tagUnion [kCode a, kCode b] = 0 ∧
    liveReg s a ∧ liveReg s b ∧ kAgree s [a, b] specSame = .ok () ∧
    kSpan s (s.ctx.kreg a) ((s.core s.cur).cplxOf (s.ctx.kreg a)) (s.ctx.kreg a).tags = .ok () ∧
    kSpan s (s.ctx.kreg b) ((s.core s.cur).cplxOf (s.ctx.kreg a)) (s.ctx.kreg b).tags = .ok () ∧ matrixIdle s ∧
    unitFree s ∧ ∀ v : Word, scalarRoom s d 0 (fun _ => v) :=
  ⟨9, 1, 4, 0, meshed 0, by decide +kernel, by decide +kernel, ⟨by decide +kernel, by decide +kernel⟩,
    ⟨by decide +kernel, by decide +kernel⟩, by decide +kernel, by decide +kernel, by decide +kernel, idle (by decide +kernel),
    by unfold unitFree; decide +kernel, fun _ => sroom (by decide +kernel) _ _ _⟩

/-- The triangle with two copy records of vertex 0. -/
def recorded : State := forCochain { ctr := 1, cur := some (triangle 1) } 0 [⟨0, 8, 0, 0, 0⟩, ⟨0, 9, 0, 3, 0⟩]

theorem test_seam_met : ∃ (k r : Nat) (s : State), s.admits { word := wordKspush k, reads := [kCode k], ends := true } = true ∧
    s.admits { word := wordKacc k r, reads := [kCode k], ends := true } = true ∧
    s.admits { word := wordKswait k, reads := [kCode k] } = true ∧
    let a := s.ctx.kreg k
    let c := s.core s.cur
    let x := c.cplxOf a
    let n := (activeOf s.ctx.lift a.tags).length
    liveReg s k ∧ a.pushed = false ∧ kSpan s a x a.tags = .ok () ∧ (a.tags ≠ 0 → s.ctx.lift.frames = []) ∧ matrixIdle s ∧
    c.storeUsed + (recordsOf c a.slot a.deg).length * n * (a.es * (a.chm + 1)) ≤ Config.complexBytes ∧ c.seam.early = [] ∧
    (recordsOf c a.slot a.deg).length = 2 ∧ unitFree s :=

  ⟨1, 0, recorded, by decide +kernel, by decide +kernel, by decide +kernel, ⟨by decide +kernel, by decide +kernel⟩, by decide +kernel,
    by decide +kernel, fun _ => by decide +kernel, idle (by decide +kernel), by decide +kernel, by decide +kernel, by decide +kernel,
    by unfold unitFree; decide +kernel⟩

/-- Register k1 expects two rows; the timeout has passed or not. -/
def expecting (late : Bool) : State :=
  recorded.modCtx fun x => { (x.putK 1 ((x.kreg 1).push 1 2 0 [(8, 0, 0), (9, 3, 0)])) with tmo := late }

theorem test_kswait_met (late : Bool) : ∃ (k : Nat) (s : State), s.admits { word := wordKswait k, reads := [kCode k] } = true ∧
    liveReg s k ∧ kSpan s (s.ctx.kreg k) ((s.core s.cur).cplxOf (s.ctx.kreg k)) (s.ctx.kreg k).tags = .ok () ∧
    ((s.ctx.kreg k).tags ≠ 0 → s.ctx.lift.frames = []) ∧ (s.ctx.kreg k).pushed = true ∧ s.ctx.tmo = late ∧ unitFree s := by
  refine ⟨1, expecting late, ?_⟩
  unfold liveReg unitFree
  cases late <;> decide +kernel

theorem test_remesh_met : ∃ (i : Instr) (w d x : Nat) (regs : List Nat) (op : RmOp) (c : Cplx) (s : State),
    remeshOp s i = some (d, x, regs, op) ∧ encode i = some w ∧
    s.admits { word := w, reads := regs, writes := [d], ends := true, once := true } = true ∧
    (∀ v : Word, scalarRoom s d 0 (fun _ => v)) ∧ unitFree s ∧
    let k := s.core s.cur
    let sl := k.slot x
    let p := sl.pend.getD c.pending
    sl.cur = some c ∧ c.dim = 2 ∧ c.simp = true ∧ remeshIndex s p i ∧ remeshOperand s i ∧ (∀ e ∈ p.touched op, seamCell k x c e = none) ∧
    p.geometry op = none ∧ remeshRoom k sl p (p.apply op) :=
  ⟨.rmpoke 9 2 1 0, _, 9, 0, [2, 1], .poke 0 1 1 1, triangle 1, meshed 0x100010001, by decide +kernel, rfl, by decide +kernel,
    fun _ => sroom (by decide +kernel) _ _ _, by unfold unitFree; decide +kernel, by decide +kernel, rfl, rfl,
    by simp only [remeshIndex]; decide +kernel, by simp only [remeshOperand]; decide +kernel, by decide +kernel, by decide +kernel,
    by unfold remeshRoom; decide +kernel⟩

theorem test_remesh_seam_met : ∃ (i : Instr) (w d x : Nat) (regs : List Nat) (op : RmOp) (c : Cplx) (e : Nat × Nat) (r : Nat) (s : State),
    remeshOp s i = some (d, x, regs, op) ∧ encode i = some w ∧
    s.admits { word := w, reads := regs, writes := [d], ends := true, once := true } = true ∧ unitFree s ∧
    let k := s.core s.cur
    let p := (k.slot x).pend.getD c.pending
    (k.slot x).cur = some c ∧ c.dim = 2 ∧ c.simp = true ∧ remeshIndex s p i ∧ remeshOperand s i ∧
    (p.touched op).find? (fun e => (seamCell k x c e).isSome) = some e ∧ seamCell k x c e = some r :=
  ⟨.rmpoke 9 2 1 0, _, 9, 0, [2, 1], .poke 0 1 1 1, triangle 1, (2, 0), 2,
    forCochain { ctr := 1, cur := some (triangle 1) } 0x100010001 [⟨0, 8, 2, 0, 0⟩], by decide +kernel, rfl, by decide +kernel,
    by unfold unitFree; decide +kernel, by decide +kernel, rfl, rfl, by simp only [remeshIndex]; decide +kernel,
    by simp only [remeshOperand]; decide +kernel, by decide +kernel, by decide +kernel⟩

/-- No complex; a cell that does not live; a weight of 0; a flip of an edge of one triangle. -/
theorem test_remesh_fails_met : ∃ (i j : Instr) (w w' w'' d d' x : Nat) (regs regs' : List Nat) (op op' : RmOp) (c : Cplx) (s u : State),
    (remeshOp s (.rmflip 9 1 1) = some (9, 1, [1], .flip 0) ∧ encode (.rmflip 9 1 1) = some w ∧
      s.admits { word := w, reads := [1], writes := [9], ends := true, once := true } = true ∧ unitFree s ∧
      ((s.core s.cur).slot 1).cur = none) ∧
    (remeshOp u i = some (d, x, regs, op) ∧ encode i = some w' ∧
      u.admits { word := w', reads := regs, writes := [d], ends := true, once := true } = true ∧ unitFree u ∧
      ((u.core u.cur).slot x).cur = some c ∧ ¬ remeshIndex u (((u.core u.cur).slot x).pend.getD c.pending) i) ∧
    (remeshOp s j = some (d', x, regs', op') ∧ encode j = some w'' ∧
      s.admits { word := w'', reads := regs', writes := [d'], ends := true, once := true } = true ∧ ((s.core s.cur).slot x).cur = some c ∧
      remeshIndex s (((s.core s.cur).slot x).pend.getD c.pending) j ∧ ¬ remeshOperand s j) ∧
    (remeshIndex s (((s.core s.cur).slot x).pend.getD c.pending) (.rmflip 9 1 0) ∧ remeshOperand s (.rmflip 9 1 0) ∧
      (((s.core s.cur).slot x).pend.getD c.pending).geometry (.flip 0) = some 4 ∧
      ∀ e ∈ (((s.core s.cur).slot x).pend.getD c.pending).touched (.flip 0), seamCell (s.core s.cur) x c e = none) :=
  ⟨.rmclps 9 1 2 0, .rmsplit 9 1 2 0, _, _, _, 9, 9, 0, [1, 2], [1, 2], .clps 3 false, .split 0 0 0, triangle 1, meshed 0, meshed 3,
    ⟨by decide +kernel, rfl, by decide +kernel, by unfold unitFree; decide +kernel, by decide +kernel⟩,
    ⟨by decide +kernel, rfl, by decide +kernel, by unfold unitFree; decide +kernel, by decide +kernel,
      by simp only [remeshIndex]; decide +kernel⟩,
    ⟨by decide +kernel, rfl, by decide +kernel, by decide +kernel, by simp only [remeshIndex]; decide +kernel,
      by simp only [remeshOperand]; decide +kernel⟩,
    by simp only [remeshIndex]; decide +kernel, by trivial, by decide +kernel, by decide +kernel⟩

/-- A poke of the triangle is pending, weights of 1 lie at the start of the scratchpad. -/
def poked : State :=
  (forCochain { ctr := 65535, cur := some (triangle 1), pend := some ((triangle 1).pending.apply (.poke 0 1 1 1)) } 0 []).modCore 0 fun k =>
    { k with spad := mwrite k.spad 0 (List.replicate 16 (leBytes 4 0x3F800000)).flatten }

/-- Register k1, on the slot of a pending complex, expects rows; a weight is not a number. -/
def pokedPushed : State := poked.modCtx fun x => x.putK 1 ((x.kreg 1).push 1 2 0 [(8, 0, 0), (9, 3, 0)])
/-- A weight is not a number. -/
def pokedBad : State := poked.modCore 0 fun k => { k with spad := mwrite k.spad 0 (leBytes 4 0x7FC00000) }

theorem test_rmcmit_fails_met : ∃ (d a x : Nat) (c : Cplx) (p : PendCplx) (s u v : State),
    (s.admits { word := wordRmcmit d a x, reads := [a], writes := [d], ends := true, once := true } = true ∧ matrixIdle s ∧ unitFree s ∧
      ((s.core s.cur).slot x).cur = some c ∧ ((s.core s.cur).slot x).pend = some p ∧ c.dim = 2 ∧ c.simp = true ∧
      (s.core s.cur).slotPushed x = true) ∧
    (u.admits { word := wordRmcmit d a x, reads := [a], writes := [d], ends := true, once := true } = true ∧ matrixIdle u ∧ unitFree u ∧
      ((u.core u.cur).slot x).cur = some c ∧ ((u.core u.cur).slot x).pend = some p ∧ (u.core u.cur).slotPushed x = false ∧
      ∃ w ∈ (List.range (p.newCells c).length).map fun i => mreadNat (u.core u.cur).spad ((u.ctx.sv a).toNat + 4 * i) 4,
        goodWeight w = false) ∧
    (v.admits { word := wordRmcmit d a 1, reads := [a], writes := [d], ends := true, once := true } = true ∧ matrixIdle v ∧ unitFree v ∧
      ((v.core v.cur).slot 1).cur = none) :=
  ⟨9, 1, 0, triangle 1, (triangle 1).pending.apply (.poke 0 1 1 1), pokedPushed, pokedBad, poked,
    by unfold unitFree matrixIdle; decide +kernel, by unfold unitFree matrixIdle; decide +kernel,
    by unfold unitFree matrixIdle; decide +kernel⟩

theorem test_rmcmit_met : ∃ (d a x : Nat) (c : Cplx) (p : PendCplx) (s u : State),
    s.admits { word := wordRmcmit d a x, reads := [a], writes := [d], ends := true, once := true } = true ∧
    (∀ v : Word, scalarRoom s d 0 (fun _ => v)) ∧ matrixIdle s ∧ isSpad (s.ctx.sv a) = true ∧ (s.ctx.sv a).toNat % 4 = 0 ∧
    ((s.core s.cur).slot x).cur = some c ∧ ((s.core s.cur).slot x).pend = some p ∧
    (s.ctx.sv a).toNat + 4 * (p.newCells c).length ≤ 786432 ∧ unitFree s ∧ c.dim = 2 ∧ c.simp = true ∧
    (s.core s.cur).slotPushed x = false ∧
    (∀ w ∈ (List.range (p.newCells c).length).map fun i => mreadNat (s.core s.cur).spad ((s.ctx.sv a).toNat + 4 * i) 4,
      goodWeight w = true) ∧ p.newCells c ≠ [] ∧
    (u.admits { word := wordRmcmit d a x, reads := [a], writes := [d], ends := true, once := true } = true ∧ matrixIdle u ∧ unitFree u ∧
      isSpad (u.ctx.sv a) = true ∧ (u.ctx.sv a).toNat % 4 = 0 ∧ ((u.core u.cur).slot x).pend = none ∧ (u.ctx.sv a).toNat ≤ 786432) :=
  ⟨9, 1, 0, triangle 1, (triangle 1).pending.apply (.poke 0 1 1 1), poked, meshed 786432, by decide +kernel,
    fun _ => sroom (by decide +kernel) _ _ _, idle (by decide +kernel), by decide +kernel, by decide +kernel, (by decide +kernel),
    by decide +kernel, by decide +kernel, by unfold unitFree; decide +kernel, rfl, rfl, by decide +kernel, by decide +kernel, (by decide +kernel),
    by decide +kernel, idle (by decide +kernel), by unfold unitFree; decide +kernel, by decide +kernel, by decide +kernel, (by decide +kernel), by decide +kernel⟩

/-- Generation 2 of the triangle after a commit that changed nothing. -/
def committed : State :=
  forCochain { ctr := 2, cur := some (triangle 2), prev := some (triangle 1), log := some ⟨[], [[0, 1, 2], [0, 1, 2], [0]]⟩ } 0 []

theorem test_kxfer_met : ∃ (d a r : Nat) (new old : Cplx) (log : CommitLog) (s : State),
    s.admits { word := wordKxfer d a r, reads := [kCode a], writes := [kCode d] } = true ∧
    kxferChecks s d a = .ok (new, old, log) ∧ (s.ctx.kreg a).tags = 0 ∧ s.ctx.lift.frames = [] ∧
    kOverlaps s.ctx.lift (s.ctx.kreg d) new 0 (s.ctx.kreg a) old = false ∧ kSpan s (s.ctx.kreg a) old 0 = .ok () ∧
    kSpan s (s.ctx.kreg d) new 0 = .ok () ∧ (s.ctx.kreg a).pushed = false ∧ (s.ctx.kreg d).pushed = false ∧ matrixIdle s ∧
    unitFree s ∧ fld s.ctx.sp.kmode 0 0 = 0 :=
  ⟨5, 1, 0, triangle 2, triangle 1, _, committed, by decide +kernel, rfl, by decide +kernel, by decide +kernel, (by decide +kernel),
    by decide +kernel, by decide +kernel, (by decide +kernel), by decide +kernel, idle (by decide +kernel), by unfold unitFree; decide +kernel, by decide +kernel⟩

/-! ## Witnesses: the matrix unit and the lift -/

/-- The member of core 0 is given, with the octet's bank set 0; register 1 holds a value. -/
def forMatrix (m : Member) (b : BankSet) (v : Word) : State :=
  let s := withS 1 v
  { s with octets := [(0, { members := [(0, m)], set0 := b })] }

/-- A configuration: mode 0, weight 1, one row, one column, K of 8. -/
def cfgWord : Word := 0x800000010

/-- A configured member at a state. -/
def member (st : Nat) (q : List MEntry) : Member :=
  { cfg := cfgWord, configured := true, st := st, xcfg := cfgWord, queue := q, set := if st = 0 then none else some 0 }

/-- Readiness of a matrix command. -/
theorem matrix_ready {s : State} {w : Nat} {rs ws : List Nat}
    (h : (s.admits { word := w, reads := rs, writes := ws, ends := true, once := true } && s.ctx.lift.frames.isEmpty
      && s.me.backlog.isEmpty && decide (s.me.queue.length < 16)) = true) : matrixReady s w rs ws := by
  simp only [Bool.and_eq_true, List.isEmpty_iff, decide_eq_true_eq] at h
  exact ⟨h.1.1.1, h.1.1.2, h.1.2, h.2⟩

theorem test_mmcfg_mmclr_met : ∃ (a c : Nat) (s : State), matrixReady s (wordMmcfg a) [a] [] ∧ cfgBad (s.ctx.sv a) = false ∧ s.me.st = 0 ∧
    matrixReady s (wordMmclr c) [] [] :=
  ⟨1, 15, forMatrix {} {} cfgWord, matrix_ready (by decide +kernel), by decide +kernel, by decide +kernel,
    matrix_ready (by decide +kernel)⟩

theorem test_mmldb_met : ∃ (a i j : Nat) (s : State), matrixReady s (wordMmldb a i j) [a] [] ∧
    mBase s.me.cfg + mK s.me.cfg * mRow s.me.cfg ≤ 262144 ∧ spadRange (s.ctx.sv a) (mK s.me.cfg * mRow s.me.cfg) ∧ matrixIdle s :=
  ⟨1, 7, 1, forMatrix (member 0 []) {} 786368, matrix_ready (by decide +kernel), by decide +kernel, by unfold spadRange; decide +kernel,
    idle (by decide +kernel)⟩

/-- Registers 1 and 2 hold offsets in the B buffer and the window, 3 a count. -/
def forStoreB : State :=
  let s := on fun x => ((x.putS 1 (plain 262080)).putS 2 (plain 4032)).putS 3 (plain 64)
  { s with vfs := [(0, { bootVf with ws := [{ die := 0, base := 0, blocks := 1 }] })] }

theorem test_wsld_b_met : ∃ (x y z w : Nat) (s : State), matrixReady s (wordWsldB x y z w) [x, y, z, w] [] ∧
    (s.ctx.sv z).toNat % 64 = 0 ∧ 64 ≤ (s.ctx.sv z).toNat ∧ (s.ctx.sv z).toNat ≤ 786432 ∧
    (s.ctx.sv x).toNat + (s.ctx.sv z).toNat ≤ 262144 ∧ (s.ctx.sv x).toNat % 64 = 0 ∧
    (s.ctx.sv y).toNat + (s.ctx.sv z).toNat ≤ s.wsWindow.2 ∧ (s.ctx.sv y).toNat % 64 = 0 :=
  ⟨1, 2, 3, 4, forStoreB, matrix_ready (by decide +kernel), by decide +kernel⟩

theorem test_mmzp_met : ∃ (a : Nat) (za zb : List Int) (s : State), matrixReady s (wordMmzp a) [a] [] ∧ (s.ctx.sv a).toNat < 2 ^ 40 ∧
    mMode s.me.cfg ≠ 1 ∧ mMode s.me.cfg < 6 ∧ matrixIdle s ∧
    let rows (o n : Nat) : List Nat := (List.range n).map fun k => o + k * mPz s.me.cfg
    (∀ x ∈ rows ((s.ctx.sv a).toNat % 2 ^ 20) (mM s.me.cfg) ++ rows ((s.ctx.sv a).toNat / 2 ^ 20) (mN s.me.cfg), x < 786432) ∧
    zeroPoints s (mMode s.me.cfg) true (rows ((s.ctx.sv a).toNat % 2 ^ 20) (mM s.me.cfg)) = .ok za ∧
    zeroPoints s (mMode s.me.cfg) false (rows ((s.ctx.sv a).toNat / 2 ^ 20) (mN s.me.cfg)) = .ok zb :=
  ⟨1, _, _, forMatrix (member 0 []) {} 0x4000008, matrix_ready (by decide +kernel), by decide +kernel, by decide +kernel,
    by decide +kernel, idle (by decide +kernel), by decide +kernel, rfl, rfl⟩

theorem test_sacc_met : ∃ (a b r : Nat) (s : State),
    let fits (x : Word) (n : Nat) : Prop := isSpad x = true ∧ x.toNat + ((n - 1) * mPs s.me.cfg + 2) ≤ 786432 ∧ x.toNat % 2 = 0
    matrixReady s (wordSacc a b r) [a, b] [] ∧ s.me.st = 2 ∧ mMode s.me.cfg < 6 ∧ fits (s.ctx.sv a) (mM s.me.cfg) ∧
    fits (s.ctx.sv b) (mN s.me.cfg) ∧ matrixIdle s :=
  ⟨1, 2, 4, forMatrix (member 2 []) { member := some 0, drained := true } 786430, matrix_ready (by decide +kernel), by decide +kernel,
    by decide +kernel, (by decide +kernel), by decide +kernel, idle (by decide +kernel)⟩

theorem test_mmdrn_mmmrg_met : ∃ (d a o m : Nat) (s : State), matrixReady s wordMmdrn [] [] ∧ s.me.st = 1 ∧ mMode s.me.cfg < 6 ∧
    matrixReady s (wordMmmrg d a) [a] [d] ∧ (s.ctx.sv a).toNat = o + m * 256 + s.myDie * 65536 ∧ o < 32 ∧ m < 8 ∧ s.myDie < 8 ∧
    ¬ (s.myDie * 32 + o = octetOf s.cur ∧ m = memberOf s.cur) ∧ inQuads s.myVf (coreOf (s.myDie * 32 + o) m) = true :=
  ⟨9, 1, 31, 7, forMatrix (member 1 []) { member := some 0 } 0x71F, matrix_ready (by decide +kernel), by decide +kernel,
    by decide +kernel, matrix_ready (by decide +kernel), by decide +kernel⟩

theorem test_mmst_met (b : Nat) (h : b = 0 ∨ b = 2) : ∃ (a : Nat) (s : State),
    let p := if b = 0 then 4 * mN s.me.cfg else (s.ctx.sv b).toNat
    matrixReady s (wordMmst a b) (if b = 0 then [a] else [a, b]) [] ∧ p % 8 = 0 ∧ 4 * mN s.me.cfg ≤ p ∧
    spadRange (s.ctx.sv a) ((mM s.me.cfg - 1) * p + 4 * mN s.me.cfg) ∧ matrixIdle s := by
  rcases h with rfl | rfl
  · exact ⟨1, forMatrix { member 0 [] with cfg := cfgWord + 0x10000 } {} 786424, matrix_ready (by decide +kernel), by decide +kernel,
      by decide +kernel, by unfold spadRange; decide +kernel, idle (by decide +kernel)⟩
  · exact ⟨1, (forMatrix (member 0 []) {} 786424).modCtx fun x => x.putS 2 (plain 16), matrix_ready (by decide +kernel), by decide +kernel,
      by decide +kernel, by unfold spadRange; decide +kernel, idle (by decide +kernel)⟩

theorem test_mmsta_met : ∃ (d i : Nat) (s : State), s.admits { word := wordMmsta d i, writes := [d] } = true ∧
    (∀ e ∈ s.me.queue ++ s.me.backlog, s.ctx.sta.getD s.unit.seq ≤ e.seq) ∧ ∀ f, scalarRoom s d 0 f :=
  ⟨9, 1, forMatrix (member 0 []) {} 0, by decide +kernel, by decide +kernel, sroom (by decide +kernel) _ _⟩

theorem test_pass_met (mul : Bool) : ∃ (a b : Nat) (m' : Member) (s : State),
    let i : Instr := if mul then .mmmul a b else .mmcnt a b
    let w := if mul then wordMmmul a b else wordMmcnt a b
    i.wf = true ∧ s.admits { word := w, reads := (passRegs a b).map vCode, ends := true } = true ∧ s.ctx.rep = none ∧
    s.ctx.lift.frames = [] ∧ sourceReady s (1, a) ∧ sourceReady s (2, b) ∧ parityClean s ∧ matrixIdle s ∧ s.me.backlog = [] ∧
    s.me.queue.length < 16 ∧ passCheck s s.me mul s.ctx.hints.lay (instCount s.ctx.lift (passTags s a b)) = .ok m' := by
  cases mul
  · exact ⟨4, 61, _, forMatrix (member 0 []) {} 0, by decide, by decide +kernel, (by decide +kernel), by decide +kernel,
      .inl (by decide), .inr (.inr (.inl rfl)), clean (by decide +kernel), idle (by decide +kernel), by decide +kernel, by decide +kernel, rfl⟩
  · exact ⟨4, 5, _, forMatrix { member 0 [] with cfg := 0x200000016 } {} 0, by decide, by decide +kernel, (by decide +kernel),
      by decide +kernel, .inl (by decide), .inl (by decide), clean (by decide +kernel), idle (by decide +kernel), by decide +kernel,
      by decide +kernel, rfl⟩

/-- A repetition body of two is open at its first or last repetition. -/
def repeating (j : Nat) (m : Option Bool) (ps : List RepPass) : State :=
  (forMatrix (member 0 []) {} 0).modCtx fun x => { x with rep := some ⟨2, 1, j, codeAt 0, ps.length, m, ps⟩ }

theorem test_pass_captured_met (mul : Bool) : ∃ (a b : Nat) (r : Rep) (s : State),
    s.admits { word := if mul then wordMmmul a b else wordMmcnt a b } = true ∧ s.ctx.rep = some r ∧ s.ctx.lift.frames = [] :=
  ⟨4, 5, _, repeating 0 none [], by cases mul <;> decide +kernel, rfl, by decide +kernel⟩

theorem test_rep_met (k : Nat) (h : k = 31 ∨ k = 32) : ∃ (n : Nat) (s : State), (Instr.rep n k).wf = true ∧
    s.admits { word := wordRep n k } = true ∧ s.ctx.rep = none := by
  refine ⟨63, go, ?_⟩
  rcases h with rfl | rfl <;> decide +kernel

theorem test_repend_met (j : Nat) (m : Option Bool) (h : (j = 0 ∧ m = some false) ∨ (j = 1 ∧ m = some false)) :
    ∃ (r : Rep) (s : State), s.ctx.rep = some r ∧ r.j = j ∧ r.matrix = m ∧
    s.admits { word := wordRepend, ends := decide (r.n ≤ r.j + 1) && r.matrix == some true } = true := by
  rcases h with ⟨rfl, rfl⟩ | ⟨rfl, rfl⟩
  · exact ⟨_, repeating 0 (some false) [], rfl, rfl, rfl, by decide +kernel⟩
  · exact ⟨_, repeating 1 (some false) [], rfl, rfl, rfl, by decide +kernel⟩

/-- One pass captured per repetition. -/
def captured (j : Nat) : RepPass := ⟨false, 4, 61, none, none, j, codeAt 0⟩

theorem test_repend_passes_met : ∃ (r : Rep) (s u : State) (m : Member) (cmds : List (RepPass × MCmd)), s.ctx.rep = some r ∧
    s.admits { word := wordRepend, ends := true } = true ∧ r.n ≤ r.j + 1 ∧ r.matrix = some true ∧ s.me.backlog = [] ∧
    repPasses r.step r.passes s s.me = .ok (u, m, cmds) :=
  (found (x := (repPasses 1 [captured 0] (repeating 1 (some true) [captured 0]) (repeating 1 (some true) [captured 0]).me))
    (q := _) (by rfl)).elim fun u h =>
  ⟨_, repeating 1 (some true) [captured 0], u, _, _, rfl, by decide +kernel, by decide, rfl, by decide +kernel, h⟩

/-- A command stands at the head of the queue of member 0. -/
def queued (st : Nat) (c : MCmd) : State :=
  forMatrix (member st [⟨c, {}, 0, none⟩]) (if st = 0 then {} else { member := some 0, drained := st == 2, M := 1, N := 1 }) 0

theorem test_engine_met (c : MCmd) (h : c = .cfg cfgWord ∨ c = .ldb [64] 0 32 ∨ c = .zp [0] [0] ∨ c = .clr 15) :
    ∃ (o m run : Nat) (e : MEntry) (es : List MEntry) (s : State),
    arbitrate s o false (s.octet o).sptr (s.octet o).srun = some (m, run) ∧ ((s.octet o).member m).queue = e :: es ∧
    (∀ d so sm, e.cmd = .mrg d so sm → so = o) ∧ (s.die (o / 32)).pw.state = .run ∧ e.cmd = c := by
  refine ⟨0, 0, 0, ⟨c, {}, 0, none⟩, [], queued 0 c, ?_⟩
  rcases h with rfl | rfl | rfl | rfl <;>
    exact ⟨by decide +kernel, by decide +kernel, fun d so sm e => (nomatch e), by decide +kernel, rfl⟩

theorem test_engine_set_met (c : MCmd) (st : Nat) (h : (st = 1 ∧ c = .drn) ∨ (st = 2 ∧ c = .sacc [0] [0] 0) ∨ (st = 0 ∧ c = .mst 0 8 3)) :
    ∃ (o m run : Nat) (e : MEntry) (es : List MEntry) (s : State),
    arbitrate s o false (s.octet o).sptr (s.octet o).srun = some (m, run) ∧ ((s.octet o).member m).queue = e :: es ∧
    (∀ d so sm, e.cmd = .mrg d so sm → so = o) ∧ (s.die (o / 32)).pw.state = .run ∧ e.cmd = c := by
  refine ⟨0, 0, 0, ⟨c, {}, 0, none⟩, [], queued st c, ?_⟩
  rcases h with ⟨rfl, rfl⟩ | ⟨rfl, rfl⟩ | ⟨rfl, rfl⟩ <;>
    exact ⟨by decide +kernel, by decide +kernel, fun d so sm e => (nomatch e), by decide +kernel, rfl⟩

/-- A load of the B buffer from the weight store stands at the head, its job in the die's table. -/
def storeQueued : State :=
  (queued 0 (.wsldb 0 2 64 64)).modDie 0 fun d =>
    { d with jobs := [⟨2, {}, 0, .bbuf 0 64, .store 128, 64, 1, 64, 64, none, none, true, 0, false, []⟩] }

theorem test_engine_store_met : ∃ (o m run die job off dst : Nat) (e : MEntry) (es : List MEntry) (j : Job) (s : State),
    arbitrate s o false (s.octet o).sptr (s.octet o).srun = some (m, run) ∧ ((s.octet o).member m).queue = e :: es ∧
    (s.die (o / 32)).pw.state = .run ∧ e.cmd = .wsldb die job 64 64 ∧ (s.die die).job job = some j ∧ j.src = .store off ∧
    j.dst = .bbuf o dst :=
  ⟨0, 0, 0, 0, 2, 128, 64, ⟨.wsldb 0 2 64 64, {}, 0, none⟩, [], _, storeQueued, by decide +kernel, by decide +kernel, by decide +kernel, rfl, rfl,
    rfl, rfl⟩

theorem test_engine_pass_met : ∃ (o m run : Nat) (e : MEntry) (es : List MEntry) (s : State),
    arbitrate s o true (s.octet o).cptr (s.octet o).crun = some (m, run) ∧ ((s.octet o).member m).queue = e :: es ∧
    (s.die (o / 32)).pw.state = .run ∧ e.cmd = .pass false cfgWord [(.val 5, .val 0)] 1 0 :=

  ⟨0, 0, 0, ⟨.pass false cfgWord [(.val 5, .val 0)] 1 0, {}, 0, none⟩, [], queued 0 (.pass false cfgWord [(.val 5, .val 0)] 1 0),
    by decide +kernel, by decide +kernel, by decide +kernel, rfl⟩

theorem test_merge_met : ∃ (o m run d so sm : Nat) (own : Owner) (seq : Nat) (rep : Option Nat) (es : List MEntry) (s : State),
    arbitrate s o false (s.octet o).sptr (s.octet o).srun = some (m, run) ∧
    ((s.octet o).member m).queue = ⟨.mrg d so sm, own, seq, rep⟩ :: es ∧ so ≠ o ∧
    (s.die (o / 32)).pw.state = .run :=

  ⟨0, 0, 0, 9, 1, 3, {}, 0, none, [], queued 1 (.mrg 9 1 3), by decide +kernel, by decide +kernel, (by decide), by decide +kernel⟩

theorem test_merge_arrival_met : ∃ (k d o m so dst src c : Nat) (x : Ctx) (set : Option BankSet) (own : Owner) (e : MEntry)
    (es : List MEntry) (s : State), s.flight k = some ⟨0, src, dst, .mergeReq d o m so set own⟩ ∧
    ((s.octet o).member m).moving = true ∧ ((s.octet o).member m).queue = e :: es ∧ (s.die (o / 32)).pw.state ≠ .hold ∧ d ≠ 0 ∧ s.actAt own.act = some (c, x) :=
  ⟨0, 9, 0, 0, 1, 0, 8, 0, _, none, {}, ⟨.mrg 9 1 3, {}, 0, none⟩, [],
    ((queued 1 (.mrg 9 1 3)).modOctet 0 fun o => o.modMember 0 fun m => { m with moving := true }).post
      ⟨0, 8, 0, .mergeReq 9 0 0 1 none {}⟩, by decide +kernel, by decide +kernel, (by decide +kernel), by decide +kernel, by decide, rfl⟩

theorem test_lcall_met : ∃ (o g e : Nat) (target : Word) (s : State), (Instr.lcall o g).wf = true ∧
    s.admits { word := wordLcall o g, ends := true } = true ∧ relative s (immInt s.ctx.hints 18 o) target ∧ fetchable s target ∧
    s.ctx.lift.frames = [] ∧ s.ctx.lift.levels.length < 4 ∧ s.ctx.sp.gauge[g]? = some e ∧ 1 ≤ e ∧ e ≤ 1024 ∧
    extProduct s.ctx.lift.levels * e ≤ 4096 :=
  ⟨4, 3, 1024, codeAt 16, on fun x => { x with sp := { x.sp with gauge := [1, 1, 1, 1024] }, lift := { levels := [⟨4, 0, 0⟩], active := [0, 1, 2, 3] } },
    by decide, by decide +kernel, ⟨by decide +kernel, by decide +kernel, by decide +kernel⟩, ⟨0x10010, by decide +kernel⟩,
    by decide +kernel, by decide +kernel, (by decide +kernel), by decide, by decide, (by decide +kernel)⟩

theorem test_lret_met : ∃ (ls : List Level) (v : Level) (s u : State), s.admits { word := wordLret, ends := true } = true ∧
    s.ctx.lift.levels = ls ++ [v] ∧ s.ctx.lift.frames = [] ∧ u.admits { word := wordLret, ends := true } = true ∧
    u.ctx.lift.levels = [] :=
  ⟨[], ⟨4, 0, 0⟩, lifted 7 [], go, by decide +kernel, by decide +kernel, (by decide +kernel), by decide +kernel, by decide +kernel⟩

theorem test_laxis_met : ∃ (d n r f : Nat) (v : Level) (s : State), s.admits { word := wordLaxis d n, writes := [d] } = true ∧
    s.ctx.lift.levels[n]? = some v ∧ n < 4 ∧ s.admits { word := wordLaxisTag d r f, writes := [d] } = true ∧
    (f = 1 → r < s.ctx.id.nv) :=
  ⟨9, 0, 47, 1, ⟨4, 0, 0⟩, lifted 7 [], by decide +kernel, by decide +kernel, (by decide), by decide +kernel, fun _ => by decide +kernel⟩

theorem test_lidx_met : ∃ (d n : Nat) (s : State), s.admits { word := wordLidx d n, writes := [d] } = true ∧ n < s.ctx.lift.levels.length ∧
    scalarRoom s d (2 ^ n) fun k => BitVec.ofNat 64 (k / 2 ^ (10 * n) % 1024) :=
  ⟨9, 0, lifted 7 [], by decide +kernel, by decide +kernel, .inr (by decide +kernel)⟩

/-- The triangle under one lift level. -/
def liftedMesh : State := (meshed 0).modCtx fun x => { x with lift := { levels := [⟨4, 0, 0⟩], active := [0, 1, 2, 3] } }

theorem test_ltag_met : ∃ (k n : Nat) (s : State), s.admits { word := wordLtag k n, writes := [kCode k] } = true ∧
    n < s.ctx.lift.levels.length ∧ s.ctx.lift.frames = [] ∧ liveReg s k ∧
    kSpan s (s.ctx.kreg k) ((s.core s.cur).cplxOf (s.ctx.kreg k)) ((s.ctx.kreg k).tags ||| 2 ^ n) = .ok () :=
  ⟨1, 0, liftedMesh, by decide +kernel, by decide +kernel, by decide +kernel, ⟨by decide +kernel, by decide +kernel⟩, by decide +kernel⟩

theorem test_lred_met (f : Nat) (h : f = 0 ∨ f = 1 ∨ f = 2) : ∃ (d a o n ty : Nat) (s : State), (Instr.lred d a o n f ty).wf = true ∧
    s.admits { word := wordLred d a o n f ty, reads := [64 * f + a], writes := [64 * f + d] } = true ∧ n < s.ctx.lift.levels.length ∧
    (f = 1 → parityClean s) := by
  rcases h with rfl | rfl | rfl
  · exact ⟨9, 1, 0, 0, 4, lifted 7 [(1, 8)], by decide, by decide +kernel, by decide +kernel, fun h => absurd h (by decide)⟩
  · exact ⟨9, 1, 0, 0, 0, lifted 7 [(1, 8)], by decide, by decide +kernel, by decide +kernel, fun _ => clean (by decide +kernel)⟩
  · exact ⟨3, 1, 3, 0, 0, lifted 7 [(1, 8)], by decide, by decide +kernel, by decide +kernel, fun h => absurd h (by decide)⟩

theorem test_lred_room_met : ∃ (d a o n ty : Nat) (s : State),
    s.admits { word := wordLred d a o n 0 ty, reads := [a], writes := [d] } = true ∧ n < s.ctx.lift.levels.length ∧
    let x := s.ctx
    let tags := x.tagsOf a
    let S := without tags n
    let tree (j : Nat) : FR := treeReduce (lredNode 0 o ty (drm x.sp.fst)) 13
      (alongAxis x.lift tags n (lredIdent 0 o ty) (fun i => x.fileVal 0 a i) j)
    bitOf tags n = true ∧ fileRoom s 0 d S fun j => if j ∈ activeOf x.lift S then (tree j).bits else 0 :=
  ⟨9, 1, 0, 0, 4, lifted 7 [(1, 8)], by decide +kernel, by decide +kernel, by decide +kernel, .inl (by decide +kernel)⟩

theorem test_lsel_lbc_met : ∃ (d a b f n : Nat) (s : State), (Instr.lsel d a b f n).wf = true ∧
    s.admits { word := wordLsel d a b f n, reads := [64 * f + a, b], writes := [64 * f + d] } = true ∧
    (Instr.lbc d a f n).wf = true ∧ s.admits { word := wordLbc d a f n, reads := [64 * f + a], writes := [64 * f + d] } = true ∧
    n < s.ctx.lift.levels.length ∧ (s.ctx.sreg b).tags = 0 ∧ (s.ctx.sv b).toNat < extOf s.ctx.lift n ∧
    fileRoom s f d (without (s.ctx.tagsOf (64 * f + a)) n) (fun j => s.ctx.fileVal f a (setAxis n j (s.ctx.sv b).toNat)) ∧
    fileRoom s f d (s.ctx.tagsOf (64 * f + a) ||| 2 ^ n) (fun j => s.ctx.fileVal f a j) :=
  ⟨9, 1, 2, 0, 0, lifted 7 [(1, 8)], by decide, by decide +kernel, (by decide), by decide +kernel, by decide +kernel, (by decide +kernel),
    by decide +kernel, .inr (by decide +kernel), .inr (by decide +kernel)⟩

theorem test_lift_cochain_met : ∃ (d a n : Nat) (s : State), (Instr.lbc d a 3 n).wf = true ∧
    s.admits { word := wordLbc d a 3 n, reads := [64 * 3 + a], writes := [64 * 3 + d] } = true ∧ n < s.ctx.lift.levels.length ∧
    let l := s.ctx.lift
    let k := s.ctx.kreg d
    let r := s.ctx.kreg a
    let x := (s.core s.cur).cplxOf k
    let T := destTags l (r.tags ||| 2 ^ n) k.tags
    liveReg s a ∧ liveReg s d ∧ r.pushed = false ∧ k.pushed = false ∧ kAgree s [a, d] specSame = .ok () ∧
    kOverlaps l k x T r x = false ∧ kSpan s r x r.tags = .ok () ∧ kSpan s k x T = .ok () ∧ matrixIdle s ∧ unitFree s ∧ fld s.ctx.sp.kmode 0 0 = 0 :=
  ⟨4, 1, 0, liftedMesh, by decide, by decide +kernel, by decide +kernel, ⟨by decide +kernel, by decide +kernel⟩,
    ⟨by decide +kernel, by decide +kernel⟩, by decide +kernel, by decide +kernel, (by decide +kernel), by decide +kernel,
    by decide +kernel, (by decide +kernel), idle (by decide +kernel), by unfold unitFree; decide +kernel, by decide +kernel⟩

/-! ## Witnesses: flows and remote operations -/

/-- The virtual function has peer 3 over Ultra Ethernet and two paths, on a trained port and on one that is not. -/
def peered : Vf :=
  { bootVf with
    peers := [(3, { ue := true, pkg := 5, vf := 1, retry := 3, timeout := 100 })]
    paths := [(0, ⟨0, 7⟩), (1, ⟨1, 9⟩)] }

/-- A flow of core 0. -/
def demoFlow (mode err : Nat) (ops : List FabOpRec) : Flow :=
  { core := 0, vf := 0, peer := 3, ue := true, mode := mode, set := 1, swe := false, sw := 0, err := err, ops := ops, nextOp := 4 }

/-- One operation without packets. -/
def demoOp (n : Nat) : FabOpRec := ⟨n, 1, [], 0, 8, 0, 0, 0, false, none, {}⟩

/-- Die 0 has the given flows and a trained port 0; registers 1 to 3 hold values. -/
def forFabric (fs : Table Flow) (x y z : Word) : State :=
  let s := on fun c => ((c.putS 1 (plain x)).putS 2 (plain y)).putS 3 (plain z)
  let s := s.modDie 0 fun d => { d with flows := fs, port0 := { d.port0 with trained := true } }
  { s with vfs := [(0, peered)] }

theorem test_fopen_met : ∃ (d a b : Nat) (p : Peer) (s : State),
    s.admits { word := wordFopen d a b, reads := [a, b], writes := [d], ends := true, once := true } = true ∧
    let x := (s.ctx.sv a).toNat
    let c := (s.ctx.sv b).toNat
    x < 1024 ∧ c / 2 ^ 16 % 2 ^ 27 = 0 ∧ c / 4 % 64 = 0 ∧ c / 2 ^ 8 % 256 ≠ 0 ∧ c % 4 ≠ 3 ∧
    (∀ p, s.myVf.peer x = some p → c % 4 = 2 → p.ue = true) ∧ c / 2 ^ 44 % 16 = 0 ∧ (∀ v : Word, scalarRoom s d 0 (fun _ => v)) ∧
    tlook (s.die s.myDie).flows 0 = none ∧ s.myVf.peer x = some p ∧
    (∀ i < 8, c / 2 ^ 8 % 256 / 2 ^ i % 2 = 1 → pathOk s s.myVf p.ue i = true) :=
  ⟨9, 1, 2, { ue := true, pkg := 5, vf := 1, retry := 3, timeout := 100 }, forFabric [] 3 0x102 0, by decide +kernel, by decide +kernel,
    (by decide +kernel), by decide +kernel, by decide +kernel, (by decide +kernel), fun p e _ => by cases e; rfl, by decide +kernel,
    fun _ => sroom (by decide +kernel) _ _ _, by decide +kernel, by decide +kernel, by decide +kernel⟩

theorem test_fopen_other_met : ∃ (a b : Nat) (p : Peer) (s u : State),
    s.admits { word := wordFopen 9 a b, reads := [a, b], writes := [9], ends := true, once := true } = true ∧
    s.myVf.peer (s.ctx.sv a).toNat = none ∧
    u.admits { word := wordFopen 9 a b, reads := [a, b], writes := [9], ends := true, once := true } = true ∧
    u.myVf.peer (u.ctx.sv a).toNat = some p ∧
    ∃ i < 8, (u.ctx.sv b).toNat / 2 ^ 8 % 256 / 2 ^ i % 2 = 1 ∧ pathOk u u.myVf p.ue i = false :=
  ⟨1, 2, { ue := true, pkg := 5, vf := 1, retry := 3, timeout := 100 }, forFabric [] 4 0x102 0, forFabric [] 3 0x302 0,
    by decide +kernel, by decide +kernel, (by decide +kernel), by decide +kernel, 1, by decide, by decide +kernel, by decide +kernel⟩

theorem test_fpath_met (c : Word) (h : c = 1 ∨ c = 0 ∨ c = 256 ∨ c = 3) : ∃ (a b die n : Nat) (f : Flow) (s : State),
    s.admits { word := wordFpath a b, reads := [a, b], ends := true, once := true } = true ∧ flowNamed s (s.ctx.sv a) die n f ∧
    s.ctx.sv b = c := by
  refine ⟨1, 2, 0, 1023, demoFlow 1 0 [], forFabric [(1023, demoFlow 1 0 [])] 1023 c 0, ?_⟩
  rcases h with rfl | rfl | rfl | rfl <;>
    exact ⟨by decide +kernel, ⟨by decide, by decide, (by decide +kernel), by decide +kernel, rfl⟩, by decide +kernel⟩

theorem test_fclose_met (ops : List FabOpRec) (h : ops = [] ∨ ops = [demoOp 2]) : ∃ (a die n : Nat) (f : Flow) (s : State),
    s.admits { word := wordFclose a, reads := [a], ends := true, once := true } = true ∧ flowNamed s (s.ctx.sv a) die n f ∧ f.ops = ops := by
  refine ⟨1, 0, 0, demoFlow 1 0 ops, forFabric [(0, demoFlow 1 0 ops)] 0 0 0, ?_⟩
  rcases h with rfl | rfl <;>
    exact ⟨by decide +kernel, ⟨by decide, by decide, (by decide +kernel), by decide +kernel, rfl⟩, rfl⟩

/-- An instruction that names a flow by register 1, with a handle of bits that name none, of a flow that is not open, of another core's
flow, of a flow in error. -/
theorem test_handles_met (i : Instr) (h : i = .fpath 1 2 ∨ i = .fclose 1 ∨ i = .fstat 9 1 0 ∨ i = .fwait 1 ∨ i = .rget 1 3 2 0 ∨
    i = .rput 1 3 2 0 ∨ i = .rputSw 1 2 0 ∨ i = .ramo 1 3 2 0) : ∃ (a : Nat) (ins : Ins) (e : Bool) (f g : Flow) (s t u : State),
    onFlow i = some (a, ins, e) ∧ i.wf = true ∧
    (s.admits ins = true ∧ s.ctx.tagUnion ins.reads = 0 ∧
      (s.ctx.sv a).toNat % 2 ^ 10 + (s.ctx.sv a).toNat / 2 ^ 16 % 8 * 2 ^ 16 ≠ (s.ctx.sv a).toNat) ∧
    (t.admits ins = true ∧ t.ctx.tagUnion ins.reads = 0 ∧ t.ctx.sv a = BitVec.ofNat 64 (5 + 0 * 2 ^ 16) ∧
      tlook (t.die 0).flows 5 = some f ∧ f.core ≠ t.cur ∧ tlook (t.die 0).flows 6 = none) ∧
    (u.admits ins = true ∧ u.ctx.tagUnion ins.reads = 0 ∧ u.ctx.sv a = BitVec.ofNat 64 (5 + 0 * 2 ^ 16) ∧
      tlook (u.die 0).flows 5 = some g ∧ g.core = u.cur ∧ g.err ≠ 0) := by
  rcases h with rfl | rfl | rfl | rfl | rfl | rfl | rfl | rfl <;>
    exact ⟨1, _, _, { demoFlow 1 0 [] with core := 9 }, demoFlow 1 6 [], forFabric [] 0x400 0 0,
      forFabric [(5, { demoFlow 1 0 [] with core := 9 })] 5 0 0, forFabric [(5, demoFlow 1 6 [])] 5 0 0, rfl, by decide,
      by decide +kernel, (by decide +kernel), by decide +kernel⟩

theorem test_handle_closed_met (i : Instr) (h : i = .fpath 1 2 ∨ i = .fclose 1 ∨ i = .fstat 9 1 0 ∨ i = .fwait 1 ∨ i = .rget 1 3 2 0 ∨
    i = .rput 1 3 2 0 ∨ i = .rputSw 1 2 0 ∨ i = .ramo 1 3 2 0) : ∃ (a : Nat) (ins : Ins) (e : Bool) (s : State),
    onFlow i = some (a, ins, e) ∧ i.wf = true ∧ s.admits ins = true ∧ s.ctx.tagUnion ins.reads = 0 ∧
    s.ctx.sv a = BitVec.ofNat 64 (5 + 0 * 2 ^ 16) ∧ tlook (s.die 0).flows 5 = none := by
  rcases h with rfl | rfl | rfl | rfl | rfl | rfl | rfl | rfl <;>
    exact ⟨1, _, _, forFabric [] 5 0 0, rfl, by decide, by decide +kernel⟩

theorem test_fstat_met (i : Nat) (h : i = 0 ∨ i = 1 ∨ i = 16) : ∃ (d a die n : Nat) (f : Flow) (s : State), (Instr.fstat d a i).wf = true ∧
    s.admits { word := wordFstat d a i, reads := [a], writes := [d], once := true } = true ∧ flowNamed s (s.ctx.sv a) die n f ∧
    (s.vf f.vf).path 0 = some ⟨0, 7⟩ ∧ ∀ v, scalarRoom s d 0 v := by
  refine ⟨9, 1, 0, 0, demoFlow 1 3 [demoOp 2], forFabric [(0, demoFlow 1 3 [demoOp 2])] 0 0 0, ?_⟩
  rcases h with rfl | rfl | rfl <;>
    exact ⟨by decide, by decide +kernel, ⟨by decide, by decide, (by decide +kernel), by decide +kernel, rfl⟩, by decide +kernel,
      sroom (by decide +kernel) _ _⟩

theorem test_fwait_met (f : Flow) (h : f = demoFlow 1 3 [] ∨ f = demoFlow 1 0 [demoOp 4] ∨ f = demoFlow 1 0 [demoOp 3]) :
    ∃ (a die n : Nat) (s : State), s.admits { word := wordFwait a, reads := [a], once := true } = true ∧
    flowNamed s (s.ctx.sv a) die n f ∧ s.ctx.sta.getD f.nextOp = 4 := by
  refine ⟨1, 0, 0, forFabric [(0, f)] 0 0 0, ?_⟩
  rcases h with rfl | rfl | rfl <;>
    exact ⟨by decide +kernel, ⟨by decide, by decide, (by decide +kernel), by decide +kernel, rfl⟩, by decide +kernel⟩

/-- Register 1 holds a flow, register 2 an address near the top of the scratchpad, register 3 a descriptor of 8 bytes. -/
def forRemote (ue credit : Bool) : State :=
  forFabric [(0, { demoFlow 1 0 [] with ue := ue, noCredit := !credit })] 0 786416 0x7000000000010

theorem test_remote_met (ue credit : Bool) : ∃ (h die n off win m : Nat) (f : Flow) (y a p o : Nat) (s : State),
    flowNamed s (s.ctx.sv h) die n f ∧ f.err = 0 ∧ flowRoom f ∧ matrixIdle s ∧ remoteIs (s.ctx.sv y) off win m ∧
    s.admits { word := wordRget h a y p, reads := [h, a, y], ends := true } = true ∧ s.ctx.tagUnion [h, a, y] = 0 ∧
    spadRange (s.ctx.sv a) m ∧ off % 8 = 0 ∧ m % 8 = 0 ∧ pinFits f p ∧ p = 8 ∧
    s.admits { word := wordRput h a y p, reads := [h, a, y], ends := true } = true ∧ s.ctx.held = none ∧
    s.admits { word := wordRputSw h y p, reads := [h, y], ends := true, once := true } = true ∧ off % 16 = 0 ∧ f.mode ≠ 2 ∧
    s.admits { word := wordRamo h a y o, reads := [h, a, y], ends := true } = true ∧ (s.ctx.sv a).toNat + 16 ≤ 786432 ∧
    (s.ctx.sv a).toNat % 16 = 0 ∧ m = 8 ∧ f.ue = ue ∧ f.noCredit = !credit := by
  refine ⟨1, 0, 0, 16, 0, 8, { demoFlow 1 0 [] with ue := ue, noCredit := !credit }, 3, 2, 8, 9, forRemote ue credit, ?_⟩
  cases ue <;> cases credit <;> exact
  ⟨⟨by decide, by decide, by decide +kernel, rfl, rfl⟩, rfl,
    by unfold flowRoom; decide, idle (by decide +kernel), by unfold remoteIs; decide +kernel, by decide +kernel, by decide +kernel,
    by unfold spadRange; decide +kernel, rfl, rfl, by unfold pinFits; decide, rfl, by decide +kernel, by decide +kernel,
    by decide +kernel, rfl, by decide, by decide +kernel, (by decide +kernel), by decide +kernel, rfl, rfl, rfl⟩

/-! ## Witnesses: parked activations, invalidation, pre-emption, seams -/

/-- Context 1 of core 0 holds an activation parked as number 9; register 1 holds a reference. -/
def parkedCtx1 (num : Nat) : Ctx :=
  { status := .parked, id := { act := 3, nv := 48, node := some 4, launch := some 7 }, pc := codeAt 8, region := { entry := codeAt 0 },
    park := { num := num } }

/-- The same, with another activation saved as number 10. -/
def forPark (ref f : Word) : State :=
  let l : Launch := { vf := 0, obj := 0, status := 0, die := 0, nodes := [], nslice := 1 }
  let s := on fun x => (x.putS 1 (plain ref)).putS 2 (plain f)
  let s := (s.setCtxAt 0 1 (parkedCtx1 9)).modCore 0 fun k => { k with savedParks := [parkedCtx1 10] }
  { s with launches := [(7, l)] }

theorem test_frec_met (i : Nat) (h : i = 0 ∨ i = 3 ∨ i = 4 ∨ i = 5 ∨ i = 32 ∨ i = 63 ∨ i = 6 ∨ i = 31) : ∃ (d a num : Nat) (p : ParkAt × Ctx)
    (s : State), s.admits { word := wordFrec d a i, reads := [a], writes := [d], once := true } = true ∧ parkNamed (s.ctx.sv a) num ∧
    s.findPark s.cur num = some p ∧ ∀ v, scalarRoom s d 0 v := by
  refine ⟨9, 1, 9, (.ctx 1, parkedCtx1 9), forPark 0x90001 0, ?_⟩
  unfold parkNamed
  rcases h with rfl | rfl | rfl | rfl | rfl | rfl | rfl | rfl <;>
    exact ⟨by decide +kernel, by decide +kernel, by decide +kernel, sroom (by decide +kernel) _ _⟩

theorem test_frec_none_met : ∃ (d a i num : Nat) (s : State),
    s.admits { word := wordFrec d a i, reads := [a], writes := [d], once := true } = true ∧ parkNamed (s.ctx.sv a) num ∧
    s.findPark s.cur num = none ∧ i < 6 :=
  ⟨9, 1, 5, 8, forPark 0x80001 0, by decide +kernel, by unfold parkNamed; decide +kernel, by decide +kernel, by decide⟩

theorem test_park_bounds_met (i : Instr) (h : i = .frec 9 1 5 ∨ i = .fres 9 1 2 ∨ i = .fabt 9 1) : ∃ (a : Nat) (ins : Ins) (s : State),
    onPark i = some (a, ins) ∧ s.admits ins = true ∧ ∀ num, ¬ parkNamed (s.ctx.sv a) num := by
  have n : ∀ num, ¬ parkNamed ((forPark 0x90010 0).ctx.sv 1) num := fun num h => by
    have e : (forPark 0x90010 0).ctx.sv 1 = 0x90010 := by decide +kernel
    exact absurd h.2.1 (by rw [e]; decide)
  rcases h with rfl | rfl | rfl <;> exact ⟨1, _, forPark 0x90010 0, rfl, by decide +kernel, n⟩

theorem test_fres_flag_met : ∃ (d a f num : Nat) (s : State),
    s.admits { word := wordFres d a f, reads := [a, f], writes := [d], ends := true, once := true } = true ∧ parkNamed (s.ctx.sv a) num ∧
    2 ≤ (s.ctx.sv f).toNat :=
  ⟨9, 1, 2, 9, forPark 0x90001 2, by decide +kernel, by unfold parkNamed; decide +kernel, by decide +kernel⟩

/-- A scalar register of a state without lift levels is flat. -/
theorem sflat {s : State} (h : s.ctx.lift.levels = []) (d : Nat) : scalarFlat s d := fun v =>
  instRegs_flat h (by unfold Ctx.putS; split; exacts [rfl, (noteTags_keeps ..).1])
    (by unfold Ctx.putS; split; exacts [rfl, (noteTags_keeps ..).2])

/-- A context pre-empted while it was parked as number 11. -/
def forAway (ref f : Word) : State := (forPark ref f).modCore 0 fun k => { k with savedCtxs := [(2, parkedCtx1 11)] }

theorem test_fres_fabt_met (p : ParkAt) (h : p = .ctx 1 ∨ p = .saved 0 ∨ p = .away 0) : ∃ (d a f num : Nat) (y : Ctx) (l : Launch) (s : State),
    s.admits { word := wordFres d a f, reads := [a, f], writes := [d], ends := true, once := true } = true ∧
    s.admits { word := wordFabt d a, reads := [a], writes := [d], ends := true, once := true } = true ∧
    parkNamed (s.ctx.sv a) num ∧ (s.ctx.sv f).toNat < 2 ∧ scalarFlat s d ∧ s.findPark s.cur num = some (p, y) ∧
    (∀ i, p = .ctx i → i ≠ s.curCtx) ∧ y.id.node = some 4 ∧ y.id.launch = some 7 ∧ tlook s.launches 7 = some l ∧ l.status = 0 := by
  rcases h with rfl | rfl | rfl
  · exact ⟨9, 1, 2, 9, parkedCtx1 9, _, forPark 0x90001 1, by decide +kernel, by decide +kernel, by unfold parkNamed; decide +kernel,
      by decide +kernel, sflat (by decide +kernel) _, by decide +kernel, fun i e => by cases e; decide +kernel, rfl, rfl, rfl, rfl⟩
  · exact ⟨9, 1, 2, 10, parkedCtx1 10, _, forPark 0xA0001 0, by decide +kernel, by decide +kernel, by unfold parkNamed; decide +kernel,
      by decide +kernel, sflat (by decide +kernel) _, by decide +kernel, fun i e => (nomatch e), rfl, rfl, rfl, rfl⟩
  · exact ⟨9, 1, 2, 11, parkedCtx1 11, _, forAway 0xB0001 1, by decide +kernel, by decide +kernel, by unfold parkNamed; decide +kernel,
      by decide +kernel, sflat (by decide +kernel) _, by decide +kernel, fun i e => (nomatch e), rfl, rfl, rfl, rfl⟩

theorem test_fres_none_met : ∃ (d a f num : Nat) (s : State),
    s.admits { word := wordFres d a f, reads := [a, f], writes := [d], ends := true, once := true } = true ∧
    parkNamed (s.ctx.sv a) num ∧ (s.ctx.sv f).toNat < 2 ∧ scalarFlat s d ∧ s.findPark s.cur num = none :=
  ⟨9, 1, 2, 8, forPark 0x80001 1, by decide +kernel, by unfold parkNamed; decide +kernel, by decide +kernel, sflat (by decide +kernel) _,
    by decide +kernel⟩

/-- Registers 1 to 3 hold a mask, an address and a length; the confirmations due may be given. -/
def forInval (m : Word) (h : Option Held) : State :=
  on fun x => { (((x.putS 1 (plain m)).putS 2 (plain 0xFFFFFFFFF0000)).putS 3 (plain 0x10000)) with held := h }

theorem test_inval_met (ic : Bool) (m : Word) (h : m = 255 ∨ m = 256) : ∃ (x a b : Nat) (s : State),
    s.admits { word := if ic then wordIcinv x a b else wordTlbinv x a b, reads := [x, a, b], once := true } = true ∧ s.ctx.held = none ∧
    (s.ctx.sv a).toNat < 2 ^ 52 ∧ (s.ctx.sv a).toNat + (s.ctx.sv b).toNat ≤ 2 ^ 52 ∧ s.ctx.sv x = m := by
  refine ⟨1, 2, 3, forInval m none, ?_⟩
  cases ic <;> rcases h with rfl | rfl <;> decide +kernel

theorem test_inval_range_met (ic : Bool) (b : Word) (h : b = 0x10000 ∨ b = 0) : ∃ (x a c : Nat) (s : State),
    s.admits { word := if ic then wordIcinv x a c else wordTlbinv x a c, reads := [x, a, c], once := true } = true ∧ s.ctx.held = none ∧
    (2 ^ 52 ≤ (s.ctx.sv a).toNat ∨ 2 ^ 52 < (s.ctx.sv a).toNat + (s.ctx.sv c).toNat) ∧ (s.ctx.sv a).toNat % 2 ^ 52 = (s.ctx.sv c).toNat := by
  refine ⟨1, 2, 3, (forInval 0 none).modCtx fun x => (x.putS 2 (plain (0x10000000000000 + b))).putS 3 (plain b), ?_⟩
  cases ic <;> rcases h with rfl | rfl <;> decide +kernel

theorem test_inval_held_met (ic : Bool) (n : Nat) (h : n = 0 ∨ n = 1) : ∃ (x a b : Nat) (s : State) (g : Held),
    s.admits { word := if ic then wordIcinv x a b else wordTlbinv x a b, reads := [x, a, b], once := true } = true ∧
    s.ctx.held = some g ∧ g.due = n := by
  refine ⟨1, 2, 3, forInval 0 (some ⟨5, n, [], false, 0, 0, false, [], none⟩), ⟨5, n, [], false, 0, 0, false, [], none⟩, ?_⟩
  cases ic <;> rcases h with rfl | rfl <;> decide +kernel

/-- One item of traffic. -/
def flying (b : Body) (src dst : Nat) : State := go.post ⟨0, src, dst, b⟩

theorem test_inval_arrival_met (ic : Bool) (since : Option Nat) (h : since = none ∨ since = some 0) :
    ∃ (k ch src die vf lo hi id : Nat) (own : Owner) (s : State),
    s.flight k = some ⟨ch, src, schedNode die, .inval ic vf lo hi own id since⟩ ∧ ∀ n, since = some n → olderAccess s die vf n = false := by
  refine ⟨0, 0, 0, 0, 0, 0, 64, 5, {}, flying (.inval ic 0 0 64 {} 5 since) 0 (schedNode 0), ?_⟩
  rcases h with rfl | rfl
  · exact ⟨by cases ic <;> decide +kernel, fun n e => by cases e⟩
  · exact ⟨by cases ic <;> decide +kernel, fun n e => by cases e; cases ic <;> decide +kernel⟩

theorem test_inval_older_met : ∃ (k ch src die vf lo hi id n : Nat) (own : Owner) (s : State),
    s.flight k = some ⟨ch, src, schedNode die, .inval false vf lo hi own id (some n)⟩ ∧ olderAccess s die vf n = true :=
  ⟨0, 0, 0, 0, 0, 0, 64, 5, 9, {}, { flying (.inval false 0 0 64 {} 5 (some 9)) 0 (schedNode 0) with
    writes := [(5, { own := {}, home := memNode 0, lines := [] })] }, by decide +kernel, by decide +kernel⟩

theorem test_preempt_context_met (now b : Bool) : ∃ (c i : Nat) (s : State), (s.ctxAt c i).status = .running ∧
    (if now then (s.ctxAt c i).interruptible else (s.ctxAt c i).atBoundary) = b := by
  refine ⟨0, 0, if b then go else on fun x => { x with hints := { flag := true }, rel := some ⟨true, 1⟩ }, ?_⟩
  cases now <;> cases b <;> decide +kernel

theorem test_preempt_parked_met : ∃ (c i : Nat) (s : State), (s.ctxAt c i).status = .parked := ⟨0, 1, forPark 0 0, by decide +kernel⟩

/-- Core 0 with an activation in context 0, one parked in context 1, one saved before. -/
def forCore (b : Bool) : State :=
  if b then forAway 0 0 else (forAway 0 0).modCtx fun x => { x with hints := { flag := true }, rel := some ⟨true, 1⟩ }

theorem test_preempt_core_met (now b : Bool) : ∃ (c : Nat) (s : State), (s.core c).preempted = false ∧
    decide ((∀ e ∈ (s.core c).ctxs, e.2.status ≠ .running ∨ (if now then e.2.interruptible else e.2.atBoundary) = true) ∧
      (s.core c).q.ropq = [] ∧ (s.memberAt c).queue = [] ∧ (s.memberAt c).backlog = []) = b ∧
    (s.core c).savedCtxs ≠ [] ∧ (s.core c).ctxs ≠ [] :=
  ⟨0, forCore b, by cases now <;> cases b <;> decide +kernel⟩

/-- Core 0 pre-empted as a whole, its context saved. -/
def saved : State := go.modCore 0 fun k => { k with preempted := true, ctxs := [], savedCtxs := k.ctxs ++ [(10, parkedCtx1 9)] }

theorem test_restore_met : ∃ (c i j : Nat) (y : Ctx) (s u : State),
    findIdx (fun (e : Nat × Ctx) => e.1 == i) (s.core c).savedCtxs 0 = some (j, i, y) ∧ (s.core c).preempted = false ∧
    (s.ctxAt c i).status = .free ∧ y.id.nv + y.instRegs ≤ s.poolFree c ∧ (u.core c).preempted = true ∧ u.isRunning c = true :=
  ⟨0, 0, 0, go.ctx, saved.modCore 0 fun k => { k with preempted := false }, saved, by decide +kernel, by decide +kernel, (by decide +kernel),
    by decide +kernel, by decide +kernel, (by decide +kernel)⟩

theorem test_restore_parked_met : ∃ (c i j : Nat) (y : Ctx) (s : State),
    findIdx (fun (e : Nat × Ctx) => e.1 == i) (s.core c).savedCtxs 0 = some (j, i, y) ∧ (s.core c).preempted = false ∧
    (s.ctxAt c i).status = .free ∧ y.id.nv + y.instRegs ≤ s.poolFree c ∧ y.status = .parked :=
  ⟨0, 2, 0, parkedCtx1 11, forAway 0 0, by decide +kernel, by decide +kernel, (by decide +kernel), by decide +kernel, rfl⟩

theorem test_migration_met : ∃ (c dst v : Nat) (s : State), c ≠ dst ∧ (s.core c).preempted = true ∧ (∀ f ∈ (s.core c).fifos, f.2 = []) ∧
    (s.memberAt c).set = none ∧ (s.memberAt c).st = 0 ∧ (∀ d ∈ s.dies, ∀ f ∈ d.2.flows, f.2.core = c → f.2.ops = []) ∧
    (s.core dst).idle = true ∧ s.nodesOn dst = [] ∧ (∃ f, (v, f) ∈ s.vfs ∧ inQuads f c = true ∧ inQuads f dst = true) ∧
    s.isRunning dst = true ∧ (s.memberAt dst).set = none ∧ (s.memberAt dst).queue = [] :=
  ⟨0, 255, 0, saved, by decide, by decide +kernel, (by decide +kernel), by decide +kernel, by decide +kernel, (by decide +kernel),
    by decide +kernel, by decide +kernel, ⟨bootVf, by decide +kernel, by decide +kernel, by decide +kernel⟩, by decide +kernel,
    by decide +kernel, by decide +kernel⟩

theorem test_park_save_met : ∃ (c i : Nat) (x : Ctx) (s : State),
    ((s.core c).ctxs.filter fun e => e.2.status == .parked).length = 8 ∧ (∃ m ∈ (s.core c).q.mailbox, m.type = 254) ∧
    oldestPark (s.core c).parkCount ((s.core c).ctxs.filter fun e => e.2.status == .parked) = some (i, x) :=
  ⟨0, 7, parkedCtx1 65535, go.modCore 0 fun k => { k with
    ctxs := (List.range 8).map fun i => (i, parkedCtx1 (if i = 7 then 65535 else i + 1)), parkCount := 8,
    q := { k.q with mailbox := [{ type := 254 }] } }, by decide +kernel, ⟨{ type := 254 }, by decide +kernel, rfl⟩, by decide +kernel⟩

theorem test_stall_met : ∃ (c i d : Nat) (s : State), (s.ctxAt c i).stall ≠ 0 ∧ s.isRunning c = true ∧ (s.ctxAt d i).stall ≠ 0 ∧
    s.isRunning d = false :=
  ⟨0, 0, 256, ((on fun x => { x with stall := 255 }).modCore 256 fun k => { k with inReset := true }).setCtxAt 256 0 { stall := 2 }, by decide +kernel, by decide +kernel, (by decide +kernel),
    by decide +kernel⟩

theorem test_copy_record_met : ∃ (k ch src c sl wid : Nat) (r : CopyRec) (own : Owner) (s : State),
    s.flight k = some ⟨ch, src, c, .copyRec r sl own wid⟩ ∧ s.isRunning c = true ∧
    ((s.core c).seam.recs.filter fun e => e.slot == r.slot).length < 8192 ∧ (s.core c).preempted = false :=
  ⟨0, 0, 1, 0, 0, 5, ⟨0, 8, 0, 0, 0⟩, { core := 1 }, flying (.copyRec ⟨0, 8, 0, 0, 0⟩ 0 { core := 1 } 5) 1 0, by decide +kernel,
    by decide +kernel, (by decide +kernel), by decide +kernel⟩

theorem test_withdraw_met : ∃ (k ch src c slot holder wid : Nat) (own : Owner) (s : State),
    s.flight k = some ⟨ch, src, c, .withdraw slot holder own wid⟩ ∧ (s.core c).preempted = false :=
  ⟨0, 0, 1, 0, 0, 8, 5, { core := 1 }, flying (.withdraw 0 8 { core := 1 } 5) 1 0, by decide +kernel, by decide +kernel⟩

/-- A row of a push from slice 8 to slice 0, for register k1. -/
def row : SeamRow :=
  { src := 8, dst := 0, slot := 0, reg := 1, kind := 0, deg := 0, fmt := 1, chm := 0, E := 0, inst := 0, tags := 0, exts := [1, 1, 1, 1]
    ord := 0, vals := [7], own := { core := 1 }, wid := 5 }

/-- The node placed on core 0 has slice 0 of the launch the row belongs to. -/
def sliced (s : State) : State :=
  let n : Node := { demoNode .running 0 with core := 0 }
  s.modDie 0 fun d => { d with nodes := [(4, n)] }

/-- The same row, pushed for launch 7. -/
def row7 : SeamRow := { row with own := { core := 1, launch := some 7 } }

theorem test_seam_send_met : ∃ (c i d : Nat) (r : SeamRow) (s : State), s.isRunning c = true ∧
    findIdx (fun (r : SeamRow) => (s.coreOfSlice r.own.launch r.dst).isSome) (s.core c).seam.out 0 = some (i, r) ∧
    s.coreOfSlice r.own.launch r.dst = some d :=
  ⟨1, 0, 0, row7, (sliced go).modCore 1 fun k => { k with seam := { k.seam with out := [row7] } }, by decide +kernel, by decide +kernel,
    by decide +kernel⟩

theorem test_seam_resend_met : ∃ (c d : Nat) (r : SeamRow) (rest : List SeamRow) (s : State), s.isRunning c = true ∧
    (s.core c).seam.resend = r :: rest ∧ s.coreOfSlice r.own.launch r.dst = some d :=
  ⟨1, 0, row7, [], (sliced go).modCore 1 fun k => { k with seam := { k.seam with resend := [row7] } }, by decide +kernel, by decide +kernel,
    by decide +kernel⟩

/-- Core 0 holds a triangle with one ghost vertex, k1 expects its row. -/
def ghosted : State :=
  let x : Cplx := { triangle 1 with own := [2, 3, 1, 0], gh := [1, 0, 0, 0], owners := [(8, 0)] }
  ((forCochain { ctr := 1, cur := some x } 0 []).modCtx fun x => x.putK 1 ((x.kreg 1).push 0 1 0 [])).post ⟨4, 1, 0, .seam row⟩

theorem test_seam_arrival_met : ∃ (k ch src c i : Nat) (r : SeamRow) (x : Ctx) (s : State),
    s.flight k = some ⟨ch, src, c, .seam r⟩ ∧ s.isRunning c = true ∧ (s.core c).preempted = false ∧
    findIdx (fun (g : SeamGone) => g.slice == r.dst && g.slot == r.slot && g.reg == r.reg && g.kind == r.kind)
      (s.core c).seam.gone 0 = none ∧ (s.core c).ctxs.find? (fun e => seamMatches (s.core c) r e.2) = some (i, x) ∧
    seamAgrees r x.lift (x.kreg r.reg) = true ∧ r.kind = 0 ∧ (x.kreg r.reg).count = 1 :=
  ⟨0, 4, 1, 0, 0, row, ghosted.ctx, ghosted, by decide +kernel, by decide +kernel, (by decide +kernel), by decide +kernel, by decide +kernel, (by decide +kernel),
    rfl, by decide +kernel⟩

/-- The context of that core, its region just begun. -/
def ghostCtx : Ctx := { ghosted.ctx with region := { entry := ghosted.ctx.pc } }

/-- The same core with an early arrival for the context, which is saved, the core as a whole or not. -/
def ghostAway (whole : Bool) : State :=
  ghosted.modCore 0 fun k =>
    { k with ctxs := [], savedCtxs := [(0, ghostCtx)], preempted := whole, seam := { k.seam with early := [row] } }

theorem test_restore_early_met (whole : Bool) : ∃ (c i j : Nat) (y : Ctx) (r : SeamRow) (s : State),
    findIdx (fun (e : Nat × Ctx) => e.1 == i) (s.core c).savedCtxs 0 = some (j, i, y) ∧ (s.core c).preempted = whole ∧
    (s.ctxAt c i).status = .free ∧ y.id.nv + y.instRegs ≤ s.poolFree c ∧ s.isRunning c = true ∧ (s.core c).savedCtxs = [(i, y)] ∧ i < 8 ∧
    earlyFor s c (comeBack y) r ∧ (∀ e ∈ (s.core c).ctxs, seamMatches (s.core c) r e.2 = false) := by
  refine ⟨0, 0, 0, ghostCtx, row, ghostAway whole, ?_⟩
  cases whole <;> exact ⟨by decide +kernel, by decide +kernel, by decide +kernel, by decide +kernel, by decide +kernel, by decide +kernel,
    by decide, by unfold earlyFor; decide +kernel, by decide +kernel⟩

theorem test_resume_early_met : ∃ (c i j : Nat) (x : Ctx) (r : SeamRow) (s : State), s.isRunning c = true ∧ (s.core c).preempted = false ∧
    findIdx (fun (y : Ctx) => y.park.resume) (s.core c).savedParks 0 = some (i, x) ∧
    (List.range 8).find? (fun j => s.fits c j x.id.launch (x.id.nv + x.instRegs)) = some j ∧
    (let y : Ctx := { x.tinkBack with status := .running, park := { x.park with resume := false, saved := false } }
     earlyFor s c y r) ∧ (∀ e ∈ (s.core c).ctxs, seamMatches (s.core c) r e.2 = false) :=
  let x : Ctx := { ghostCtx with status := .parked, park := { num := 10, resume := true, saved := true } }
  ⟨0, 0, 0, x, row, (ghostAway false).modCore 0 fun k => { k with savedCtxs := [], savedParks := [x] }, by decide +kernel, by decide +kernel,
    (by decide +kernel), by decide +kernel, by unfold earlyFor; decide +kernel, by decide +kernel⟩

/-- R315: a row that came early lands when the context it is for is restored. -/
theorem test_restore_lands_early :
    (match exec (.contextRestore 0 (some 0)) (ghostAway false) with
      | .next t => (t.core 0).seam.early == [] && ((t.ctxAt 0 0).kreg 1).count == 0 && fld ((t.ctxAt 0 0).kreg 1).w0 43 42 == 2
      | _ => false) = true := by decide +kernel

theorem test_seam_early_met (n : Nat) (h : n = 31 ∨ n = 32) : ∃ (k ch src c : Nat) (r : SeamRow) (s : State), s.flight k = some ⟨ch, src, c, .seam r⟩ ∧
    s.isRunning c = true ∧ (s.core c).preempted = false ∧ (s.core c).seam.gone = [] ∧
    (s.core c).ctxs.find? (fun e => seamMatches (s.core c) r e.2) = none ∧ (s.core c).seam.early.length = n := by
  refine ⟨0, 0, 1, 0, row, (flying (.seam row) 1 0).modCore 0 fun k => { k with seam := { k.seam with early := List.replicate n row } }, ?_⟩
  rcases h with rfl | rfl <;> decide +kernel

theorem test_seam_down_met : ∃ (k ch src c : Nat) (r : SeamRow) (s : State), s.flight k = some ⟨ch, src, c, .seam r⟩ ∧
    s.isRunning c = false :=
  ⟨0, 0, 1, 256, row, (flying (.seam row) 1 256).modCore 256 fun k => { k with inReset := true }, by decide +kernel, by decide +kernel⟩

theorem test_seam_timeout_met : ∃ (c i k : Nat) (s : State), s.isRunning c = true ∧ (s.ctxAt c i).wait = .seam k ∧ (s.ctxAt c i).status = .running ∧
    (s.ctxAt c i).sp.kmode.toNat / 2 ^ 8 % 2 ^ 24 ≠ 0 :=
  ⟨0, 0, 1, on fun x => { x with wait := .seam 1 }, by decide +kernel, by decide +kernel, by decide +kernel, by decide +kernel⟩

/-! ## Witnesses: messages and remote operations on their way -/

/-- Core 1 has queues q. -/
def at1 (q : Queues) : State := go.modCore 1 fun k => { k with q := q }

/-- An ordinary message of core 0 to core 1. -/
def demoMsg (t : Nat) : Msg := { type := t, words := [5, 6], dst := 1 }

/-- A message on its way to core 1. -/
def coming (q : Queues) (m : Msg) : State := (at1 q).post ⟨0, 0, 1, .msg m⟩

/-- A binding of type 3 and one of type 250. -/
def demoBind : Table Binding := [(3, ⟨codeAt 0, 2, 48⟩), (250, ⟨codeAt 8, 1, 0⟩)]

theorem msg_comes (q : Queues) (m : Msg) (h : (coming q m).flight 0 = some ⟨0, 0, 1, .msg m⟩) :
    msgComes (coming q m) ((coming q m).dropFlight 0) 1 (some 0) m := .inl ⟨0, 0, 0, rfl, h, rfl⟩

theorem test_join_firing_comes_met : ∃ (c : Nat) (m : Msg) (s u : State), msgComes s u c none m ∧ u.isRunning c = true :=
  ⟨1, demoMsg 3, at1 { joinq := [demoMsg 3, demoMsg 9] }, _, .inr ⟨[demoMsg 9], rfl, by decide +kernel, rfl⟩, by decide +kernel⟩

theorem test_message_unbound_met (n : Nat) (h : n = 15 ∨ n = 16) : ∃ (c : Nat) (k : Option Nat) (m : Msg) (u s : State), msgComes s u c k m ∧
    u.isRunning c = true ∧ (u.core c).preempted = false ∧ u.startOne c = none ∧
    ¬(tlook (u.core c).q.bindings m.type ≠ none ∨ 240 ≤ m.type) ∧ (u.core c).q.pendq.length = n ∧ m.src.toNat < 2048 := by
  refine ⟨1, some 0, demoMsg 4, _, coming { bindings := demoBind, pendq := List.replicate n (demoMsg 4) } (demoMsg 4), msg_comes _ _ ?_, ?_⟩ <;>
    rcases h with rfl | rfl
  · decide +kernel
  · decide +kernel
  · refine ⟨by decide +kernel, by decide +kernel, ?_, by decide +kernel, by decide +kernel, by decide⟩
    exact Option.isNone_iff_eq_none.mp (by decide +kernel)
  · refine ⟨by decide +kernel, by decide +kernel, ?_, by decide +kernel, by decide +kernel, by decide⟩
    exact Option.isNone_iff_eq_none.mp (by decide +kernel)

theorem test_message_starts_met (t : Nat) (h : t = 3 ∨ t = 250) : ∃ (c x : Nat) (k : Option Nat) (m : Msg) (b : Binding) (u s : State),
    msgComes s u c k m ∧ u.isRunning c = true ∧ (u.core c).preempted = false ∧ u.startOne c = none ∧
    (tlook (u.core c).q.bindings m.type ≠ none ∨ 240 ≤ m.type) ∧ (∀ e ∈ (u.core c).q.mailbox, e.type ≠ m.type) ∧
    u.slotFor c m = some (x, b) := by
  rcases h with rfl | rfl
  · exact ⟨1, 0, some 0, demoMsg 3, ⟨codeAt 0, 2, 48⟩, _, coming { bindings := demoBind, mailbox := [demoMsg 9] } (demoMsg 3),
      msg_comes _ _ (by decide +kernel), by decide +kernel, by decide +kernel, Option.isNone_iff_eq_none.mp (by decide +kernel),
      by decide +kernel, by decide +kernel, by decide +kernel⟩
  · exact ⟨1, 0, some 0, demoMsg 250, ⟨codeAt 8, 1, 0⟩, _, coming { bindings := demoBind } (demoMsg 250),
      msg_comes _ _ (by decide +kernel), by decide +kernel, by decide +kernel, Option.isNone_iff_eq_none.mp (by decide +kernel),
      by decide +kernel, by decide +kernel, by decide +kernel⟩

theorem test_message_kept_met (n t : Nat) (h : (n = 55 ∧ t = 9) ∨ (n = 63 ∧ t = 251)) :
    ∃ (c : Nat) (k : Option Nat) (m : Msg) (u s : State), msgComes s u c k m ∧ u.isRunning c = true ∧ (u.core c).preempted = false ∧
    u.startOne c = none ∧ (tlook (u.core c).q.bindings m.type ≠ none ∨ 240 ≤ m.type) ∧
    ((∃ e ∈ (u.core c).q.mailbox, e.type = m.type) ∨ u.slotFor c m = none) ∧
    (u.core c).q.mailbox.length < 64 ∧ (m.type < 240 → ordinary (u.core c).q.mailbox < 56) := by
  refine ⟨1, some 0, demoMsg t, _, coming { bindings := [(9, ⟨codeAt 0, 0, 1⟩)], mailbox := List.replicate n (demoMsg t) } (demoMsg t),
    msg_comes _ _ ?_, ?_⟩ <;> rcases h with ⟨rfl, rfl⟩ | ⟨rfl, rfl⟩
  · decide +kernel
  · decide +kernel
  · refine ⟨by decide +kernel, by decide +kernel, Option.isNone_iff_eq_none.mp (by decide +kernel), by decide +kernel, ?_, by decide +kernel,
      by decide +kernel⟩
    exact .inl ⟨demoMsg 9, by decide +kernel, rfl⟩
  · refine ⟨by decide +kernel, by decide +kernel, Option.isNone_iff_eq_none.mp (by decide +kernel), by decide +kernel, ?_, by decide +kernel,
      by decide +kernel⟩
    exact .inr (by decide +kernel)

theorem test_message_refused_met : ∃ (c : Nat) (k : Option Nat) (m : Msg) (u s : State), msgComes s u c k m ∧ u.isRunning c = true ∧
    (u.core c).preempted = false ∧ u.startOne c = none ∧ (tlook (u.core c).q.bindings m.type ≠ none ∨ 240 ≤ m.type) ∧
    u.slotFor c m = none ∧ ¬((u.core c).q.mailbox.length < 64 ∧ (m.type < 240 → ordinary (u.core c).q.mailbox < 56)) ∧ m.type < 240 ∧
    m.src.toNat < 2048 :=
  ⟨1, some 0, demoMsg 9, _, coming { bindings := [(9, ⟨codeAt 0, 0, 1⟩)], mailbox := List.replicate 56 (demoMsg 9) } (demoMsg 9),
    msg_comes _ _ (by decide +kernel), by decide +kernel, by decide +kernel, Option.isNone_iff_eq_none.mp (by decide +kernel),
    by decide +kernel, by decide +kernel, (by decide +kernel), by decide, by decide⟩

theorem test_message_host_back_met : ∃ (c : Nat) (k : Option Nat) (m : Msg) (u s : State), msgComes s u c k m ∧ u.isRunning c = true ∧
    (u.core c).preempted = false ∧ u.startOne c = none ∧ ¬(tlook (u.core c).q.bindings m.type ≠ none ∨ 240 ≤ m.type) ∧
    16 ≤ (u.core c).q.pendq.length ∧ m.src = 0x10000 := by
  let m : Msg := { type := 4, src := 0x10000, dst := 1 }
  exact ⟨1, some 0, m, _, coming { bindings := demoBind, pendq := List.replicate 16 (demoMsg 4) } m, msg_comes _ _ (by decide +kernel),
    by decide +kernel, by decide +kernel, Option.isNone_iff_eq_none.mp (by decide +kernel), by decide +kernel, by decide +kernel, rfl⟩

theorem test_message_system_refused_met : ∃ (c : Nat) (k : Option Nat) (m : Msg) (u s : State), msgComes s u c k m ∧ u.isRunning c = true ∧
    (u.core c).preempted = false ∧ u.startOne c = none ∧ (tlook (u.core c).q.bindings m.type ≠ none ∨ 240 ≤ m.type) ∧
    u.slotFor c m = none ∧ ordinary (u.core c).q.mailbox < 56 ∧ ¬(u.core c).q.mailbox.length < 64 ∧ m.type < 240 ∧ m.src.toNat < 2048 :=
  ⟨1, some 0, demoMsg 9, _, coming { bindings := [(9, ⟨codeAt 0, 0, 1⟩)], mailbox := List.replicate 64 (demoMsg 254) } (demoMsg 9),
    msg_comes _ _ (by decide +kernel), by decide +kernel, by decide +kernel, Option.isNone_iff_eq_none.mp (by decide +kernel),
    by decide +kernel, by decide +kernel, (by decide +kernel), by decide +kernel, by decide, (by decide)⟩

theorem test_message_down_met (m : Msg) (h : m = demoMsg 9 ∨ m = { demoMsg 254 with sent := true }) :
    ∃ (c : Nat) (k : Option Nat) (u s : State), msgComes s u c k m ∧ u.isRunning c = false ∧ (m.sent = true ∨ m.type < 240) ∧
    m.src.toNat < 2048 := by
  refine ⟨1, some 0, _, (go.modCore 1 fun k => { k with inReset := true }).post ⟨0, 0, 1, .msg m⟩, .inl ⟨0, 0, 0, rfl, ?_, rfl⟩, ?_⟩ <;>
    rcases h with rfl | rfl <;> decide +kernel

theorem test_host_ring_met (ch : Nat) (h : ch = 2 ∨ ch = 0) : ∃ (k src : Nat) (m : Msg) (s : State),
    s.flight k = some ⟨ch, src, hostNode, .msg m⟩ ∧ (tget s.host.events {} m.vf).entries.length < (tget s.host.events {} m.vf).count ∧
    (tget s.host.replies {} m.vf).entries.length < (tget s.host.replies {} m.vf).count := by
  refine ⟨0, 0, demoMsg 253, go.post ⟨ch, 0, hostNode, .msg (demoMsg 253)⟩, ?_⟩
  rcases h with rfl | rfl <;> decide +kernel

theorem test_start_met (t : Nat) (h : t = 3 ∨ t = 250) : ∃ (c x : Nat) (b : Binding) (m : Msg) (ms : List Msg) (s : State),
    s.isRunning c = true ∧ (s.core c).preempted = false ∧ (∀ y ∈ (s.core c).savedParks, y.park.resume = false) ∧
    (s.core c).q.mailbox = m :: ms ∧ (240 ≤ m.type ∨ ∀ e ∈ ms, e.type < 240) ∧ s.slotFor c m = some (x, b) := by
  refine ⟨1, 0, if t = 3 then ⟨codeAt 0, 2, 48⟩ else ⟨codeAt 8, 1, 0⟩, demoMsg t, [demoMsg 3], at1 { bindings := demoBind, mailbox := [demoMsg t, demoMsg 3] }, ?_⟩
  rcases h with rfl | rfl <;> decide +kernel

theorem test_resume_met : ∃ (c i j : Nat) (x : Ctx) (s : State), s.isRunning c = true ∧ (s.core c).preempted = false ∧
    findIdx (fun (y : Ctx) => y.park.resume) (s.core c).savedParks 0 = some (i, x) ∧
    (List.range 8).find? (fun j => s.fits c j x.id.launch (x.id.nv + x.instRegs)) = some j :=
  let x : Ctx := { parkedCtx1 10 with park := { num := 10, resume := true } }
  ⟨1, 1, 0, x, go.modCore 1 fun k => { k with savedParks := [parkedCtx1 9, x] }, by decide +kernel, by decide +kernel, (by decide +kernel),
    by decide +kernel⟩

theorem test_firmware_met (t : Nat) (h : t = 254 ∨ t = 255) : ∃ (c : Nat) (m : Msg) (ms : List Msg) (s : State), s.isRunning c = true ∧
    (s.core c).preempted = false ∧ (s.core c).nested = none ∧ (s.core c).q.mailbox = m :: ms ∧ 240 ≤ m.type ∧
    tlook (s.core c).q.bindings m.type = none ∧ (∃ x, x < 8 ∧ s.fits c x m.launch 0 = true) ∧
    (m.words[0]?.getD 0).toNat / 2 ^ 19 % 2 = 1 ∧
    ∃ i y, s.findPark c ((m.words[4]?.getD 0).toNat / 2 ^ 16 % 2 ^ 16) = some (.ctx i, y) := by
  let m : Msg := { type := t, words := [0x80000, 0, 0, 0, 0x90000, 0] }
  refine ⟨1, m, [], (at1 { mailbox := [m] }).setCtxAt 1 3 (parkedCtx1 9), ?_⟩
  rcases h with rfl | rfl <;>
    exact ⟨by decide +kernel, by decide +kernel, Option.isNone_iff_eq_none.mp (by decide +kernel), by decide +kernel, by decide,
      by decide +kernel, ⟨0, by decide, by decide +kernel⟩, by decide, 3, parkedCtx1 9, by decide +kernel⟩

theorem test_nested_met : ∃ (c i : Nat) (x : Ctx) (s : State), s.isRunning c = true ∧ (s.core c).preempted = false ∧
    (s.core c).nested = some (.ctx i, x) :=
  let x : Ctx := { parkedCtx1 11 with id := { act := 4, type := 254, system := true, serves := some 9 } }
  ⟨1, 2, x, go.setCtxAt 1 2 x, by decide +kernel, by decide +kernel, by decide +kernel⟩


/-- Core 1 with queue q of remote operations, memory m and join-fire queue j. -/
def opState (q : List RemoteOp) (m : Memory) (j : List Msg) : State :=
  go.modCore 1 fun k => { k with q := { k.q with ropq := q, joinq := j }, spad := m }

/-- At address 64 a sync word with target 5 and count 3 that fires type 7, at address 128 a configured join record with target 2
and count 1. -/
def demoWords : Memory :=
  mwrite (mwrite [] 64 (leBytes 16 (5 + 3 * 2 ^ 32 + 2 ^ 103 + 7 * 2 ^ 104))) 128 (leBytes 16 (2 + 2 ^ 32 + 7 * 2 ^ 80 + 2 ^ 88))

theorem test_remote_op_met (op : RemoteOp) (h : op = .put 786424 [1, 2, 3, 4, 5, 6, 7, 8] {} 5 ∨ op = .amo 0 64 1 0 {} 5 0 6 ∨
    op = .jset 192 4 7 {}) (queued : Bool) :
    ∃ (c : Nat) (k : Option Nat) (rest : List RemoteOp) (u s : State), opComes s u c k op rest := by
  cases queued
  · let s : State := (opState [] demoWords []).post ⟨0, 0, 1, .remote op⟩
    refine ⟨1, some 0, [], s.dropFlight 0, s, ?_⟩
    rcases h with rfl | rfl | rfl <;>
      exact ⟨by decide +kernel, by decide +kernel, by decide +kernel,
        .inr ⟨0, 0, 0, rfl, by decide +kernel, by decide +kernel, rfl, (by decide +kernel), rfl⟩⟩
  · refine ⟨1, none, [op], opState [op, op] demoWords [], opState [op, op] demoWords [], ?_⟩
    rcases h with rfl | rfl | rfl <;> exact ⟨by decide +kernel, by decide +kernel, by decide +kernel, .inl ⟨rfl, rfl, rfl⟩⟩

theorem test_swadd_op_met (n : Nat) (h : n = 2 ∨ n = 105) : ∃ (c : Nat) (k : Option Nat) (a wid : Nat) (own : Owner)
    (rest : List RemoteOp) (u s : State), opComes s u c k (.swadd a n own wid) rest ∧ raiseFits (s.core c) (syncWord (s.core c).spad a) n := by
  let s : State := opState [.swadd 64 n {} 5] demoWords []
  refine ⟨1, none, 64, 5, {}, [], s, s, ?_⟩
  rcases h with rfl | rfl <;>
    exact ⟨⟨by decide +kernel, by decide +kernel, by decide +kernel, .inl ⟨rfl, rfl, rfl⟩⟩, by unfold raiseFits roundsOf; decide +kernel⟩

theorem test_arrive_op_met (n j : Nat) (h : (n = 1 ∧ j = 7) ∨ (n = 40 ∧ j = 0)) : ∃ (c : Nat) (k : Option Nat) (a wid : Nat) (own : Owner)
    (rest : List RemoteOp) (u s : State), opComes s u c k (.arrive a n own wid) rest ∧ mreadNat (s.core c).spad a 16 / 2 ^ 88 % 2 = 1 ∧
    mreadNat (s.core c).spad a 16 % 2 ^ 32 ≠ 0 ∧
    (roundsOf (mreadNat (s.core c).spad a 16 / 2 ^ 32 % 2 ^ 32) n (mreadNat (s.core c).spad a 16 % 2 ^ 32) ≠ 0 →
      (s.core c).q.joinq.length < 8) := by
  let s : State := opState [.arrive 128 n {} 5] demoWords (List.replicate j (demoMsg 3))
  refine ⟨1, none, 128, 5, {}, [], s, s, ?_⟩
  rcases h with ⟨rfl, rfl⟩ | ⟨rfl, rfl⟩ <;>
    exact ⟨⟨by decide +kernel, by decide +kernel, by decide +kernel, .inl ⟨rfl, rfl, rfl⟩⟩, by unfold roundsOf; decide +kernel⟩

theorem test_arrive_refused_met : ∃ (c : Nat) (k : Option Nat) (a n wid : Nat) (own : Owner) (rest : List RemoteOp) (u s : State),
    opComes s u c k (.arrive a n own wid) rest ∧ mreadNat (s.core c).spad a 16 / 2 ^ 88 % 2 = 0 :=
  ⟨1, none, 192, 1, 5, {}, [], _, opState [.arrive 192 1 {} 5] demoWords [],
    ⟨by decide +kernel, by decide +kernel, by decide +kernel, .inl ⟨rfl, rfl, rfl⟩⟩,
    by decide +kernel⟩

theorem test_raise_met (n : Nat) (h : n = 1 ∨ n = 65) : ∃ (c : Nat) (r : Raise) (rest : List Raise) (s : State), s.isRunning c = true ∧
    (s.core c).q.raises = r :: rest ∧ r.n = n ∧ raiseFits (s.core c) (syncWord (s.core c).spad r.addr) r.n ∧
    (∀ f ∈ (s.core c).q.fires, f.thread = true) := by
  let r : Raise := ⟨64, n, true, none, 0⟩
  refine ⟨1, r, [], (opState [] demoWords []).modCore 1 fun k => { k with q := { k.q with raises := [r] } }, ?_⟩
  rcases h with rfl | rfl <;>
    exact ⟨by decide +kernel, by decide +kernel, rfl, by unfold raiseFits roundsOf; decide +kernel, by decide +kernel⟩

/-- R175, R205: a raise of ten rounds is applied whole, and eight of its messages fit at once. -/
theorem test_raise_ten_rounds :
    (match exec (.syncWordRaise 1) ((opState [] demoWords []).modCore 1 fun k =>
        { k with q := { k.q with raises := [⟨64, 50, false, none, 0⟩] } }) with
      | .next t => (syncWord (t.core 1).spad 64).gen == 10 && (t.core 1).q.joinq.length == 8 && (unfired (t.core 1).q).length == 2
      | _ => false) = true := by decide +kernel

theorem test_feed_met : ∃ q : Queues, q.joinq.length ≤ 8 ∧ q.fires ≠ [] :=
  ⟨{ joinq := List.replicate 7 (demoMsg 3), fires := [⟨demoMsg 7, 4, 32, 3, true⟩] }, by decide +kernel, by decide +kernel⟩

theorem test_thread_turn_met (op : RemoteOp) (h : op = .put 64 [1, 2, 3, 4, 5, 6, 7, 8] {} 5 ∨ op = .arrive 128 1 {} 5) :
    ∃ (c : Nat) (rest : List Turn) (s : State), s.agenda = .core c :: rest ∧
    threadReady ({ s with agenda := rest, cur := c }).cycled c = true := by
  refine ⟨1, [], { opState [op] demoWords [] with agenda := [.core 1] }, ?_⟩
  rcases h with rfl | rfl <;> decide +kernel
/-! ## Witnesses: memory nodes, caches, markers, jobs -/

/-- A read of 16 bytes of the tests' page on its way to die 0's memory node. -/
def reading (own : Owner) (cache : Bool) : Flight := ⟨0, 0, memNode 0, .read 0x10000050000 16 own 5 0 true cache⟩

theorem test_node_read_met (cache : Bool) (up poisoned : Bool) : ∃ (k ch src d pa n id piece : Nat) (own : Owner) (load : Bool) (s : State),
    s.flight k = some ⟨ch, src, memNode d, .read pa n own id piece load cache⟩ ∧ s.memUp d = up ∧
    s.poison.contains (granuleOf pa) = poisoned ∧ (up = true → poisoned = false → answersAt s d pa) := by
  let s0 := { go with poison := if poisoned then [granuleOf 0x10000050000] else [] }
  let s := s0.modDie 0 fun d => { d with pw := { d.pw with memUp := up } }
  refine ⟨0, 0, 0, 0, 0x10000050000, 16, 5, 0, {}, true, s.post (reading {} cache), ?_⟩
  unfold answersAt
  cases cache <;> cases up <;> cases poisoned <;> decide +kernel

theorem test_node_write_met (up told : Bool) : ∃ (k ch src d pa wid : Nat) (bs : List (Option Byte)) (w : WriteRec) (s : State),
    s.flight k = some ⟨ch, src, memNode d, .write pa bs wid⟩ ∧ tlook s.writes wid = some w ∧ s.memUp d = up ∧ w.told = told ∧
    (up = true → answersAt s d pa) := by
  let w : WriteRec := { own := {}, home := memNode 0, lines := [], told := told }
  let s : State := { flying (.write 0x10000050000 [some 1, none, some 3] 5) 0 (memNode 0) with writes := [(5, w)] }
  refine ⟨0, 0, 0, 0, 0x10000050000, 5, [some 1, none, some 3], w, s.modDie 0 fun d => { d with pw := { d.pw with memUp := up } }, ?_⟩
  unfold answersAt
  cases up <;> cases told <;> decide +kernel

theorem test_node_atomic_met : ∃ (k ch src d pa fn id piece wid : Nat) (x y : Word) (own : Owner) (s : State),
    s.flight k = some ⟨ch, src, memNode d, .amo pa fn x y own id piece wid⟩ ∧ answersAt s d pa :=
  ⟨0, 0, 0, 0, 0x10000050008, 0, 5, 0, 6, 1, 0, {}, flying (.amo 0x10000050008 0 1 0 {} 5 0 6) 0 (memNode 0), by decide +kernel,
    by unfold answersAt; decide +kernel⟩

theorem test_fill_met : ∃ (k ch src dst id piece wid : Nat) (p : Piece) (load : Bool) (e : Nat × Nat) (drop : List Nat) (s : State),
    nth s.net k = some ⟨ch, src, dst, .reply id piece p load (some e) drop wid⟩ ∧
    s.passesCache k ⟨ch, src, dst, .reply id piece p load (some e) drop wid⟩ = true :=
  ⟨0, 0, memNode 1, 0, 5, 0, 0, .data [1], true, (9, 1), [], flying (.reply 5 0 (.data [1]) true (some (9, 1)) [] 0) (memNode 1) 0,
    by decide +kernel, by decide +kernel⟩

/-- Context 0 of core 0 holds for one piece. -/
def holding (b : Body) : State := (on fun x => { x with held := some ⟨5, 1, [], false, 0, 1, false, [], none⟩ }).post ⟨2, memNode 0, 0, b⟩

/-- What is absent has every property. -/
theorem none_of {α : Type} {o : Option α} {P : α → Prop} (h : o = none) : ∀ w, o = some w → P w := fun w e => by rw [h] at e; cases e

theorem test_reply_arrival_met (load : Bool) : ∃ (k ch src dst id piece wid : Nat) (p : Piece) (s : State),
    s.flight k = some ⟨ch, src, dst, .reply id piece p load none [] wid⟩ ∧ s.away dst = false ∧
    (∀ w, tlook s.writes wid = some w → w.job = 0 ∧ w.raise = none) ∧
    (load = true → ∃ c i h, (s.ctxAt c i).held = some h ∧ h.id = id) ∧ (load = false → ∃ r, tlook s.mgets id = some r) := by
  let r : MgetRec := { own := {}, vecForm := false, x := 0, y := 0, n := 8, type := 1, tag := 0, home := 0, due := 1, got := [] }
  refine ⟨0, 2, memNode 0, 0, 5, 0, 0, .data [1], { holding (.reply 5 0 (.data [1]) load none [] 0) with mgets := [(5, r)] }, ?_⟩
  cases load
  · exact ⟨by decide +kernel, by decide +kernel, none_of (Option.isNone_iff_eq_none.mp (by decide +kernel)), fun e => (nomatch e),
      fun _ => ⟨r, rfl⟩⟩
  · exact ⟨by decide +kernel, by decide +kernel, none_of (Option.isNone_iff_eq_none.mp (by decide +kernel)),
      fun _ => ⟨0, 0, ⟨5, 1, [], false, 0, 1, false, [], none⟩, by decide +kernel, rfl⟩, fun e => (nomatch e)⟩

theorem test_ack_met (drop : List Nat) (h : drop = [] ∨ drop = [9]) : ∃ (k ch src dst wid c : Nat) (w : WriteRec) (r : Raise) (s : State),
    s.flight k = some ⟨ch, src, dst, .ack wid drop⟩ ∧ (drop ≠ [] → s.passesCache k ⟨ch, src, dst, .ack wid drop⟩ = true) ∧
    s.away dst = false ∧ tlook s.writes wid = some w ∧ w.job = 0 ∧ w.raise = some (c, r) ∧ s.isRunning c = true := by
  let w : WriteRec := { own := {}, home := memNode 1, lines := [], raise := some (1, ⟨64, 8, false, none, 0⟩) }
  refine ⟨0, 2, memNode 1, 0, 5, 1, w, ⟨64, 8, false, none, 0⟩,
    { (go.modDie 0 fun d => { d with far := [(9, 1)] }).post ⟨2, memNode 1, 0, .ack 5 drop⟩ with writes := [(5, w)] }, ?_⟩
  rcases h with rfl | rfl <;> decide +kernel

theorem test_away_met (b : Body) (h : b = .reply 5 0 (.data [1]) true none [] 0 ∨ b = .ack 5 [] ∨ b = .markerAck {} none) :
    ∃ (k ch src dst : Nat) (s : State), s.away dst = true ∧ s.flight k = some ⟨ch, src, dst, b⟩ := by
  refine ⟨0, 2, memNode 0, 0, (holding b).modCore 0 fun k => { k with preempted := true }, ?_⟩
  rcases h with rfl | rfl | rfl <;> decide +kernel

theorem test_walk_met : ∃ (vf va lg : Nat) (pte : Word) (s : State), walk s vf va = .leaf pte lg :=
  ⟨0, 0x1FFF8, 16, 0x100000500BB, go, by decide +kernel⟩

/-- A marker of die 1. -/
def demoMarker : Marker :=
  { src := 1, seq := 3, clock := [9, 3, 2], pages := some [0x1000001], own := { core := 64 }, node := none }

theorem test_marker_arrival_met : ∃ (k ch src die : Nat) (m : Marker) (s : State), s.flight k = some ⟨ch, src, schedNode die, .marker m⟩ :=
  ⟨0, 0, schedNode 1, 0, demoMarker, flying (.marker demoMarker) (schedNode 1) (schedNode 0), by decide +kernel⟩

theorem test_note_met (waits : Bool) : ∃ (k ch src die from_ n : Nat) (s : State),
    s.flight k = some ⟨ch, src, schedNode die, .note from_ n⟩ ∧
    (waits = false → ∀ w ∈ (s.die die).waiting, waitSrc w ≠ from_) ∧
    (waits = true → ∃ m, (s.die die).waiting.find? (fun w => waitSrc w == from_) = some (.inl m)) := by
  refine ⟨0, 0, schedNode 1, 0, 1, 7,
    (go.modDie 0 fun d => { d with waiting := if waits then [.inl demoMarker] else [] }).post ⟨0, schedNode 1, schedNode 0, .note 1 7⟩, ?_⟩
  cases waits
  · exact ⟨by decide +kernel, fun _ => by decide +kernel, fun e => (nomatch e)⟩
  · exact ⟨by decide +kernel, fun e => (nomatch e), fun _ => ⟨demoMarker, by decide +kernel⟩⟩

theorem test_marker_apply_met (n : Nat) (h : n = 1 ∨ n = 2) : ∃ (die src : Nat) (m : Marker) (s : State),
    (s.die die).waiting.find? (fun w => waitSrc w == src) = some (.inl m) ∧
    ((∀ j, j < 16 → j ≠ m.src → j ≠ die → (nth m.clock j).getD 0 ≤ tget (s.die die).clock 0 j) ↔ n = 2) ∧
    (∃ e ∈ (s.die die).far, inSummary m.pages e.1 = true) ∧ (∃ e ∈ (s.die die).far, inSummary m.pages e.1 = false) ∧
    ∀ w ∈ (s.die die).waiting, waitSrc w = src → w = .inl m := by
  refine ⟨0, 1, demoMarker, go.modDie 0 fun d => { d with waiting := [.inl demoMarker], clock := [(2, n)], far := [(1024, 1), (9, 9999)] }, ?_⟩
  rcases h with rfl | rfl
  · exact ⟨by decide +kernel, by decide +kernel, ⟨(1024, 1), by decide +kernel, by decide +kernel⟩,
      ⟨(9, 9999), by decide +kernel, by decide +kernel⟩, by decide +kernel⟩
  · exact ⟨by decide +kernel, by decide +kernel, ⟨(1024, 1), by decide +kernel, by decide +kernel⟩,
      ⟨(9, 9999), by decide +kernel, by decide +kernel⟩, by decide +kernel⟩

theorem test_marker_ack_met : ∃ (k ch src dst c i : Nat) (own : Owner) (r : Release) (s : State),
    s.flight k = some ⟨ch, src, dst, .markerAck own none⟩ ∧ (s.ctxAt c i).status ≠ .free ∧ (s.ctxAt c i).id.act = own.act ∧
    (s.ctxAt c i).rel = some r ∧ s.away dst = false :=
  ⟨0, 2, schedNode 1, 0, 0, 0, {}, ⟨true, 1⟩, (on fun x => { x with rel := some ⟨true, 1⟩ }).post ⟨2, schedNode 1, 0, .markerAck {} none⟩,
    by decide +kernel, by decide +kernel, (by decide +kernel), by decide +kernel, by decide +kernel⟩

theorem test_node_ack_met : ∃ (k ch src dst ref : Nat) (own : Owner) (n : Node) (s : State),
    s.flight k = some ⟨ch, src, dst, .markerAck own (some ref)⟩ ∧ s.nodeAt ref = some n :=
  ⟨0, 2, schedNode 1, schedNode 0, 4, {}, { demoNode .running 0 with marks := some 1 },
    (go.modDie 0 fun d => { d with nodes := [(4, { demoNode .running 0 with marks := some 1 })] }).post
      ⟨2, schedNode 1, schedNode 0, .markerAck {} (some 4)⟩, by decide +kernel, by decide +kernel⟩

theorem test_barrier_arrival_met (v : Word) (n : Nat) (h : v = 4 ∨ v = 256) (k : n = 5 ∨ n = 6) :
    ∃ (k ch src c d i : Nat) (b : BarOp) (g : Held) (s : State), s.flight k = some ⟨ch, src, c, .barrier b⟩ ∧
    ((barApply b.fn 1 (b.own.launch.getD 0 % 256) b.val ((s.core c).barrier b.n)).isSome ↔ v = 4) ∧
    (s.ctxAt d i).status ≠ .free ∧ (s.ctxAt d i).id.act = b.own.act ∧ (s.ctxAt d i).held = some g ∧ (g.id = b.id ↔ n = 5) := by
  let g : Held := ⟨n, 1, [], true, 0, 0, false, [], none⟩
  refine ⟨0, 2, 0, 1, 0, 0, ⟨0, 3, v, {}, 5⟩, g, (on fun x => { x with held := some g }).post ⟨2, 0, 1, .barrier ⟨0, 3, v, {}, 5⟩⟩, ?_⟩
  rcases h with rfl | rfl <;> rcases k with rfl | rfl <;> decide +kernel

/-- A copy of 64 bytes from core 0 to core 1, as two rows of 32. -/
def demoJob (n done : Nat) (started : Bool) : Job :=
  { id := n, own := {}, wid := 5, dst := .spad 1 0, src := .spad 0 128, rowlen := 32, rows := 2, spitch := 64, dpitch := 32
    sw := some (1, 1024), done := done, started := started }

/-- Die 0 has jobs. -/
def withJobs (js : List Job) : State := go.modDie 0 fun d => { d with jobs := js }

theorem test_job_start_met : ∃ (die n : Nat) (j : Job) (s : State), (s.die die).job n = some j ∧ j.ws = false ∧ j.started = false :=
  ⟨0, 2, demoJob 2 0 false, withJobs [demoJob 1 0 true, demoJob 2 0 false], by decide +kernel⟩

theorem test_part_met (done : Nat) (busy : Bool) (h : done = 8 ∨ done = 40) : ∃ (die id n c a c' a' w x : Nat) (j : Job) (s : State),
    (s.die die).job id = some j ∧ j.ws = false ∧ j.started = true ∧ j.deal = none ∧ j.src = .spad c a ∧ j.dst = .spad c' a' ∧ 0 < n ∧
    0 < j.rowlen ∧ n ≤ j.rowlen - j.done % j.rowlen ∧ j.done + n ≤ j.rowlen * j.rows ∧ s.isRunning c' = true ∧ j.sw = some (w, x) ∧
    s.isRunning w = true ∧ (j.done + n = j.rowlen * j.rows ↔ done = 40) ∧ (∀ w ∈ s.writes, w.2.job = j.wid → w.2.lines = []) ∧
    (let b := done / 32 * 32 + done % 32
     awaitsEarlier s die j [(1 + c, (a + (done / 32 * 64 + done % 32)) / 64, (a + (done / 32 * 64 + done % 32) + n - 1) / 64)]
      [(1 + c', (a' + b) / 64, (a' + b + n - 1) / 64)] = busy) := by
  refine ⟨0, 2, 24, 0, 128, 1, 0, 1, 1024, demoJob 2 done true, withJobs (if busy then [demoJob 1 0 true, demoJob 2 done true] else
    [demoJob 2 done true]), ?_⟩
  rcases h with rfl | rfl <;> cases busy <;> decide +kernel

theorem test_job_stop_met : ∃ (die id c x : Nat) (j : Job) (p : Word) (w : Bool) (s : State), (s.die die).job id = some j ∧ j.ws = false ∧
    j.started = true ∧ j.failAt s die = some (p, w) ∧ j.sw = some (c, x) ∧ j.deal = none :=
  let j : Job := { demoJob 2 0 true with src := .hbm (dataAt 0) 0x10000 [(1, 0x1000005)] }
  ⟨0, 2, 1, 1024, j, dataAt 0, false, (withJobs [j]).modDie 0 fun d => { d with pw := { d.pw with memUp := false } }, by decide +kernel,
    by decide +kernel, (by decide +kernel), by decide +kernel, by decide +kernel, (by decide +kernel)⟩

theorem test_window_met (b : Bool) : ∃ (die : Nat) (s : State), (s.die die).wsOpen = b ∧ (b = false → 15000 ≤ (s.die die).wsTime) ∧
    (b = true → 6000 ≤ (s.die die).wsTime) := by
  refine ⟨0, go.modDie 0 fun d => { d with wsOpen := b, wsTime := if b then 6000 else 15000 }, ?_⟩
  cases b <;> decide +kernel

theorem test_landing_met (toStore : Bool) : ∃ (die id o c a : Nat) (j : Job) (s : State), (s.die die).job id = some j ∧ j.ws = true ∧
    j.sw = none ∧ j.deal = none ∧
    (toStore = false → j.src = .store o ∧ j.dst = .spad c a ∧ s.isRunning c = true) ∧
    (toStore = true → j.src = .spad c a ∧ j.dst = .store o) := by
  let j : Job :=
    { id := 2, own := {}, wid := 5, dst := if toStore then .store 4096 else .spad 1 64, src := if toStore then .spad 1 64 else .store 4096
      rowlen := 4096, rows := 1, spitch := 0, dpitch := 0, ws := true }
  refine ⟨0, 2, 4096, 1, 64, j, (withJobs [j]).modDie 0 fun d => { d with wsOpen := true, wsSlot := 0 }, ?_⟩
  cases toStore <;> decide +kernel

/-- R214: only the block whose bank is being refreshed stays behind. -/
theorem test_refresh_holds_one_block :
    let j : Job := { id := 2, own := {}, wid := 5, dst := .spad 1 64, src := .store 4032, rowlen := 128, rows := 1, spitch := 0, dpitch := 0,
                     ws := true }
    let s := (withJobs [j]).modDie 0 fun d => { d with wsOpen := true, wsSlot := 1, store := [(4032, 7), (4096, 9)] }
    (match exec (.weightStoreLanding 0 2) s with
      | .next t => (t.die 0).jobs.map (fun k => k.moved) == [[0]] && mread (t.core 1).spad 64 1 == [7] && mread (t.core 1).spad 128 1 == [0]
      | _ => false) = true := by decide +kernel
/-! ## Witnesses: launches, nodes, the host -/

/-- The bytes of a node descriptor: entry, slice 3, one context, 2 vector registers, 64 bytes of scratchpad, one barrier. -/
def descBytes (ctxs : Nat) : List Byte :=
  leBytes 8 (codeAt 0).toNat ++ [3, 0, BitVec.ofNat 8 ctxs, 2] ++ leBytes 4 64 ++ [1, 0, 0, 0] ++ leBytes 4 0 ++
    List.replicate 8 0 ++ leBytes 8 77 ++ List.replicate 40 0

/-- An object whose graph has two nodes, the second after the first. -/
def graphObj (ok : Bool) (ctxs : Nat) : Obj :=
  { demoObj with floor := true, nodes := [descBytes 1, descBytes ctxs], edges := [(0, 1)], words := [5], wellFormed := ok }

/-- The tests' virtual function with an object 3. -/
def withObj (o : Obj) : State := withVf { bootVf with objs := [(3, o)] }

/-- A launch command of object n, alone or at the head of the command ring of virtual function 0. -/
def commanded (ring : Bool) (n : Nat) (s : State) : State :=
  if ring then { s with host := { s.host with commands := [(0, [.launch 0 n none, .launch 0 8 none])] } } else s

theorem command_read (ring : Bool) (n : Nat) (s : State) (h : s.host.commands = []) :
    ∃ u, commandRead (commanded ring n s) u (.launch 0 n none) := by
  cases ring
  · exact ⟨s, .inl ⟨by simp [commanded, h, tget, tlook, Command.vf], by simp [commanded]⟩⟩
  · exact ⟨_, .inr ⟨[.launch 0 8 none], rfl, rfl⟩⟩

theorem test_launch_unknown_met (ring : Bool) : ∃ (vf obj l : Nat) (v : Vf) (u s : State), (s.die 0).pw.state = .run ∧
    s.fw.recovery = false ∧ commandRead s u (.launch vf obj none) ∧ tlook s.vfs vf = some v ∧ freeLaunch s = some l ∧
    tlook v.objs obj = none := by
  obtain ⟨u, h⟩ := command_read ring 9 go rfl
  refine ⟨0, 9, 0, bootVf, u, commanded ring 9 go, ?_, ?_, h, ?_⟩ <;> cases ring <;> decide +kernel

theorem test_launch_fault_met (ok ring : Bool) : ∃ (vf obj l n code : Nat) (w4 w5 : Word) (v : Vf) (o : Obj) (u s : State),
    (s.die 0).pw.state = .run ∧ s.fw.recovery = false ∧ commandRead s u (.launch vf obj none) ∧ tlook s.vfs vf = some v ∧
    freeLaunch s = some l ∧ tlook v.objs obj = some o ∧ launchFault s v o = some (n, code, w4, w5) ∧ n = (if ok then 1 else 0) := by
  let o := graphObj ok 9
  obtain ⟨u, h⟩ := command_read ring 3 (withObj o) rfl
  refine ⟨0, 3, 0, if ok then 1 else 0, if ok then 1 else 9, if ok then 9 else 0, if ok then 8 else 0, { bootVf with objs := [(3, o)] }, o,
    u, commanded ring 3 (withObj o), ?_, ?_, h, ?_⟩ <;> cases ok <;> cases ring <;> decide +kernel

theorem test_launch_met (ring : Bool) : ∃ (vf obj l c : Nat) (slices : List Nat) (v : Vf) (o : Obj) (u s : State), (s.die 0).pw.state = .run ∧
    s.fw.recovery = false ∧ commandRead s u (.launch vf obj none) ∧ tlook s.vfs vf = some v ∧ freeLaunch s = some l ∧
    tlook v.objs obj = some o ∧ launchFault s v o = none ∧ o.handlers = [] ∧ o.nodes ≠ [] ∧ nth slices 3 = some c ∧ inQuads v c = true := by
  let o := graphObj true 1
  obtain ⟨u, h⟩ := command_read ring 3 (withObj o) rfl
  refine ⟨0, 3, 0, 255, [0, 1, 2, 255], { bootVf with objs := [(3, o)] }, o, u, commanded ring 3 (withObj o), ?_, ?_, h, ?_⟩ <;>
    cases ring <;> decide +kernel

/-- Die 0 has one node, number 4. -/
def withNode (s : State) (n : Node) : State := s.modDie 0 fun d => { d with nodes := [(4, n)] }

theorem test_placement_met : ∃ (die i c : Nat) (n : Node) (s : State), s.node die i = some n ∧ n.state = .ready ∧
    s.stopsDispatch n.launch = false ∧ (s.die die).pw.state = .run ∧ inQuads (s.vf n.vf) c = true ∧ nodeFits s n c ∧
    ∀ d, s.sliceCore n.launch n.slice = some d → d = c :=
  let n : Node := { demoNode .ready 0 with ctxs := 8, vregs := 256, spad := 786432, bars := 512 }
  ⟨0, 4, 255, n, withNode go n, by decide +kernel, by decide +kernel, (by decide +kernel), by decide +kernel, by decide +kernel,
    by unfold nodeFits; decide +kernel, none_of (Option.isNone_iff_eq_none.mp (by decide +kernel))⟩

theorem test_placement_slice_met (chosen : Bool) : ∃ (die i c l : Nat) (n : Node) (x : Launch) (o : Obj) (s : State),
    s.node die i = some n ∧ n.state = .ready ∧ s.stopsDispatch n.launch = false ∧ (s.die die).pw.state = .run ∧
    inQuads (s.vf n.vf) c = true ∧ nodeFits s n c ∧ n.launch = some l ∧ tlook s.launches l = some x ∧
    s.sliceCore n.launch n.slice = (if chosen then some c else none) ∧ (chosen = false → tlook x.cores n.slice = none) ∧
    tlook (s.vf x.vf).objs x.obj = some o := by
  let n : Node := demoNode .ready 0
  let x : Launch := { vf := 0, obj := 3, status := 0, die := 0, nodes := [4], nslice := 1, cores := if chosen then [(n.slice, 9)] else [] }
  let s : State := { withNode (withObj demoObj) n with launches := [(7, x)] }
  refine ⟨0, 4, 9, 7, n, x, demoObj, s, ?_⟩
  unfold nodeFits
  cases chosen <;> decide +kernel

theorem test_dispatch_met : ∃ (die i : Nat) (n : Node) (s : State), s.node die i = some n ∧ n.state = .bound ∧
    s.stopsDispatch n.launch = false ∧ (s.die die).pw.state = .run ∧ s.isRunning n.core = true ∧ (s.core n.core).preempted = false ∧
    (s.ctxAt n.core n.first).status = .free ∧ s.poolUsed n.core ≤ 256 :=
  let n : Node := { demoNode .bound 0 with core := 255, vregs := 256, first := 7, lanes := [7] }
  ⟨0, 4, n, withNode go n, by decide +kernel, by decide +kernel, (by decide +kernel), by decide +kernel, by decide +kernel,
    (by decide +kernel), by decide +kernel, by decide +kernel⟩

theorem test_completion_met (b : Bool) : ∃ (die i : Nat) (o : Owner) (n : Node) (s : State), s.node die i = some n ∧
    n.completing = some o ∧ (s.die die).pw.state ≠ .hold ∧ n.marks = none ∧ s.unacked o (fun _ => true) = b ∧
    markerDies (s.vf o.vf) (dieOf o.core) (dieMask (s.vf n.vf)) ≠ [] := by
  let n : Node := { demoNode .running 0 with completing := some {}, pages := some [1] }
  let w : WriteRec := { own := {}, home := 1, lines := [] }
  refine ⟨0, 4, {}, n, { withNode (withVf { bootVf with quads := [0, 64] }) n with writes := if b then [(5, w)] else [] }, ?_⟩
  cases b <;> decide +kernel

theorem test_completed_met : ∃ (die i r : Nat) (o : Owner) (n m : Node) (s : State), s.node die i = some n ∧ n.completing = some o ∧
    (s.die die).pw.state ≠ .hold ∧ n.marks = some 0 ∧ n.launch = none ∧ n.succs.Nodup ∧ die * 65536 + i ∉ n.succs ∧ r ∈ n.succs ∧ s.nodeAt r = some m ∧
    m.state = .pending ∧ m.count = 1 :=
  let n : Node := { demoNode .running 0 with completing := some {}, marks := some 0, launch := none, succs := [5, 6] }
  let m : Node := { demoNode .pending 1 with launch := none }
  ⟨0, 4, 5, {}, n, m, go.modDie 0 fun d => { d with nodes := [(4, n), (5, m), (6, demoNode .pending 2)] }, by decide +kernel,
    by decide +kernel, (by decide +kernel), by decide +kernel, by decide +kernel, by decide +kernel, (by decide +kernel), by decide +kernel, by decide +kernel,
    (by decide +kernel), by decide +kernel⟩

theorem test_launch_completes_met : ∃ (die i l : Nat) (o : Owner) (n : Node) (x : Launch) (s : State), s.node die i = some n ∧
    n.completing = some o ∧ (s.die die).pw.state ≠ .hold ∧ n.marks = some 0 ∧ n.launch = some l ∧ n.succs = [] ∧ tlook s.launches l = some x ∧ x.status = 0 ∧
    x.aborting = false ∧ x.broken = false ∧
    (∀ e ∈ (s.modNode die i fun n => { n with state := .done, completing := none, marks := none }).nodesOf l, e.2.state = .done) :=
  let n : Node := { demoNode .running 0 with completing := some {}, marks := some 0 }
  let x : Launch := { vf := 0, obj := 0, status := 0, die := 0, nodes := [4, 5], nslice := 1 }
  let s : State := { (go.modDie 0 fun d => { d with nodes := [(4, n), (5, demoNode .done 0)] }) with launches := [(7, x)] }
  ⟨0, 4, 7, {}, n, x, s, by decide +kernel, by decide +kernel, (by decide +kernel), by decide +kernel, by decide +kernel, by decide +kernel, (by decide +kernel),
    by decide +kernel, by decide +kernel, (by decide +kernel), by decide +kernel⟩

theorem test_host_message_met : ∃ (m : HostMsg) (v : Vf) (u s : State), commandRead s u (.msg m) ∧ s.fw.recovery = false ∧
    tlook s.vfs m.vf = some v ∧ m.type < 240 ∧ m.tag < 2 ^ 24 ∧ m.words.length ≤ 6 ∧ inQuads v m.core = true :=
  ⟨⟨0, 255, 239, 2 ^ 24 - 1, [1, 2, 3, 4, 5, 6], some 7⟩, bootVf, go, go, .inl ⟨rfl, rfl⟩, by decide +kernel, by decide +kernel, (by decide),
    by decide, by decide, (by decide +kernel)⟩

theorem test_host_command_met (n : Nat) (h : n = 63 ∨ n = 64) : ∃ (c : Command) (rest : List Turn) (v : Vf) (s : State),
    s.agenda = .hostCommand c :: rest ∧ s.fw.recovery = false ∧ tlook s.vfs c.vf = some v ∧
    ((tget s.host.commands [] c.vf).length < tget s.host.commandCounts 64 c.vf ↔ n = 63) := by
  refine ⟨.launch 0 3 none, [], bootVf, { go with agenda := [.hostCommand (.launch 0 3 none)], host :=
    { go.host with commands := [(0, List.replicate n (.launch 0 8 none))] } }, ?_⟩
  rcases h with rfl | rfl <;> decide +kernel

theorem test_vf_create_met : ∃ (v : VfSpec) (s : State), s.fw.recovery = false ∧ v.vf < 384 ∧ tlook s.vfs v.vf = none ∧ v.quads ≠ [] ∧
    (∀ q ∈ v.quads, q < 512) ∧ (∀ q ∈ v.quads, ∀ w ∈ s.vfs, q ∉ w.2.quads) ∧ (∀ e ∈ v.peers, e.1 < 1024) ∧
    (∀ e ∈ v.paths, e.1 < 8 ∧ e.2.port < 16 ∧ e.2.entropy < 65536) ∧ ∀ e ∈ v.windows, e.1 < 256 :=
  ⟨⟨383, [64, 511], 0, 0, [], [], [(7, ⟨15, 65535⟩)], []⟩, go, by decide +kernel, by decide, (by decide +kernel), by decide, by decide,
    (by decide +kernel), by decide, by decide, (by decide)⟩

theorem test_recovery_met : ∃ s : State, s.fw.recovery = true := ⟨{ go with fw := { go.fw with recovery := true } }, rfl⟩

/-- R433: an entry held on die 0 moves into a ring that has grown. -/
theorem test_ring_grows_met : ∃ (vf v k : Nat) (f : Vf) (m : Msg) (s : State), s.fw.recovery = false ∧ tlook s.vfs vf = some f ∧ k < 11 ∧
    v = 64 * 2 ^ k ∧ s.host.heldEntries = [(vf, true, m)] ∧ s.host.pfHeld = [] ∧ (tget s.host.events {} vf).entries.length < v :=
  ⟨0, 128, 1, bootVf, demoMsg 253, { go with host := { go.host with heldEntries := [(0, true, demoMsg 253)] } }, by decide +kernel,
    by decide +kernel, by decide, rfl, by decide +kernel, by decide +kernel, by decide +kernel⟩

theorem test_vf_met : ∃ (vf : Nat) (f : Vf) (s : State), s.fw.recovery = false ∧ tlook s.vfs vf = some f :=
  ⟨0, bootVf, go, by decide +kernel⟩

theorem test_unload_met : ∃ (vf obj : Nat) (o : Obj) (v : Vf) (s : State), s.fw.recovery = false ∧ tlook s.vfs vf = some v ∧
    tlook v.objs obj = some o ∧ (∃ k, k ∈ o.slots ∧ (tlook v.segs k).isSome) :=
  ⟨0, 3, demoObj, { bootVf with objs := [(3, demoObj)] }, withObj demoObj, by decide +kernel, by decide +kernel, by decide +kernel, 1, by decide +kernel,
    by decide +kernel⟩

/-- An object image with one code section of one word. -/
def demoImage : List Byte :=
  [0x4B, 0x45, 0x4E, 0x31, 1, 0, 1, 0] ++ List.replicate 16 0 ++ [1, 0, 0, 0] ++ List.replicate 36 0 ++
    [1, 0, 0xFF, 0xFF, 4, 0, 0, 0, 80, 0, 0, 0, 4, 0, 0, 0] ++ [1, 2, 3, 4]

theorem test_object_load_met : ∃ (vf name : Nat) (img : List Byte) (place : List SegPlace) (v : Vf) (s u : State),
    s.fw.recovery = false ∧ tlook s.vfs vf = some v ∧ tlook v.objs name = none ∧ objectOk img = true ∧ placeOk v img place = true ∧
    writeSegments s vf img place v.key (sectsOfKinds img [1, 3, 4, 8]) = some u ∧ (∃ e ∈ segmentsOf img place, e.1 = 2) := by
  have h : (writeSegments (withVf { bootVf with segs := [] }) 0 demoImage [⟨0, 2, 0x1FFFC⟩] 0 
    (sectsOfKinds demoImage [1, 3, 4, 8])).isSome = true := by decide +kernel
  obtain ⟨u, e⟩ := Option.isSome_iff_exists.mp h
  exact ⟨0, 3, demoImage, [⟨0, 2, 0x1FFFC⟩], { bootVf with segs := [] }, withVf { bootVf with segs := [] }, u, by decide +kernel,
    by decide +kernel, (by decide +kernel), by decide +kernel, by decide +kernel, e, ⟨2, ⟨0x1FFFC, 4, 10⟩⟩, by decide +kernel, rfl⟩

theorem test_debug_command_met : ∃ (vf c i num : Nat) (ref : Word) (x : Ctx) (s : State), parkNamed ref num ∧
    s.findPark c num = some (.ctx i, x) ∧ x.id.vf = vf ∧ (s.vf vf).debug = true ∧ s.fw.recovery = false ∧
    s.host.pf.length < s.host.pfCount :=
  ⟨0, 0, 1, 9, 0x90001, parkedCtx1 9, { forPark 0 0 with vfs := [(0, { bootVf with debug := true })] }, by unfold parkNamed; decide,
    by decide +kernel, by decide +kernel, (by decide +kernel), by decide +kernel, by decide +kernel⟩

theorem test_debug_none_met (recovery : Bool) : ∃ (vf c num : Nat) (ref : Word) (s : State), parkNamed ref num ∧
    (∀ p x, s.findPark c num = some (p, x) → x.id.vf ≠ vf ∨ (s.vf vf).debug = false ∨ s.fw.recovery = true) := by
  refine ⟨0, 0, if recovery then 9 else 8, if recovery then 0x90001 else 0x80001,
    { forPark 0 0 with fw := { go.fw with recovery := recovery } }, ?_⟩
  cases recovery
  · refine ⟨by unfold parkNamed; decide, fun p x e => ?_⟩
    have h : (forPark 0 0).findPark 0 8 = none := by decide +kernel
    exact absurd (h.symm.trans e) (by simp)
  · exact ⟨by unfold parkNamed; decide, fun _ _ _ => .inr (.inr rfl)⟩

/-- An image that runs, its version first. -/
def demoFw : List Byte := [2, 0, 77]

theorem test_quote_met (who n : Nat) (h : who = 0 ∨ who = 0xFFFF) (k : n = 2 ^ 40 - 1 ∨ n = 2 ^ 40) : ∃ (img : List Byte) (s : State),
    s.fw.image = some img ∧ (s.die 0).pw.level ≠ 0 ∧ (s.die 0).pw.state = .run ∧ 
    (who = 0xFFFF ∨ s.fw.recovery = false ∧ (tlook s.vfs who).isSome = true) ∧ s.host.pf.length < s.host.pfCount ∧
    (s.fw.attest < 2 ^ 40 ↔ n = 2 ^ 40 - 1) := by
  refine ⟨demoFw, { go with fw := { go.fw with image := some demoFw, attest := n } }, ?_⟩
  rcases h with rfl | rfl <;> rcases k with rfl | rfl <;> decide +kernel
/-! ## Witnesses: start, power, resets -/

/-- A boot image of 2,890 bytes: version 2, a key, and the key's XMSS-SHAKE256_20_256 signature over the other bytes, made with a signer
written apart from this model (R430, L82). -/
def signedImage : List Byte := ((
  [0x328d4638b2bce20df3552d23cd7128d369f0cd14d9979c6d180000000000000000000000000000000000000000000000000000000000a5a505002211111111111111111111111111111111111111111111111111111111111111ecad69a5e080c7671a4e4ae4f4b76210652e13ac8e750306a30b2dcf7533e8fa120000000002,
   0xa2792dd030ed197afd8c15d1854004cffc9e83e9677c68d16f8dbc112d81ef9dd3eb380a8afc7dcaf6875d8bcc38e6aaac36fc20f87266c7a4a1277916e204862b305a3056235d8540f470c61efe825929e6c0a317c1e3a46428dafdb50bb8d70e2b63c9109bea6cfd73ee3cbc6d0b0ea1a61251d56ccddfd68ad5ce4efdcdf5,
   0xa8f69fb026ae9b311e6c536d26aacccba493001007ab6a9df459e1ca628e8dc23bb25e3136f68239f46e25d3f2ec49117bee40ffbb10ed3c9496d3cd9786dd29b4f789fa839e99ec7c799af4df602f4075a330a9a83e837e119dc8950b8c738920b78a4206bda612350505328b181818a2c653d559fdbcd9f7205d4b1d12c68,
   0xcb1d225d07cb32d57103f3131edca3a3f718e497e1921cffae1fb741f639194917045b96d80baf12002c4ded306bfb7fb6b787c4aea22e5689484e0ee4c1631a1bd34f44287691fde978c37e78f06b4c688da658d6a0f8ce065440ad278eaef4d48807f58521483ad1edacad90ac13b0cfe5107379124ba570dc43ffa155778f,
   0x11d8a70fea9afebd708ce58eb99305b41291b6f544706d35e04bcf3be7de7828028e3033a188981abd0cd2a08f5914a1104a6efd6ebae27e41ed3798007ab4b25aca538e4ce7127fac74cd00b92e89d7fbece5bc03fa5db72ce4bd7e2da5e3313c70d77e576c50d075a2aab7a1cd859dac83ab0710453a7c3b823791ecc3e9d9,
   0x2dc219bcaca5ee1833dbdf88e018c087a0a71b9e4e27c3ff02b31c8ce83db805aa7034980ac238f456a82c5f9d0d6acdcd255d23ac750f569a424226aaaef1a08f4734a554de38dcdcb2248a56e4f1af8b2e66ad724862a72b5b8e967629fb9f2a26ff57cae7567bb3b01ea303249c3a472139bda0874ff4cb0f755febc0414a,
   0x27cd0ee1bd97e650741e305e77fc44cb90a056c9e1bf33d2730b35e81507ac6c28d4a021adf81ec108bfee57739237d575706c9d07292e21f65879c62970e9b938e65e824e90ab8904f76586ba8e513fea4a83e8c9a6aa06620eb50abb0dad49fa12ffb8c2aaa19a980d0733237d9e3ebbc527c9e8ae0889850ae09a0126fcab,
   0x7178fddb199105eb357409b4352831a2c57b0f80f13f8217522831386ec9319e3ff2da9205d9db9dbfab442e7692b673ad992fedc5f1a0a5c45cd5ada2dabc8918337c145a274a0ad09034dc680453f3c5925ca4f65b6f201d99c00c0167fb31427d0ff7a9bccc0971b8096d061f1603799e8442c562df175d869036cee64361,
   0x3032923edc3abfaa4c4973d2d12b7624464a47a2ec3c6fe38680f3e47457edb841e26f9adab8353064e3e543aea90178a0227d7591b3a5af057ef7a5be5da6957b7cc3895391e7586dd0a3c535611160d354bb2a924bcd44b955c3fee62b9679ea4c0edb5442ee4c081622836a16f6053b575ef2fae6d6e9d9c9f024bf84b7c7,
   0x95304eb5af54bdcd3e0d51080873f5127ffcc71fac136539bc1efbbe6a9afa44a1b495784489fdda284910c60cce9442d8caae96e3264622e66bd73198d28dce971a7e4f229b4be041c67b5b5b167f1e386ae3fb0329fc55f3875a74732e54c5f00b66d71662ece55d5d7681ef04b0d53593d4d2917855b8648c8bef0426a57d,
   0xbc353c0b5adf4f0b7b29ac78ed92ead31406786d0e2e472d0ae4144f3b6c5a50c9eb3999e34dc59e0f23e6b3e5e9768ec2c8a3157bd828347597ea427c4173184a392fac0b57e583be908219958bde9e2f43e19795722fa5104513d98da9c15880d7e2e9477f4b829d7e087cf7280a04512a5b3caba5a69613bd0804e113a9fc,
   0x12e254dc9193632aa00453cc9c8e002d5e7f15321e9de67ed4c47cb5de9d3d4eeb2f5e6fc7454ea2fc783a2ed5aba0024201610fac7eab588a2d87c8605aa97ae3d8ae719b125e3a6cb0ca965490e1c2fd9d0b79893db281b1ed7853676dc94e738d42d30b47c3059f075433623a9c9c1c91a579a389eae8c1bd41a2f479f294] ++
  [0x349a05c516c8111b07d5d2cb925879db8b321561a8125282944e5091ba9be0f61fdcbfe4ff6d730063f0511a9b8d6e3194209ffd5c991d68f59143380a9d532e93000bf4f868948d747dbcab69ef7cd11283b545d6f8bf6ac6dfc07e7deb43c51bd1172c24863c15e73ff27b8114b2ba7c44f98d9edf37f2cc1858b38b9be37,
   0xcc5bd139fd2fef941ebed985e9fe5bc2443a445994894ab7ec5ffaa59ca6b8df28e1135bde1a6aacad046a4a7cd227adda6809589b2fafacd7e9e2cdc2c591725742fbb60de948019ff64ce7b4d921cb037e0a56bfd90414842bab62c78f11c02078c55e85bb4c76bfb838d2171a2f7588d05ef23ef91eef6112470cd6c6ab24,
   0xea34f798175b765b3368f860b956205f47980b909ee722207ea67addc061d75d9f5f47dfb0e8e1f8d68aa831c8a5ae4f2391b703eccb1e09654666fcfff5a920b79df19b391dd75606444c72e1a641af37e3485e31c78fc906f39f0722dbcdc58562547cbb918e7f28d4c6ced2ed654080d3a6ac7507234a0dde2400360ab33,
   0xf23725a748faabc40779a17928038d73b88ac469e87f644f89a7199bac2b8ad4a5e153ffb8f622bb77863c39fba480314469e303e01b2af498c382fbaa2f0c7df49d16887e989850d0cc1bf49553b4cea7dbb37f69e0ddb8837baba191a0ec6a3e299af45e00a6bd2767e67b1afc11a006541ec50f55b6e70605835ab0f2ba25,
   0xf7c550399f735d4619c537cee131590a30e42234e499a84247f29ecd1430dc806419d617beb87a8f41c3f62bba4c553fa15b4a7bd40f0e3b8c31d651119347d90a5b2da32cbfdb936812014edfd37592cfeef362e038355b0b4cde5975fe2ca90bc117475a502a43574140cb67532dc440d5606d82aaeb8d765f2d5e78d21032,
   0x7696a6cecc1b78e510617311d8a3c2ce6f447ed4d57b1e2feb89414c343c1027c4d1c386bbc4cd613e30d8f16adf91b7584a2265b1f5cce6bbc10d9e8cf6817fa42d9121a8544e4642abae8f4c9e08b9671637bf49bd21d107fb8dc3dac81a615907c49f6ddcdc1ad14fa2f6b357a18cc22355bfd3a249bc57c492f30ba4a68e,
   0x8ad9f06c144a025b413f8a9a021ea648a7dd06839eb905b6e6e307d4bedc51431193e6c3f3391a2b8f1ff1fd42a29755d4c13a902931cd447e35b8b6d8fe442e3d437204e52db2221a58008a05a6c4647159c324c9859b810e766ec9d28663ca828dd5f4b3b2e4b06ce60741c7a87ce42c8218072e8c35bf992dc9e9c616612e,
   0x9e3fa46d6753ec148cb48e73ca47ea90a8f0d66b829e6a8ac4ba05805975ed2f89d94a2f20aaf3c64af775a89294c2cd789a380208a9ad45f23d3b1a11df587fd2803bab6c398d88348a7eed8d14f06d3fef701966a0c381e88f38c0c8fd8712b8bc076f3787b9d179e06c0fd4f5f8130c4237730edfafbd67f9619699cfe198,
   0xd2bc815a47c5f0dfb4a5d8a064df7fd63116e1ea24c4f9341c68966baea148beab134da98f1d3099fdf5ab99254ae901e35cd47d380d81f9c1f66c0f3459f79b17aeefba91fc803468b6b610a9f7f9270f4eb8b333a8e5446dd4552b82f6be3edc0a1ef2a4f04be03db0dc2574bdb94067edfe175330a11d459a2f978d871999,
   0x8a437d5c8dfc5eda92d864ac5db9d707107e855c384429e821a4c74803e31ba1621582283d15a9ec0806705fca161622bd795fec898fbcfbb050acab1a6bc69d4bd8b3fa7aa7e1fab9d78c7e134f5dfbd3d12c4a3698aa2ca1af6a107b75677f6cbdcc22af58be6521cc3e2434e37af027bc08d6af57da71144896c8da1964b2,
   0x326324dfb695ffb3a1890c78092b4d42b28fef02b9c014ea5ac06d864c2f2e39403560d97dae38d9d643c25fbb230bbd92a4aa2b410d93c4efbc8d60b21fbac78255d6807923986bb96] : List Nat).map (leBytes 128)).flatten.take 2890

/-- The SHAKE256 hash of that image's key, as another implementation gives it. -/
def signedKeyHash : BitVec 256 := 0x4f08a9d746a6eab3996a0a44ab62fbc6c1bc3deefd903dec57edeb2922d29e87

/-- R430: the signature verifies. -/
theorem test_signature_verifies :
    xmssVerifies ((signedImage.drop 2).take 68) ((signedImage.drop 70).take 2820) (signedImage.take 70 ++ signedImage.drop 2890) = true := by
  decide +kernel

/-- The fields of the image but for its signature. -/
theorem signed_fields : signedImage.length = 2890 ∧ shake256 ((signedImage.drop 2).take 68) = signedKeyHash ∧
    leNat ((signedImage.drop 0).take 2) = 2 := by decide +kernel

/-- What the boot ROM says to it: nothing, or that the key's hash or the version is wrong (R430, R431). -/
theorem signed_refused (f : Firmware) (h : f.layout = {}) : imageRefused f signedImage =
    if signedKeyHash ≠ f.romKey then some 2 else if 2 < f.fused then some 3 else none := by
  obtain ⟨l, k, v⟩ := signed_fields
  have s := test_signature_verifies
  simp only [imageRefused, h, l]
  rw [show 70 + 2820 = 2890 from rfl, s, k, v]
  simp

/-- The power part of die 0 replaced. -/
def powered (f : DiePower → DiePower) : State := go.modDie 0 fun d => { d with pw := f d.pw }

/-- An image that the boot ROM accepts, or refuses for a reason. -/
def imageOf : Option Nat → List Byte
  | some 1 => List.replicate 2890 0
  | some 4 => []
  | _ => signedImage

/-- The firmware part that goes with it. -/
def firmwareOf (r : Option Nat) : Firmware :=
  { State.reset.fw with romKey := if r = some 2 then 0 else signedKeyHash, fused := if r = some 3 then 3 else 2, waiting := [6] }

theorem image_refused (r : Option Nat) (h : r = none ∨ r = some 1 ∨ r = some 2 ∨ r = some 3 ∨ r = some 4) {f : Firmware}
    (l : f.layout = {}) (k : f.romKey = (firmwareOf r).romKey) (v : f.fused = (firmwareOf r).fused) : imageRefused f (imageOf r) = r := by
  rcases h with rfl | rfl | rfl | rfl | rfl
  · rw [show imageOf none = signedImage from rfl, signed_refused f l, k, v]; decide +kernel
  · simp only [imageRefused, l, k, v]; decide +kernel
  · rw [show imageOf (some 2) = signedImage from rfl, signed_refused f l, k, v]; decide +kernel
  · rw [show imageOf (some 3) = signedImage from rfl, signed_refused f l, k, v]; decide +kernel
  · simp only [imageRefused, l, k, v]; decide +kernel

theorem test_power_good_met (r : Option Nat) (rec done kept : Bool)
    (h : r = none ∨ r = some 1 ∨ r = some 2 ∨ r = some 3 ∨ r = some 4) : ∃ (die : Nat) (named img : List Byte) (s : State), die < 8 ∧
    (s.die die).pw.level = 0 ∧ (s.die die).pw.state = .run ∧ die ∉ s.fw.waiting ∧ img = s.fw.stored.getD named ∧ s.fw.recovery = rec ∧
    s.fw.recovered = done ∧ s.host.pf.length < s.host.pfCount ∧ imageRefused s.fw img = r := by
  refine ⟨7, if kept then [9] else imageOf r, imageOf r, { State.reset with fw := { firmwareOf r with
    recovery := rec, recovered := done, stored := if kept then some (imageOf r) else none } },
    by decide, rfl, rfl, (by show 7 ∉ [6]; decide), ?_, rfl, rfl, by show 0 < 64; decide, image_refused r h rfl rfl rfl⟩
  cases kept <;> rfl

theorem test_doorbell_met (r : Option Nat) (h : r = none ∨ r = some 1 ∨ r = some 2 ∨ r = some 3 ∨ r = some 4) : ∃ (n d : Nat) (s : State),
    s.fw.recovery = true ∧ n ≤ 2 ^ 26 ∧ imageRefused s.fw (mread s.fw.window 0 n) = r ∧ d ∈ s.fw.waiting := by
  let f : Firmware := { firmwareOf r with recovery := true, window := mwrite [] 0 (imageOf r) }
  refine ⟨(imageOf r).length, 6, { State.reset with fw := f }, rfl, by rcases h with rfl | rfl | rfl | rfl | rfl <;> decide +kernel, ?_,
    List.mem_singleton.mpr rfl⟩
  show imageRefused f (mread (mwrite [] 0 (imageOf r)) 0 (imageOf r).length) = r
  rw [mread_mwrite_same]
  exact image_refused r h rfl rfl rfl

theorem test_window_write_met (b : Bool) (off : Nat) (h : off = 2 ^ 26 - 2 ∨ off = 2 ^ 26 - 1) : ∃ (bs : List Byte) (rest : List Turn)
    (s : State), s.agenda = .windowWrite off bs :: rest ∧ s.fw.recovery = b ∧ (off + bs.length ≤ 2 ^ 26 ↔ off = 2 ^ 26 - 2) := by
  refine ⟨[1, 2], [], { State.reset with agenda := [.windowWrite off [1, 2]], fw := { State.reset.fw with recovery := b } }, rfl, rfl, ?_⟩
  rcases h with rfl | rfl <;> decide

theorem test_stack_met : ∃ (die : Nat) (s : State), (s.die die).pw.level = 1 ∧ (s.die die).pw.state = .run ∧
    (s.die die).pw.stackFailed = false :=
  ⟨0, powered fun p => { p with level := 1 }, by decide +kernel, by decide +kernel, by decide +kernel⟩

theorem test_calibrated_met (b : Bool) : ∃ (die : Nat) (s : State), (s.die die).pw.level = 2 ∧ (s.die die).pw.state = .run ∧
    (portSettled (s.portAt (2 * die)) ∧ portSettled (s.portAt (2 * die + 1)) ↔ b = true) := by
  refine ⟨0, (powered fun p => { p with level := 2 }).modDie 0 fun d =>
    { d with port0 := { d.port0 with trained := true }, port1 := { d.port1 with failed := b } }, ?_⟩
  unfold portSettled
  cases b <;> decide +kernel

theorem test_port_met (b : Bool) : ∃ (port : Nat) (s : State), port < 16 ∧ (s.die (port / 2)).pw.level = 2 ∧
    (s.die (port / 2)).pw.state = .run ∧ ¬ portSettled (s.portAt port) ∧
    ((s.die (port / 2)).pw.calibrated = true ∧ portSettled (s.portAt (otherPort port)) ↔ b = true) := by
  refine ⟨1, (powered fun p => { p with level := 2, calibrated := b }).modDie 0 fun d => { d with port0 := { d.port0 with failed := true } }, ?_⟩
  unfold portSettled
  cases b <;> decide +kernel

theorem test_command_met (st : Power) (busy : Bool) : ∃ (die : Nat) (s : State), (s.die die).pw.state = st ∧
    ((s.die die).pw.trans = none ↔ busy = false) ∧ s.nodesBusy die = false := by
  refine ⟨0, powered fun p => { p with state := st, trans := if busy then some ⟨.hold, .ghz1_25, false⟩ else none }, ?_⟩
  cases st <;> cases busy <;> decide +kernel

theorem test_transition_met (st goal : Power) (dr : Bool) : ∃ (die : Nat) (tr : Transition) (s : State), (s.die die).pw.trans = some tr ∧
    tr.drained = dr ∧ tr.goal = goal ∧ (s.die die).pw.state = st ∧ s.drained die = true ∧ s.fw.image ≠ none := by
  refine ⟨0, ⟨goal, .ghz1_25, dr⟩, { (powered fun p => { p with state := st, trans := some ⟨goal, .ghz1_25, dr⟩ }) with
    fw := { go.fw with image := some demoFw } }, ?_⟩
  cases st <;> cases goal <;> cases dr <;> decide +kernel

theorem test_not_drained_met : ∃ (die : Nat) (tr : Transition) (s : State), (s.die die).pw.trans = some tr ∧ tr.drained = false ∧
    s.drained die = false :=
  ⟨0, ⟨.hold, .ghz1_25, false⟩, { (powered fun p => { p with trans := some ⟨.hold, .ghz1_25, false⟩ }) with reads := [(5, ⟨0, [], 1⟩)] },
    by decide +kernel, by decide +kernel, by decide +kernel⟩

theorem test_trip_met : ∃ (die l : Nat) (x : Launch) (s : State), l ∈ s.launchesWithNode die ∧ tlook s.launches l = some x ∧
    x.status = 0 :=
  let x : Launch := { vf := 0, obj := 0, status := 0, die := 0, nodes := [4], nslice := 1 }
  ⟨0, 7, x, { withNode go (demoNode .running 0) with launches := [(7, x)] }, by decide +kernel, by decide +kernel, by decide +kernel⟩

theorem test_hold_met : ∃ (die c o : Nat) (s : State), (s.die die).pw.state = .hold ∧ o / 32 = die ∧ dieOf c = die :=
  ⟨0, 255, 31, powered fun p => { p with state := .hold }, by decide +kernel, by decide, by decide⟩
/-! ## Witnesses: the fabric's events -/

/-- A remote operation of a kind with one packet, number 9, for 8 bytes at scratchpad address 64. -/
def waitingOp (kind : Nat) (pin : Option Nat) : FabOpRec :=
  { id := 1, kind := kind, pkts := [⟨9, 0, [], false⟩], land := 64, n := 8, off := 0, win := 0, flagged := false, pin := pin, own := {} }

theorem test_fabric_ack_met (kind detail : Nat) (h : kind = 0 ∨ kind = 1 ∨ kind = 2 ∨ kind = 3) (e : detail = 0 ∨ detail = 3) :
    ∃ (a : FabAck) (f : Flow) (o : FabOpRec) (k : FabPkt) (s : State), s.fabPkt a = some (f, o, k) ∧ a.detail = detail ∧ o.kind = kind ∧
    o.n = 8 ∧ s.isRunning f.core = true ∧ f.swe = true := by
  let f : Flow := { demoFlow 1 0 [waitingOp kind none] with swe := true, sw := 128 }
  refine ⟨⟨0, 5, 9, detail⟩, f, waitingOp kind none, ⟨9, 0, [], false⟩, go.modDie 0 fun d => { d with flows := [(5, f)] }, ?_⟩
  rcases h with rfl | rfl | rfl | rfl <;> rcases e with rfl | rfl <;> decide +kernel

theorem test_trim_met (pin : Option Nat) (h : pin = none ∨ pin = some 2) : ∃ (die n pkt : Nat) (f : Flow) (o : FabOpRec) (k : FabPkt)
    (s : State), s.fabPkt ⟨die, n, pkt, 0⟩ = some (f, o, k) ∧ f.ue = true ∧ o.pin = pin := by
  let f : Flow := { demoFlow 1 0 [waitingOp 1 pin] with ue := true }
  refine ⟨0, 5, 9, f, waitingOp 1 pin, ⟨9, 0, [], false⟩, go.modDie 0 fun d => { d with flows := [(5, f)] }, ?_⟩
  rcases h with rfl | rfl <;> decide +kernel

theorem test_timeout_met (err : Nat) (h : err = 0 ∨ err = 3) : ∃ (die n : Nat) (f : Flow) (o : FabOpRec) (rest : List FabOpRec) (s : State),
    tlook (s.die die).flows n = some f ∧ f.ops = o :: rest ∧ f.err = err := by
  let f : Flow := { demoFlow 1 0 [waitingOp 1 none, waitingOp 2 none] with err := err }
  refine ⟨0, 5, f, waitingOp 1 none, [waitingOp 2 none], go.modDie 0 fun d => { d with flows := [(5, f)] }, ?_⟩
  rcases h with rfl | rfl <;> decide +kernel

/-- Windows 0 on a scratchpad and 1 in HBM. -/
def windowed : State :=
  withVf { bootVf with windows := [(0, { home := .spad 1 4096, length := 64, r := true, w := true, a := true }),
                                   (1, { home := .hbm 0x10000, length := 4096, r := true, w := true, a := true })] }

/-- A packet of package 3. -/
def demoPkt (mode seq first off win : Nat) (op : FabOp) (fl : Bool) : FabPacket :=
  { pkg := 3, flow := 2 ^ 20 - 1, opening := 1, seq := seq, first := first, vf := 0, port := 1, win := win, off := off, base := off, len := 8
    op := op, flagged := fl, mode := mode }

theorem test_packet_met (mode : Nat) (op : FabOp) (win : Nat) (h : mode = 0 ∨ mode = 1)
    (k : op = .put [1, 2, 3, 4, 5, 6, 7, 8] ∨ op = .putSw 4 ∨ op = .get 8 ∨ op = .amo 0 1 0) (e : win = 0 ∨ win = 1 ∨ win = 2) :
    ∃ (p : FabPacket) (s : State), newPacket s p ∧ (p.flagged = true → p.first ≤ (targetOf s p).base) ∧ p.mode = mode ∧ p.op = op ∧
    (targetOf s p).next = p.seq ∧ (targetOf s p).waiting = [] ∧ slotFor s p ∧
    (∀ q, q < 16 → (s.portAt q).withheld = (opened s p { targetOf s p with next := p.seq + 1 }).reorderFull (q / 2)) ∧
    ((s.vf p.vf).windows.find? (fun w => w.1 == p.win)).isSome = decide (win < 2) := by
  refine ⟨demoPkt mode 0 0 0 win op true, windowed, ?_⟩
  unfold newPacket verifies slotFor
  rcases h with rfl | rfl <;> rcases k with rfl | rfl | rfl | rfl <;> rcases e with rfl | rfl | rfl <;> decide +kernel

theorem test_packet_refused_met : ∃ (p q : FabPacket) (w : Window) (s : State), newPacket s p ∧ newPacket s q ∧
    (s.vf p.vf).windows.find? (fun w => w.1 == p.win) = some (0, w) ∧ w.length < wholeEnd p ∧
    wholeEnd q = w.length ∧ winAllows w q.op = true ∧ w.home = .spad 1 4096 :=
  ⟨demoPkt 1 0 0 57 0 (.get 8) false, demoPkt 1 0 0 56 0 (.get 8) false, { home := .spad 1 4096, length := 64, r := true, w := true, a := true },
    windowed, by unfold newPacket verifies; decide +kernel, by unfold newPacket verifies; decide +kernel, by decide +kernel, by decide +kernel,
    (by decide +kernel), by decide +kernel, rfl⟩

theorem test_packet_hbm_met : ∃ (p : FabPacket) (base : Nat) (w : Window) (v : State) (bs : List Byte) (s : State), newPacket s p ∧
    (s.vf p.vf).windows.find? (fun w => w.1 == p.win) = some (1, w) ∧ w.home = .hbm base ∧ wholeEnd p ≤ w.length ∧
    winAllows w p.op = true ∧ targetHbm (underWay s p) p (base + p.off) = .ok (v, bs) := by
  let p := demoPkt 1 0 0 0 1 (.get 8) false
  have h : (match targetHbm (underWay windowed p) p 0x10000 with | .ok _ => true | .error _ => false) = true := by decide +kernel
  generalize e : targetHbm (underWay windowed p) p 0x10000 = r at h
  cases r with
  | error _ => cases h
  | ok q =>
    exact ⟨p, 0x10000, { home := .hbm 0x10000, length := 4096, r := true, w := true, a := true }, q.1, q.2, windowed,
      by unfold newPacket verifies; decide +kernel, by decide +kernel, rfl, by decide +kernel, by decide +kernel, e⟩

/-- A get of 600 bytes in the tests' window 0 of 64: its first packet of 8 bytes lies inside, the whole operation does not (R405). -/
theorem test_packet_whole_met : ∃ (p : FabPacket) (w : Window) (s : State), newPacket s p ∧ p.mode ≠ 0 ∧
    (s.vf p.vf).windows.find? (fun w => w.1 == p.win) = some (0, w) ∧ p.off + pktLen p ≤ w.length ∧ w.length < wholeEnd p :=
  ⟨{ demoPkt 1 0 0 0 0 (.get 8) false with len := 600 }, { home := .spad 1 4096, length := 64, r := true, w := true, a := true }, windowed,
    by unfold newPacket verifies; decide +kernel, by decide, by decide +kernel, (by decide +kernel), by decide +kernel⟩

/-- The same flow opened a second time: the context of its first opening is at the die. -/
theorem test_packet_reopened_met : ∃ (p : FabPacket) (s : State), newPacket s p ∧ p.mode = 0 ∧ (targetOf s p).next = p.seq ∧
    (targetOf s p).waiting = [] ∧ ∃ e ∈ s.targets, e.1 / 2 ^ 32 = pktKey p / 2 ^ 32 ∧ e.1 ≠ pktKey p :=
  let p := demoPkt 0 0 0 0 0 (.get 8) false
  ⟨{ p with opening := 2 }, { windowed with targets := [(pktKey p, { next := 4, base := 4 })] },
    by unfold newPacket verifies; decide +kernel, by decide, by decide +kernel, by decide +kernel, ⟨(pktKey p, { next := 4, base := 4 }),
      by decide +kernel, by decide +kernel, by decide +kernel⟩⟩

theorem test_packet_early_met : ∃ (p : FabPacket) (s : State), newPacket s p ∧ (p.flagged = true → p.first ≤ (targetOf s p).base) ∧
    p.mode = 0 ∧ (targetOf s p).next < p.seq ∧ s.reorderBytes p.die + pktLen p ≤ 2 ^ 21 :=
  ⟨demoPkt 0 1 0 0 0 (.get 8) false, windowed, by unfold newPacket verifies; decide +kernel, by decide +kernel, by decide +kernel, (by decide +kernel),
    by decide +kernel⟩

theorem test_packet_flagged_met : ∃ (p : FabPacket) (s : State), newPacket s p ∧ p.mode ≠ 0 ∧ p.flagged = true ∧
    (targetOf s p).base < p.first :=
  ⟨demoPkt 1 3 2 0 0 (.get 8) true, windowed, by unfold newPacket verifies; decide +kernel, by decide, by decide, by decide +kernel⟩

theorem test_packet_again_met (b : Bool) : ∃ (p : FabPacket) (s : State),
    verifies s p ∧ if b then p.seq < (targetOf s p).base else p.seq ∈ (targetOf s p).done := by
  let p := demoPkt 1 3 2 0 0 (.get 8) true
  let t : TargetFlow := if b then { base := 4 } else { done := [3] }
  refine ⟨p, { windowed with targets := [(pktKey p, t)] }, ?_⟩
  unfold verifies
  cases b <;> decide +kernel

/-- The tests' windows, with an operation of package die 0's fabric unit on its way to core 1. -/
def slotTaken : State := windowed.post ⟨1, fabNode 0, 1, .remote (.fabGet 4096 8 5)⟩

theorem test_packet_no_slot_met (mode : Nat) (h : mode = 0 ∨ mode = 1) : ∃ (p : FabPacket) (s : State), newPacket s p ∧
    (p.flagged = true → p.first ≤ (targetOf s p).base) ∧ p.mode = mode ∧ (targetOf s p).next = p.seq ∧ ¬ slotFor s p ∧
    s.reorderBytes p.die + pktLen p ≤ 2 ^ 21 := by
  refine ⟨demoPkt mode 0 0 0 0 (.get 8) false, slotTaken, ?_⟩
  unfold newPacket verifies slotFor
  rcases h with rfl | rfl <;> decide +kernel

/-- A UE port, and peer entries of package 3 with an association or without one. -/
def withPeers (sas : List (Option (BitVec 256))) : State :=
  (withVf { bootVf with peers := sas.mapIdx fun i sa => (i, ⟨true, 3, 0, 7, 100, sa⟩) }).modDie 0 fun d => { d with port1 := { d.port1 with ue := true } }

/-- R419: a tag must verify under the association of the entry. -/
theorem test_verifies_met (sas : List (Option (BitVec 256))) (sa : Option (BitVec 256)) (ok : Bool)
    (h : (sas = [some 7] ∧ sa = some 7 ∧ ok = true) ∨ (sas = [some 7] ∧ sa = none ∧ ok = false) ∨ (sas = [none] ∧ sa = none ∧ ok = true) ∨
      (sas = [] ∧ sa = none ∧ ok = true) ∨ (sas = [] ∧ sa = some 7 ∧ ok = false) ∨ (sas = [none, some 7] ∧ sa = some 7 ∧ ok = true)) :
    ∃ (p : FabPacket) (s : State), verifies s p ↔ ok = true := by
  refine ⟨{ demoPkt 1 0 0 0 0 (.get 8) false with sa := sa }, withPeers sas, ?_⟩
  unfold verifies
  rcases h with ⟨rfl, rfl, rfl⟩ | ⟨rfl, rfl, rfl⟩ | ⟨rfl, rfl, rfl⟩ | ⟨rfl, rfl, rfl⟩ | ⟨rfl, rfl, rfl⟩ | ⟨rfl, rfl, rfl⟩ <;> decide +kernel

theorem test_passed_on_met (op : Nat → RemoteOp) (h : op = (fun k => .fabPut 64 [1, 2] k) ∨ op = (fun k => .fabGet 64 8 k) ∨
    op = (fun k => .fabRaise 64 2 0 k) ∨ op = (fun k => .fabAmo 0 64 1 0 k)) : ∃ (c key seq port : Nat) (rest : List RemoteOp) (s : State),
    opComes s s c none (op (seq + 2 ^ 32 * key)) rest ∧ seq < 2 ^ 32 ∧
    (tget s.targets {} key).busy.find? (fun b => b.1 == seq) = some (seq, port) ∧
    raiseFits (s.core c) (syncWord (s.core c).spad 64) 2 := by
  let key := pktKey (demoPkt 1 0 0 0 0 (.get 8) false)
  let s : State := { opState [op (9 + 2 ^ 32 * key)] demoWords [] with targets := [(key, { busy := [(9, 1)] })] }
  refine ⟨1, key, 9, 1, [], s, ?_⟩
  rcases h with rfl | rfl | rfl | rfl <;>
    exact ⟨⟨by decide +kernel, by decide +kernel, by decide +kernel, .inl ⟨rfl, rfl, rfl⟩⟩, by decide, by decide +kernel,
      by unfold raiseFits roundsOf; decide +kernel⟩

theorem test_flagged_apply_met (n : Nat) (h : n = 1 ∨ n = 2) : ∃ (die k : Nat) (p : FabPacket) (s : State),
    nth ((s.targets.map fun t => t.2.flagged).flatten.filter fun p => p.die == die) k = some p ∧ p.port < 16 ∧ p.flow < 2 ^ 20 ∧
    p.seq < 2 ^ 32 ∧ (∀ b ∈ (targetOf s p).busy, b.1 ≠ p.seq) ∧ slotFor s p ∧ (p.first ≤ (targetOf s p).base ↔ n = 2) := by
  let p := demoPkt 1 3 2 0 0 (.get 8) true
  refine ⟨0, 0, p, { windowed with targets := [(pktKey p, { base := n, flagged := [p] })] }, ?_⟩
  unfold slotFor
  rcases h with rfl | rfl <;> decide +kernel

/-- Port 0 trained in a mode. -/
def withPort (ue : Bool) : State :=
  go.modDie 0 fun d => { d with port0 := { ue := ue, trained := true, rxSeq := 4095, replay := [(7, [1])], lanes := [1, 0, 64, 65] } }

theorem test_flit_met (ok full : Bool) (chan : Nat) (h : chan = 0 ∨ chan = 2) : ∃ (port : Nat) (f : LaceFlit) (s : State),
    (s.portAt port).ue = false ∧ (s.portAt port).trained = true ∧ f.crcOk = ok ∧ f.seq = (s.portAt port).rxSeq ∧
    (s.portAt port).held = [] ∧ f.chan = chan ∧ (s.portAt port).out = [] ∧ (s.portAt port).credits.length = 3 ∧
    (s.portAt port).owed = [0, 0, 0] ∧ (s.portAt port).withheld = full := by
  refine ⟨0, { seq := 4095, chan := chan, crReq := 1, crFwd := 0, crRep := 15, payload := [1, 2], crcOk := ok, corrected := [] },
    (withPort false).modPort 0 fun q => { q with withheld := full }, ?_⟩
  rcases h with rfl | rfl <;> cases ok <;> cases full <;> decide +kernel

theorem test_replay_met : ∃ (port seq : Nat) (e : Nat × List Byte) (s : State), (s.portAt port).ue = false ∧
    (s.portAt port).trained = true ∧ (s.portAt port).replay.find? (fun e => e.1 == seq) = some e :=
  ⟨0, 7, (7, [1]), withPort false, by decide +kernel, by decide +kernel, by decide +kernel⟩

theorem test_scores_met (ue : Bool) : ∃ (port : Nat) (counts : List Nat) (a b c d : Nat) (s : State), (s.portAt port).ue = ue ∧
    counts = [a, b, c, d] := by
  refine ⟨0, [0, 64, 65, 20000], 0, 64, 65, 20000, withPort ue, ?_⟩
  cases ue <;> decide +kernel
/-! ## Witnesses: the machine as a whole -/

/-- Whether a fetch answers the given word. -/
def fetches (s : State) (w : Nat) : Bool :=
  match fetchWord s with
  | .ok r => r.2 == w
  | .error _ => false

theorem fetches_word {s : State} {w : Nat} (h : fetches s w = true) : ∃ v, fetchWord s = .ok (v, w) := by
  unfold fetches at h
  cases e : fetchWord s with
  | error x => rw [e] at h; cases h
  | ok r => rw [e] at h; exact ⟨r.1, congrArg (fun w => Except.ok (r.1, w)) (of_decide_eq_true h)⟩

/-- The state after reset with a word where the next fetch reads, at the moment of the fetch. -/
def placed (w : Nat) : State := (turnBegun (State.reset.withFetchWord 32 w) 0 []).selected 0 [0]

theorem about_placed (w : Nat) (h : w = 0x0C304005 ∨ w = 0xFFFFFFFF) : aboutToFetch (State.reset.withFetchWord 32 w) (placed w) := by
  refine ⟨0, [], .inr ⟨?_, rfl, ?_⟩, ?_, ?_, .inl ⟨(0, (State.reset.withFetchWord 32 w).ctxAt 0 0), ?_, rfl⟩⟩ <;>
    rcases h with rfl | rfl <;> decide +kernel

/-- Two contexts of core 0, ready at one word. -/
def twoCtxs : State :=
  (State.reset.withFetchWord 32 0x0C304005).setCtxAt 0 1 { (State.reset.withFetchWord 32 0x0C304005).ctxAt 0 0 with id := { act := 1, nv := 48 } }

theorem test_two_ready_met : ∃ (s u : State), aboutToFetch s u ∧ (s.core 0).queue.length = 2 := by
  have h : (pickOf (readyIn (turnBegun twoCtxs 0 []) (twoCtxs.core 0).queue)).isSome = true := by decide +kernel
  obtain ⟨x, e⟩ := Option.isSome_iff_exists.mp h
  exact ⟨twoCtxs, _, ⟨0, [], .inr ⟨by decide +kernel, rfl, by decide +kernel⟩, by decide +kernel, by decide +kernel,
    .inr ⟨by decide +kernel, x, e, rfl⟩⟩, by decide +kernel⟩

theorem test_step_met : ∃ (s u v : State) (w : Nat) (i : Instr), aboutToFetch s u ∧ fetchWord u = .ok (v, w) ∧ decodeWord w = .ok i := by
  obtain ⟨v, h⟩ := fetches_word (s := placed 0x0C304005) (w := 0x0C304005) (by decide +kernel)
  exact ⟨_, _, v, _, .addi 3 1 5, about_placed _ (.inl rfl), h, by decide +kernel⟩

theorem test_step_ill_met : ∃ (s u v : State) (w : Nat) (r : IllReason), aboutToFetch s u ∧ fetchWord u = .ok (v, w) ∧
    decodeWord w = .error r := by
  obtain ⟨v, h⟩ := fetches_word (s := placed 0xFFFFFFFF) (w := 0xFFFFFFFF) (by decide +kernel)
  have e : ∃ r, decodeWord 0xFFFFFFFF = .error r := by
    cases k : decodeWord 0xFFFFFFFF with
    | error r => exact ⟨r, rfl⟩
    | ok i =>
      have h : (match decodeWord 0xFFFFFFFF with | .ok _ => false | .error _ => true) = true := by decide +kernel
      rw [k] at h
      cases h
  obtain ⟨r, e⟩ := e
  exact ⟨_, _, v, _, r, about_placed _ (.inr rfl), h, e⟩

/-- The same machine, its context at an address without a segment. -/
def lost : State := go.modCtx fun x => { x with pc := mkPtr 0 permX 9 0 }

theorem test_step_fault_met : ∃ (s u v : State) (f : FaultInfo), aboutToFetch s u ∧ fetchWord u = .error (.trap f v) ∧ f.addr = true ∧
    f.write = false ∧ f.debug = false ∧ f.lift = none ∧ f.rep = none ∧ u.merging = false := by
  have h : (match fetchWord ((turnBegun lost 0 []).selected 0 [0]) with
    | .error (.trap f _) => f.addr && !f.write && !f.debug && f.lift.isNone && f.rep.isNone
    | _ => false) = true := by decide +kernel
  generalize e : fetchWord ((turnBegun lost 0 []).selected 0 [0]) = r at h
  cases r with
  | ok q => cases h
  | error x =>
    cases x with
    | trap f v =>
      simp only [Bool.and_eq_true, Bool.not_eq_true', Option.isNone_iff_eq_none] at h
      exact ⟨lost, _, v, f, ⟨0, [], .inr ⟨by decide +kernel, rfl, by decide +kernel⟩, by decide +kernel, by decide +kernel,
        .inl ⟨(0, lost.ctxAt 0 0), by decide +kernel, rfl⟩⟩, e, h.1.1.1.1, h.1.1.1.2, h.1.1.2, h.1.2, h.2, by decide +kernel⟩
    | _ => cases h

theorem test_step_event_met : ∃ (s : State) (i : Instr) (rest : List Turn), s.agenda = .event i :: rest ∧ i.isEvent = true :=
  ⟨{ go with agenda := [.event (.thermalWarning 0), .core 1] }, .thermalWarning 0, [.core 1], rfl, by decide +kernel⟩

theorem test_fetch_met : ∃ (s u : State) (va pa : Nat) (nc : Bool), pointerCheck s s.ctx.pc permX 4 false = .ok va ∧
    tlook (s.core s.cur).icache (lineKey s.ctx.id.vf va) = none ∧ translate s s.ctx.pc va permX false = .ok (u, pa, nc) ∧
    pa % 64 = va % 64 ∧ va % 4 = 0 ∧ u.memUp (homeDie pa) = true ∧ u.poison.contains (granuleOf pa) = false := by
  have h : (match translate go go.ctx.pc 0x10000 permX false with
    | .ok r => r.2.1 % 64 == 0x10000 % 64 && r.1.memUp (homeDie r.2.1) && !r.1.poison.contains (granuleOf r.2.1)
    | .error _ => false) = true := by decide +kernel
  generalize e : translate go go.ctx.pc 0x10000 permX false = r at h
  cases r with
  | error x => cases h
  | ok q =>
    simp only [Bool.and_eq_true, Bool.not_eq_true', beq_iff_eq] at h
    exact ⟨go, q.1, 0x10000, q.2.1, q.2.2, by decide +kernel, by decide +kernel, e, h.1.1, by decide, h.1.2, h.2⟩

theorem test_encode_met : ∃ (i : Instr) (w : Nat), i.wf = true ∧ encode i = some w :=
  ⟨.addi 31 31 16383, 0x0DF7FFFF, by decide +kernel, by decide +kernel⟩

theorem test_reset_canonical : State.reset.memoriesWf = true := by decide +kernel
/-! ## Ill-formed instructions, one for each check of `WellFormed` -/

theorem test_ill_scalar_and_hints : ∀ e ∈ (
    [(.trap 32, .scalarField), (.add 32 0 0, .scalarField), (.add 0 32 0, .scalarField), (.add 0 0 32, .scalarField),
     (.frec 1 2 6, .fieldValue), (.frec 1 2 64, .fieldValue), (.hjoin 0, .hintPayload), (.hjoin (2 ^ 21), .hintPayload),
     (.hbank 192, .hintPayload), (.hstall 0, .hintPayload), (.hstall 256, .hintPayload), (.htake 3 1, .hintPayload),
     (.htake 0 0, .hintPayload), (.hext (2 ^ 22), .fieldValue), (.addi 1 2 (2 ^ 14), .fieldValue), (.jr 31, .fieldValue)] :
      List (Instr × IllReason)), e.1.illReason = some e.2 ∧ e.1.wf = false := by decide +kernel

theorem test_ill_memory : ∀ e ∈ (
    [(.lds 1 2 3 0, .selector), (.ld 1 2 4 0, .fieldValue), (.vld 48 1 0 0, .operandCode), (.vst 60 1 0 0, .operandCode),
     (.vst 64 1 0 0, .operandCode), (.vgat 1 2 48 0, .operandCode), (.mputv 1 63, .operandCode), (.cpy 1 2 3 4 1, .fieldValue),
     (.cpy 1 2 3 4 8, .unusedField), (.fenceAcq 0 3, .selector), (.fenceAcq 1 0, .unusedField), (.amoadd 1 2 3 1 0 0 0, .unusedField),
     (.amocas 1 2 15 0 0 0 0 0, .fieldValue)] : List (Instr × IllReason)), e.1.illReason = some e.2 ∧ e.1.wf = false := by decide +kernel

theorem test_ill_tasks : ∀ e ∈ (
    [(.send 1 2 7 0, .fieldValue), (.send 1 2 0 0, .unusedField), (.send 1 28 5 0, .fieldValue), (.sendv 1 63 0 0, .operandCode),
     (.msgrd 1 9, .fieldValue), (.msgrd 1 32, .fieldValue), (.hcfg 51 1 0 0 0, .operandCode), (.hcfg 60 1 0 0 0, .operandCode),
     (.hcfg 52 1 0 10 0, .fieldValue), (.hadv 52 0, .fieldValue), (.hadv 52 64, .fieldValue)] : List (Instr × IllReason)),
    e.1.illReason = some e.2 ∧ e.1.wf = false := by decide +kernel

theorem test_ill_vector : ∀ e ∈ (
    [(.vadd 60 1 2 0 0, .operandCode), (.vadd 62 1 2 0 0, .operandCode), (.vadd 1 63 2 0 0, .operandCode), (.vadd 52 52 1 0 0, .sameHandle),
     (.vadd 52 1 52 0 0, .sameHandle), (.vshl 1 2 3 0 3, .typeCode), (.vceq 0 1 2 0 0, .predicateField), (.vceq 8 1 2 0 0, .predicateField),
     (.vceq 1 1 2 0 1, .typeCode), (.vext 1 2 32 0, .fieldValue), (.vsld 1 2 32 0, .fieldValue), (.vrcp 1 2 0 3, .typeCode),
     (.vsqt 1 2 0 4, .typeCode), (.vcvt 1 2 13 0 0, .typeCode), (.vcvt 1 47 8 0 0, .operandCode), (.vcef 47 1 1 0 0, .operandCode),
     (.vcef 1 2 1 0 1, .typeCode), (.vcef 1 2 0 0 0, .typeCode), (.vcef 1 47 9 0 0, .operandCode), (.vpak 1 47 1 0 0, .operandCode),
     (.vpak 1 2 0 0 0, .typeCode), (.vpak 1 2 8 0 1, .typeCode), (.vunp 1 2 0 0 0, .typeCode), (.vtki 1 2 32 0 0, .fieldValue),
     (.vtki 1 2 0 0 1, .typeCode)] : List (Instr × IllReason)), e.1.illReason = some e.2 ∧ e.1.wf = false := by decide +kernel

theorem test_ill_complexes_matrix_lift_fabric : ∀ e ∈ (
    [(.cxbind 1 2 2, .slotField), (.cxinfo 1 6 0, .fieldValue), (.kdef 16 1 2, .cochainField), (.kinfo 1 2 3, .fieldValue),
     (.kd 1 2 5, .roundingCode), (.mmclr 0, .fieldValue), (.mmclr 16, .fieldValue), (.mmsta 1 2, .fieldValue), (.rep 0 0, .fieldValue),
     (.rep 4096 0, .fieldValue), (.laxisTag 1 8 2, .fileField), (.lred 0 1 0 0 2 0, .fileField), (.lred 1 8 0 0 2 0, .fileField),
     (.lred 1 2 0 0 0 0, .typeCode), (.fstat 1 2 9, .fieldValue), (.rget 1 2 3 1, .unusedField), (.ramo 1 2 3 10, .fieldValue),
     (.packageReset, .notAWord)] : List (Instr × IllReason)), e.1.illReason = some e.2 ∧ e.1.wf = false := by decide +kernel

/-! ## Words written out from the spec's encodings -/

theorem test_decode_base : ∀ e ∈ (
    [(0x00000000, .trap 0), (0x00000001, .brk), (0x00C16308, .frec 12 5 35), (0x00D14009, .fres 13 5 0),
     (0x00D1400A, .fabt 13 5), (0x00C28B10, .icinv 12 10 11), (0x00C28B11, .tlbinv 12 10 11), (0x044048D1, .hext 0x48D1),
     (0x04000000, .hnop), (0x04800000, .hreg), (0x04C00003, .hjoin 3), (0x06000007, .hlay 7), (0x08304200, .add 3 1 2),
     (0x08724A06, .divn 7 9 10), (0x0841802A, .popc 4 6), (0x08C30D3C, .padd 12 12 13), (0x0837C032, .sxw 3 31),
     (0x0C304005, .addi 3 1 5), (0x0C515678, .addi 5 5 0x1678), (0x245048D1, .ldhi 5 0x48D1), (0x2C900000, .rdsr 9 0),
     (0x2C025020, .wrsr 9 0x020), (0x3C300003, .bge 3 0 3), (0x54303FFE, .loop 3 0x3FFE)] : List (Nat × Instr)),
    decodeTableWord 32 e.1 = some e.2 ∧ encode e.2 = some e.1 := by decide +kernel

theorem test_decode_memory : ∀ e ∈ (
    [(0x5840A803, .lds 4 2 2 3), (0x58907000, .ld 9 1 3 0), (0x5C037FFF, .st 0 13 3 0xFFF), (0x60104000, .vld 1 1 0 0),
     (0x64304000, .vst 3 1 0 0), (0x601752F0, .vlds 1 29 1 30), (0x643752F0, .vsts 3 29 1 30), (0x68214720, .vgat 2 5 7 1),
     (0x6C5A8C09, .mget 11 10 12 9), (0x6F048101, .mputvR 18 1), (0x7073DAC0, .cpy 14 15 13 12 0),
     (0x74634000, .swinit 12 13 0), (0x75600000, .swwait 12 0), (0x777C0000, .swadd 15 16)] : List (Nat × Instr)),
    decodeTableWord 32 e.1 = some e.2 ∧ encode e.2 = some e.1 := by decide +kernel

theorem test_decode_ordering : ∀ e ∈ (
    [(0x7C003028, .fenceRel 12 2), (0x826F7228, .amoswp 9 11 13 12 2 2 0), (0x82443098, .amoor 9 1 0 12 1 2 0),
     (0x84E40005, .barrv 1 9 0 5), (0x85424005, .barwt 1 9 0 5), (0x84428005, .barcfg 1 10 0 5),
     (0x85C00800, .barsy 1 2 0)] : List (Nat × Instr)),
    decodeTableWord 32 e.1 = some e.2 ∧ encode e.2 = some e.1 := by decide +kernel

theorem test_decode_messages : ∀ e ∈ (
    [(0x8C000002, .done), (0x8C000003, .refuse), (0x8CF41100, .bind 15 16 17), (0x9145401E, .jset 20 21 30),
     (0x91601000, .arrive 22 0), (0x9F425A00, .hcfg 52 9 3 4 0)] : List (Nat × Instr)),
    decodeTableWord 32 e.1 = some e.2 ∧ encode e.2 = some e.1 := by decide +kernel

theorem test_decode_vector : ∀ e ∈ (
    [(0xA0824A47, .vfma 8 9 10 2 1), (0xB4350016, .vbc 3 20 0 5), (0xB0108316, .vclt 1 2 3 0 5),
     (0xB0103D15, .vcne 1 0 61 0 5), (0xBC718014, .vrsum 7 6 0 5), (0xB4A1C017, .vext 10 7 0 5)] : List (Nat × Instr)),
    decodeTableWord 32 e.1 = some e.2 ∧ encode e.2 = some e.1 := by decide +kernel

theorem test_decode_cochain : ∀ e ∈ (
    [(0xD4928000, .cxbind 9 10 0), (0xD4151508, .kdef 1 20 21), (0xD8C80000, .kd 3 2 0), (0xD8840000, .kd 2 1 0),
     (0xD8400008, .kspush 1), (0xD840000A, .kswait 1), (0xDA600001, .kdt 9 8 0), (0xD9500001, .kdt 5 4 0),
     (0xD9400009, .kacc 5 0), (0xDD0C0000, .kstar 4 3 0), (0xDD940000, .kstar 6 5 0), (0xDCC80002, .kcod 3 2 0),
     (0xDD048003, .kdot 4 1 2 0), (0xE50C8003, .ksc 4 3 2 0), (0xE5450000, .kadd 5 1 4 0), (0xE4480004, .kmov 1 2),
     (0xE4840010, .kcvtBx 2 1 0), (0xE54C0011, .kcvtF32 5 3 0), (0xE8928B01, .rmpoke 9 10 11 1), (0xE8930040, .rmcmit 9 12 0),
     (0xE8308050, .kxfer 3 2 0)] : List (Nat × Instr)),
    decodeTableWord 32 e.1 = some e.2 ∧ encode e.2 = some e.1 := by decide +kernel

theorem test_decode_matrix : ∀ e ∈ (
    [(0xEC050000, .mmcfg 20), (0xEC054710, .mmldb 21 7 0), (0xEC058020, .mmzp 22), (0xEC003D30, .mmcnt 0 61),
     (0xEC010540, .mmmul 4 5), (0xEC000050, .mmdrn), (0xECA2C060, .mmmrg 10 11), (0xEC000074, .mmclr 4),
     (0xEC900080, .mmsta 9 0), (0xF005D800, .sacc 23 24 0), (0xF0064010, .mmst 25 0),
     (0xF0010120, .rep 4 1)] : List (Nat × Instr)),
    decodeTableWord 32 e.1 = some e.2 ∧ encode e.2 = some e.1 := by decide +kernel

theorem test_decode_lift : ∀ e ∈ (
    [(0xF4000010, .lret), (0xF4900020, .laxis 9 0), (0xF4D30034, .lred 13 12 0 0 0 4), (0xF4304A44, .lsel 3 1 10 1 0),
     (0xF4414055, .lbc 4 5 1 1), (0xF410006C, .ltag 1 0), (0xF4A00070, .lidx 10 0)] : List (Nat × Instr)),
    decodeTableWord 32 e.1 = some e.2 ∧ encode e.2 = some e.1 := by decide +kernel

theorem test_decode_fabric : ∀ e ∈ (
    [(0xF8928B00, .fopen 9 10 11), (0xF8030010, .fclose 12), (0xF8031120, .fpath 12 17), (0xF9030330, .fstat 16 12 3),
     (0xF8C34E40, .rget 12 13 14 0), (0xF8C34E50, .rput 12 13 14 0), (0xF8C34E5A, .rput 12 13 14 10),
     (0xF8C34E60, .ramo 12 13 14 0), (0xF8030070, .fwait 12), (0xF8C00F80, .rputSw 12 15 0),
     (0xF8C00D8B, .rputSw 12 13 11)] : List (Nat × Instr)),
    decodeTableWord 32 e.1 = some e.2 ∧ encode e.2 = some e.1 := by decide +kernel
/-! ## Single steps: values from the worked examples and the rules of the spec -/

/-- What one step answers for a word fetched in a context changed by f; the state itself when the step stops. -/
noncomputable def after (w : Nat) (f : Ctx → Ctx) : State :=
  let s := (State.reset.withFetchWord 32 w).modCtx f
  match step s with
  | .next t => t
  | _ => { s with curCtx := 99 }

/-- Scalar register n after one step. -/
noncomputable def sAfter (w : Nat) (f : Ctx → Ctx) (n : Nat) : Word := (after w f).ctx.sv n

/-- R50 (worked example): hext 0x48D1 and addi s5, s0, 0x1678 give 0x12345678; ldhi s5, 0x48D1 gives the high part. -/
theorem test_addi_ext : sAfter 0x0C501678 (fun x => { x with hints := { ext := [0x48D1] } }) 5 = 0x12345678 := by decide +kernel
theorem test_ldhi : sAfter 0x245048D1 id 5 = 0x12344000 := by decide +kernel
/-- R112: the 14-bit immediate is sign-extended; the sum wraps. -/
theorem test_addi_wraps : sAfter 0x0CB2BFFF (fun x => x.putS 10 (plain 0)) 11 = 0xFFFFFFFFFFFFFFFF := by decide +kernel
/-- Worked encodings of the scalar chapter: add s3, s1, s2 and divn s7, s9, s10. -/
theorem test_add : sAfter 0x08304200 (fun x => (x.putS 1 (plain 0xFFFFFFFFFFFFFFFF)).putS 2 (plain 3)) 3 = 2 := by decide +kernel
theorem test_divn : sAfter 0x08724A06 (fun x => (x.putS 9 (plain 0xFFFFFFFFFFFFFFFF)).putS 10 (plain 2)) 7 = 0x7FFFFFFFFFFFFFFF := by
  decide +kernel
theorem test_popc : sAfter 0x0841802A (fun x => x.putS 6 (plain 0xF0F)) 4 = 8 := by decide +kernel
/-- Register s0 reads zero and discards writes (R41): addi s0, s1, 5. -/
theorem test_zero_register : sAfter 0x0C004005 (fun x => x.putS 1 (plain 9)) 0 = 0 := by decide +kernel
/-- R118: loop s9, +2: the counter falls and the pc goes on by 8 bytes while it is not 0; then the loop falls through. -/
theorem test_loop : let t := after 0x54900002 (fun x => x.putS 9 (plain 2))
    t.ctx.sv 9 = 1 ∧ t.ctx.pc = bootPc + 8 := by decide +kernel
theorem test_loop_ends : let t := after 0x54900002 (fun x => x.putS 9 (plain 1))
    t.ctx.sv 9 = 0 ∧ t.ctx.pc = bootPc + 4 := by decide +kernel
/-- A tree sum: 2^24, 1, 1, −2^24 in lanes 0 to 3 give 1.0, with NX set (R98, worked example). -/
theorem test_tree_sum :
    let v : Vec := 0x4B800000#1024 ||| 0x3F800000#1024 <<< 32 ||| 0x3F800000#1024 <<< 64 ||| 0xCB800000#1024 <<< 96
    let t := after (wordVrsum 7 6 0 0) (fun x => { x with regs := { x.regs with v := [(6, plain v)] } })
    laneOf (t.ctx.vreg 7).val 0 = 0x3F800000 ∧ (t.ctx.sp.fst &&& 1) = 1 := by decide +kernel
/-- Error feedback: −0.1 narrows to bf16 0xBDCD with residual 0x38CCCC00 (R100, worked example). -/
theorem test_error_feedback :
    let v : Vec := 0xBDCCCCCD#1024
    let t := after (wordVcef 7 6 2 0 0) (fun x => { x with regs := { x.regs with v := [(6, plain v)] } })
    (laneOf (t.ctx.vreg 7).val 0).toNat % 65536 = 0xBDCD ∧ laneOf (t.ctx.vreg 8).val 0 = 0x38CCCC00 := by decide +kernel
/-- A lift level: with s9 = 3 in gauge 0 the worked word lcall 3, 0 opens a level of extent 3 and goes to the body. -/
theorem test_lcall : let t := after 0xF4000300 (fun x => { x with sp := { x.sp with gauge := [3, 1, 1, 1] } })
    t.ctx.lift.active = [0, 1, 2] ∧ t.ctx.pc = bootPc + 12 := by decide +kernel
/-- sr.gauge0 ← s9 (the worked word 0x2C025020). -/
theorem test_wrsr_gauge : (after 0x2C025020 (fun x => x.putS 9 (plain 3))).ctx.sp.gauge = [3, 1, 1, 1] := by decide +kernel
/-- A word of the reserved all-ones form is ILL: the activation parks with code 0x01 and the word in sr.fault0 (R58, R255, R256). -/
theorem test_ill : let t := after 0xFFFFFFFF id
    t.ctx.status = .parked ∧ t.ctx.sp.fault.f0 = 0xFFFFFFFF00080001 := by decide +kernel
end

end Sys2Proof.Tests
end

section
/-!
PROOFS. The scalar instructions (R106 to R113): the model's functions of the source values are those of the statements, and a word
that computes one of them writes it and nothing else.
-/

namespace Sys2Proof.Machine

open Claims

/-! ## Values: shifts, divisions, comparisons, extensions (R106, R107) -/

theorem shamt_lt (y : Word) : shamt y < 64 := Nat.mod_lt _ (by decide)

theorem divS_eq (x y : Word) : divS x y = if y = 0 then BitVec.allOnes 64 else x.sdiv y := by
  have h : BitVec.ofInt 64 (x.toInt.tdiv y.toInt) = x.sdiv y := by
    apply BitVec.eq_of_toInt_eq
    rw [BitVec.toInt_ofInt, BitVec.toInt_sdiv]
  rw [divS, h]

theorem remS_eq (x y : Word) : remS x y = if y = 0 then x else x.srem y := by
  rw [remS, ← BitVec.toInt_srem, BitVec.ofInt_toInt]

theorem divN_eq (x y : Word) : divN x y = if y = 0 then BitVec.allOnes 64 else x.udiv y := by
  have h : wd (x.toNat / y.toNat) = x.udiv y := BitVec.udiv_def.symm
  rw [divN, h]

theorem remN_eq (x y : Word) : remN x y = if y = 0 then x else x.umod y := by
  have h : wd (x.toNat % y.toNat) = x.umod y := BitVec.umod_def.symm
  rw [remN, h]

theorem rolW_eq (x : Word) {n : Nat} (h : n < 64) : rolW x n = x.rotateLeft n := by
  rw [BitVec.rotateLeft_def, Nat.mod_eq_of_lt h]
  by_cases h0 : n = 0
  · subst h0; simp [rolW, BitVec.ushiftRight_eq_zero]
  · rw [rolW, if_neg h0]

theorem flag_bne (x y : Word) : flag (x != y) = if x = y then 0 else 1 := by
  by_cases h : x = y <;> simp [flag, h]

/-- Two's complement of `n` bits, read by `sxt`, is the integer value of the bit vector (R4). -/
theorem sxt_eq_toInt {n : Nat} (h : 0 < n) (v : Nat) : sxt n v = (BitVec.ofNat n v).toInt := by
  obtain ⟨n, rfl⟩ := Nat.exists_eq_succ_of_ne_zero h.ne'
  simp only [sxt, BitVec.toInt, BitVec.toNat_ofNat, Nat.succ_eq_add_one, Nat.add_sub_cancel, pow_succ]
  split <;> split <;> omega

theorem sextW_eq {n : Nat} (h : 0 < n) (v : Nat) : sextW n v = (BitVec.ofNat n v).signExtend 64 :=
  congrArg (BitVec.ofInt 64) (sxt_eq_toInt h v)

theorem sextW_setWidth {n : Nat} (h : 0 < n) (x : Word) : sextW n x.toNat = (x.setWidth n).signExtend 64 := by
  rw [sextW_eq h, BitVec.ofNat_toNat]

theorem wd_mod_two_pow (n : Nat) (x : Word) : wd (x.toNat % 2 ^ n) = (x.setWidth n).setWidth 64 := by
  rw [← BitVec.toNat_setWidth, wd, BitVec.ofNat_toNat]

theorem bitExtract_eq (x y : Word) : bitExtract x y =
    let pos := y.toNat % 64
    let len := min (y.toNat / 256 % 128) (64 - pos)
    BitVec.ofNat 64 (x.toNat / 2 ^ pos % 2 ^ len) := by
  simp [bitExtract, fld, bits, wd]

/-! ## Values: counts of bits (R106) -/

theorem bitOf_eq_testBit (x i : Nat) : bitOf x i = x.testBit i := by
  simp [bitOf, Nat.testBit_eq_decide_div_mod_eq, beq_eq_decide]

theorem clzN_eq (n x : Nat) : clzN n x = ((List.range n).takeWhile fun k => !x.testBit (n - 1 - k)).length := by
  induction n with
  | zero => rfl
  | succ n ih =>
    rw [clzN, ih, bitOf_eq_testBit, List.range_succ_eq_map, List.takeWhile_cons, List.takeWhile_map]
    cases h : x.testBit n <;> simp [h, Function.comp_def, Nat.add_comm 1, Nat.sub_sub]

theorem ctzN_eq (n x : Nat) : ctzN n x = ((List.range n).takeWhile fun k => !x.testBit k).length := by
  induction n generalizing x with
  | zero => rfl
  | succ n ih =>
    rw [ctzN, ih, List.range_succ_eq_map, List.takeWhile_cons, List.takeWhile_map]
    by_cases h : x % 2 = 1 <;> simp [h, Function.comp_def, Nat.testBit_succ, Nat.add_comm 1]

theorem popN_eq (n x : Nat) : popN n x = (List.range n).countP fun k => x.testBit k := by
  induction n generalizing x with
  | zero => rfl
  | succ n ih =>
    rw [popN, ih, List.range_succ_eq_map, List.countP_cons, List.countP_map]
    rcases Nat.mod_two_eq_zero_or_one x with h | h <;> simp [h, Function.comp_def, Nat.testBit_succ, Nat.add_comm 1]

/-! ## Words with one and with two sources -/

/-- Operations that agree on all values make the same instruction. -/
theorem alu2_congr {w d a b : Nat} {f : Word → Word → Word} (g : Word → Word → Word) (h : ∀ x y, g x y = f x y) (s : State) :
    alu2 w d a b g s = alu2 w d a b f s := by rw [show g = f from funext fun x => funext (h x)]

theorem alu1_congr {w d a : Nat} {f : Word → Word} (g : Word → Word) (h : ∀ x, g x = f x) (s : State) :
    alu1 w d a g s = alu1 w d a f s := by rw [show g = f from funext h]

/-- An admitted two-source word whose result finds room writes it, and only it (R106, R370). -/
theorem alu2_writesScalar {i : Instr} {s : State} {w d a b : Nat} {f : Word → Word → Word} (he : exec i s = alu2 w d a b f s)
    (h : s.admits { word := w, reads := [a, b], writes := [d] } = true)
    (hr : scalarRoom s d (s.ctx.tagUnion [a, b]) fun k => f (atInst (s.ctx.sreg a) k) (atInst (s.ctx.sreg b) k)) :
    writesScalar i s d (s.ctx.tagUnion [a, b]) fun k => f (atInst (s.ctx.sreg a) k) (atInst (s.ctx.sreg b) k) := by
  unfold writesScalar
  rw [he]
  exact onward_writeS h (by simp) hr

/-- The same for a one-source word (R106, R370). -/
theorem alu1_writesScalar {i : Instr} {s : State} {w d a : Nat} {f : Word → Word} (he : exec i s = alu1 w d a f s)
    (h : s.admits { word := w, reads := [a], writes := [d] } = true)
    (hr : scalarRoom s d (s.ctx.tagUnion [a]) fun k => f (atInst (s.ctx.sreg a) k)) :
    writesScalar i s d (s.ctx.tagUnion [a]) fun k => f (atInst (s.ctx.sreg a) k) := by
  unfold writesScalar
  rw [he]
  exact onward_writeS h (by simp) hr

/-- No reason makes an instruction ill when every check passes (R58). -/
theorem firstIll_eq_none_iff {cs : List (Bool × IllReason)} : firstIll cs = none ↔ ∀ c ∈ cs, c.1 = true := by
  induction cs with
  | nil => simp [firstIll]
  | cons c cs ih =>
    obtain ⟨b, r⟩ := c
    cases b <;> simp [firstIll, ih]

/-- The last field of a well-formed word with two registers fits its width. -/
theorem field_lt {d a v n : Nat} (h : (firstIll [ckScalar d, ckScalar a, ckWidth v n] == none) = true) : v < 2 ^ n := by
  simpa [ckWidth] using firstIll_eq_none_iff.1 (eq_of_beq h) (ckWidth v n) (by simp)

/-- Every two-source instruction executes as `alu2` of the statement's function. The cases named are those where the model writes
that function in other words. -/
theorem exec_twoSource {i : Instr} {d a b w : Nat} {f : Word → Word → Word} (h : twoSource i = some (d, a, b, f))
    (hw : encode i = some w) (s : State) : exec i s = alu2 w d a b f s := by
  unfold twoSource at h
  split at h <;> cases h <;> cases hw
  case h_6 => exact alu2_congr divS divS_eq s
  case h_7 => exact alu2_congr divN divN_eq s
  case h_8 => exact alu2_congr remS remS_eq s
  case h_9 => exact alu2_congr remN remN_eq s
  case h_18 => exact alu2_congr (fun x y => rolW x (shamt y)) (fun x y => rolW_eq x (shamt_lt y)) s
  case h_19 => exact alu2_congr (fun x y => if x.slt y then x else y) (fun x y => if_congr BitVec.slt_iff_toInt_lt rfl rfl) s
  case h_20 => exact alu2_congr (fun x y => if x.slt y then y else x) (fun x y => if_congr BitVec.slt_iff_toInt_lt rfl rfl) s
  case h_21 => exact alu2_congr (fun x y => if x.ult y then x else y) (fun x y => if_congr BitVec.ult_iff_lt rfl rfl) s
  case h_22 => exact alu2_congr (fun x y => if x.ult y then y else x) (fun x y => if_congr BitVec.ult_iff_lt rfl rfl) s
  case h_23 => exact alu2_congr (fun x y => flag (x.slt y)) (fun x y => if_congr BitVec.slt_iff_toInt_lt rfl rfl) s
  case h_24 => exact alu2_congr (fun x y => flag (x.ult y)) (fun x y => if_congr BitVec.ult_iff_lt rfl rfl) s
  case h_25 => exact alu2_congr (fun x y => flag (x == y)) (fun x y => if_congr beq_iff_eq rfl rfl) s
  case h_26 => exact alu2_congr (fun x y => flag (x != y)) flag_bne s
  case h_27 => exact alu2_congr bitExtract bitExtract_eq s
  all_goals rfl

/-- Every one-source instruction executes as `alu1` of the statement's function; `roli` rotates alike because its amount is below 64. -/
theorem exec_oneSource {i : Instr} {d a w : Nat} {f : Word → Word} (h : oneSource i = some (d, a, f))
    (hw : encode i = some w) (hi : i.wf = true) (s : State) : exec i s = alu1 w d a f s := by
  unfold oneSource at h
  split at h <;> cases h <;> cases hw
  case h_1 => exact alu1_congr (fun x => wd (clzN 64 x.toNat)) (fun x => congrArg wd (clzN_eq 64 x.toNat)) s
  case h_2 => exact alu1_congr (fun x => wd (ctzN 64 x.toNat)) (fun x => congrArg wd (ctzN_eq 64 x.toNat)) s
  case h_3 => exact alu1_congr (fun x => wd (popN 64 x.toNat)) (fun x => congrArg wd (popN_eq 64 x.toNat)) s
  case h_4 => exact alu1_congr (fun x => sextW 8 x.toNat) (sextW_setWidth (by decide)) s
  case h_5 => exact alu1_congr (fun x => sextW 16 x.toNat) (sextW_setWidth (by decide)) s
  case h_6 => exact alu1_congr (fun x => sextW 32 x.toNat) (sextW_setWidth (by decide)) s
  case h_7 => exact alu1_congr (fun x => wd (x.toNat % 2 ^ 8)) (wd_mod_two_pow 8) s
  case h_8 => exact alu1_congr (fun x => wd (x.toNat % 2 ^ 16)) (wd_mod_two_pow 16) s
  case h_9 => exact alu1_congr (fun x => wd (x.toNat % 2 ^ 32)) (wd_mod_two_pow 32) s
  case h_13 n => exact alu1_congr (fun x => rolW x n) (fun x => rolW_eq x (field_lt hi)) s
  all_goals rfl

/-- Settles O1: each instruction executes as `alu1` or `alu2` of its function, and such a word writes its result and nothing else. -/
theorem scalarResults : Obligations.ScalarResults := by
  unfold Obligations.ScalarResults twoSourceScalarResults oneSourceScalarResults
  exact ⟨fun i d a b w f s h hw hs => alu2_writesScalar (exec_twoSource h hw s) hs,
    fun i d a w f s h hw hi hs => alu1_writesScalar (exec_oneSource h hw hi s) hs⟩

end Sys2Proof.Machine
end

section
/-!
PROOFS. The immediate, bit-field and pointer words (R108 to R113): what each writes and leaves. The immediate forms do so where every
pending ext hint carries 22 bits; at a state whose hint carries more, O2 fails.
-/

namespace Sys2Proof.Machine

open Claims

/-! ## Immediates under pending ext hints (R48, R50) -/

/-- Every pending ext hint carries the 22 bits that `hext` can give it (R50). -/
def Pending.payloadsFit (h : Pending) : Prop := ∀ e ∈ h.ext, e < 2 ^ 22

theorem extended_eq_immBits (h : Pending) (n v : Nat) : extended h n v = immBits h n v := by
  unfold extended immBits
  match h.ext with
  | [] | [_] => rfl
  | a :: b :: _ => simp only [Prod.mk.injEq, and_true]; ring

/-- A field put above another of `n` bits. -/
theorem mul_two_pow_add_lt {a v k n : Nat} (ha : a < 2 ^ k) (hv : v < 2 ^ n) : a * 2 ^ n + v < 2 ^ (n + k) :=
  calc a * 2 ^ n + v < (a + 1) * 2 ^ n := by linarith
    _ ≤ 2 ^ k * 2 ^ n := Nat.mul_le_mul_right _ ha
    _ = 2 ^ (n + k) := by ring

/-- The joined immediate fits its joined width. -/
theorem immBits_lt {h : Pending} (hf : h.payloadsFit) {n v : Nat} (hv : v < 2 ^ n) :
    (immBits h n v).1 < 2 ^ (immBits h n v).2 := by
  unfold Pending.payloadsFit at hf
  unfold immBits
  match h.ext, hf with
  | [], _ => exact hv
  | [a], hf => exact mul_two_pow_add_lt (hf a (by simp)) hv
  | a :: b :: _, hf => exact mul_two_pow_add_lt (mul_two_pow_add_lt (hf a (by simp)) (hf b (by simp))) hv

/-- The sign extension of a value that fits its width. -/
theorem sxt_of_lt {m u : Nat} (h : u < 2 ^ m) : sxt m u = if 2 ^ (m - 1) ≤ u then (u : Int) - 2 ^ m else u := by
  rw [sxt, Nat.mod_eq_of_lt h]
  by_cases h2 : 2 ^ (m - 1) ≤ u
  · simp [h2, Nat.not_lt.2 h2]
  · simp [h2, Nat.lt_of_not_le h2]

theorem immS_eq_immSigned {h : Pending} (hf : h.payloadsFit) {n v : Nat} (hv : v < 2 ^ n) :
    immS n v h = immSigned h n v := by
  rw [immS, extS, extended_eq_immBits, sxt_of_lt (immBits_lt hf hv), immSigned]

theorem immZ_eq_immNatural (h : Pending) (n v : Nat) : immZ n v h = immNatural h n v := by
  rw [immZ, extended_eq_immBits]; rfl

/-- Where the pending payloads fit, an immediate form executes as `alu1` of the statement's function (R50, R112). -/
theorem exec_immediate {i : Instr} {d a w : Nat} {f : Pending → Word → Word} (h : immediate i = some (d, a, f))
    (hw : encode i = some w) (hi : i.wf = true) {s : State} (hf : s.ctx.hints.payloadsFit) :
    exec i s = alu1 w d a (f s.ctx.hints) s := by
  unfold immediate at h
  split at h <;> cases h <;> cases hw
  case h_1 v =>
    exact alu1_congr (fun x => x + immS 14 v s.ctx.hints) (fun x => by rw [immS_eq_immSigned hf (field_lt hi)]) s
  case h_2 v =>
    exact alu1_congr (fun x => x &&& immS 14 v s.ctx.hints) (fun x => by rw [immS_eq_immSigned hf (field_lt hi)]) s
  case h_3 v =>
    exact alu1_congr (fun x => x ||| immZ 14 v s.ctx.hints) (fun x => by rw [immZ_eq_immNatural]) s
  case h_4 v =>
    exact alu1_congr (fun x => x ^^^ immZ 14 v s.ctx.hints) (fun x => by rw [immZ_eq_immNatural]) s
  case h_5 v =>
    exact alu1_congr (fun x => flag (x.slt (immS 13 v s.ctx.hints))) (fun x => by
      rw [immS_eq_immSigned hf (field_lt hi)]; exact if_congr BitVec.slt_iff_toInt_lt rfl rfl) s
  case h_6 v =>
    exact alu1_congr (fun x => flag (x.ult (immZ 13 v s.ctx.hints))) (fun x => by
      rw [immZ_eq_immNatural]; exact if_congr BitVec.ult_iff_lt rfl rfl) s

/-- An admitted immediate form writes its function of the source under hints that fit, and changes nothing else (R50, R112). -/
theorem immediate_writesScalar {i : Instr} {d a w : Nat} {f : Pending → Word → Word} {s : State}
    (h : immediate i = some (d, a, f)) (hw : encode i = some w) (hi : i.wf = true) (hf : s.ctx.hints.payloadsFit)
    (hs : s.admits { word := w, reads := [a], writes := [d] } = true)
    (hr : scalarRoom s d (s.ctx.tagUnion [a]) fun k => f s.ctx.hints (atInst (s.ctx.sreg a) k)) :
    writesScalar i s d (s.ctx.tagUnion [a]) fun k => f s.ctx.hints (atInst (s.ctx.sreg a) k) :=
  alu1_writesScalar (exec_immediate h hw hi hf) hs hr

/-- An admitted `ldhi` writes its sign-extended immediate shifted left by 14, untagged (R49). -/
theorem ldhi_writesScalar {d i : Nat} {s : State} (hs : s.admits { word := wordLdhi d i, writes := [d] } = true)
    (hr : scalarRoom s d 0 fun _ => ((BitVec.ofNat 20 i).signExtend 64) <<< 14) :
    writesScalar (.ldhi d i) s d 0 fun _ => ((BitVec.ofNat 20 i).signExtend 64) <<< 14 := by
  rw [← sextW_eq (by decide)] at hr ⊢
  exact onward_writeS hs rfl hr

/-! ## Bit-field insertion (R108) -/

/-- The mask of `l` bits from bit `p` upward. -/
theorem testBit_field_mask (l p i : Nat) : ((2 ^ l - 1) * 2 ^ p).testBit i = (decide (p ≤ i) && decide (i - p < l)) := by
  rw [Nat.testBit_mul_two_pow, Nat.testBit_two_pow_sub_one]

/-- A field of `l` bits put at bit `p`, bit by bit. -/
theorem testBit_field_insert (old x : Nat) (l p i : Nat) :
    (old % 2 ^ p + x % 2 ^ l * 2 ^ p + old / 2 ^ (p + l) * 2 ^ (p + l)).testBit i =
      if p ≤ i ∧ i < p + l then x.testBit (i - p) else old.testBit i := by
  have low : 2 ^ p * (x % 2 ^ l) + old % 2 ^ p < 2 ^ (p + l) := by
    have := mul_two_pow_add_lt (Nat.mod_lt x (Nat.two_pow_pos l)) (Nat.mod_lt old (Nat.two_pow_pos p))
    linarith
  have regrouped : old % 2 ^ p + x % 2 ^ l * 2 ^ p + old / 2 ^ (p + l) * 2 ^ (p + l) =
      2 ^ (p + l) * (old / 2 ^ (p + l)) + (2 ^ p * (x % 2 ^ l) + old % 2 ^ p) := by ring
  rw [regrouped, Nat.testBit_two_pow_mul_add _ low, Nat.testBit_two_pow_mul_add _ (Nat.mod_lt _ (Nat.two_pow_pos p))]
  simp only [Nat.testBit_mod_two_pow, Nat.testBit_div_two_pow]
  rcases lt_or_ge i p with h | h
  · simp [h, show i < p + l by omega, show ¬ p ≤ i by omega]
  · by_cases h2 : i < p + l
    · simp [h, h2, show ¬ i < p by omega, show i - p < l by omega]
    · simp [h2, show i - (p + l) + (p + l) = i by omega]

/-- The masked insertion of the model is the arithmetic one of R108. -/
theorem bitInsert_eq (old x y : Word) : bitInsert old x y =
    let pos := y.toNat % 64
    let len := min (y.toNat / 256 % 128) (64 - pos)
    BitVec.ofNat 64 (old.toNat % 2 ^ pos + x.toNat % 2 ^ len * 2 ^ pos + old.toNat / 2 ^ (pos + len) * 2 ^ (pos + len)) := by
  have fields : fld y 5 0 = y.toNat % 64 ∧ fld y 14 8 = y.toNat / 256 % 128 := by simp [fld, bits]
  simp only [bitInsert, fields]
  generalize y.toNat % 64 = p
  generalize min (y.toNat / 256 % 128) (64 - p) = l
  apply BitVec.eq_of_getLsbD_eq
  intro i hi
  simp only [wd, BitVec.getLsbD_or, BitVec.getLsbD_and, BitVec.getLsbD_not, BitVec.getLsbD_shiftLeft, BitVec.getLsbD_ofNat,
    testBit_field_mask, testBit_field_insert, hi, decide_true, Bool.true_and]
  by_cases h : p ≤ i <;> by_cases h2 : i - p < l
  · simp [h, h2, show i < p + l by omega, show ¬ i < p by omega, BitVec.testBit_toNat]
  · simp [h, h2, show ¬ i < p + l by omega, BitVec.testBit_toNat]
  · simp [h, BitVec.testBit_toNat]
  · simp [h, BitVec.testBit_toNat]

/-- An admitted `bfi` inserts the field that `b` names into the old value, and changes nothing else (R108, R370). -/
theorem bfi_writesScalar {d a b : Nat} {s : State}
    (hs : s.admits { word := wordBfi d a b, reads := [d, a, b], writes := [d] } = true) :
    let res (k : Nat) : Word :=
      let old := atInst (s.ctx.sreg d) k
      let y := atInst (s.ctx.sreg b) k
      let pos := y.toNat % 64
      let len := min (y.toNat / 256 % 128) (64 - pos)
      let x := atInst (s.ctx.sreg a) k
      BitVec.ofNat 64 (old.toNat % 2 ^ pos + x.toNat % 2 ^ len * 2 ^ pos + old.toNat / 2 ^ (pos + len) * 2 ^ (pos + len))
    scalarRoom s d (s.ctx.tagUnion [d, a, b]) res → writesScalar (.bfi d a b) s d (s.ctx.tagUnion [d, a, b]) res := by
  intro res hr
  refine onward_writeS hs ?_ hr
  simp [res, bitInsert_eq]

/-! ## Pointers (R110, R111) -/

/-- Running a computation that succeeds at every listed index collects its results in order. -/
theorem widenOver_ok_of_mem {α : Type} {s : State} (S : Nat) {f : State → Nat → Act (State × α)} {v : Nat → α} {ks : List Nat}
    (h : ∀ k ∈ ks, f s k = .ok (s, v k)) : widenOver S f ks s = .ok (s, ks.map fun k => (k, v k)) := by
  induction ks with
  | nil => rfl
  | cons k ks ih =>
    have hk := h k (by simp)
    have hks := ih fun j hj => h j (by simp [hj])
    simp [widenOver, hk, atInstance, Except.bind, hks]

/-- The value of an index in a table of results, the default where it is not listed. -/
theorem tget_map {α : Type} (d : α) (v : Nat → α) (ks : List Nat) (k : Nat) :
    tget (ks.map fun k => (k, v k)) d k = if k ∈ ks then v k else d := by
  by_cases h : k ∈ ks
  · rw [if_pos h, tget_map_mem d v h]
  · rw [if_neg h]
    induction ks with
    | nil => rfl
    | cons j ks ih =>
      have hj : j ≠ k := fun e => h (by simp [e])
      simpa [tget, tlook, hj] using ih fun hk => h (by simp [hk])

theorem ptrMove_of_range {x : Word} {delta : Int} (h : 0 ≤ (ptrOff x : Int) + delta) (h2 : (ptrOff x : Int) + delta < 2 ^ 40) :
    ptrMove x delta = some (ptrAt x ((ptrOff x : Int) + delta).toNat) := by
  rw [ptrMove]
  exact if_neg (by push_cast; omega)

/-- An admitted `padd` moves each valid pointer whose offset stays within 40 bits, and changes nothing else (R110). -/
theorem padd_writesScalar {d a b : Nat} {s : State}
    (hs : s.admits { word := wordPadd d a b, reads := [a, b], writes := [d] } = true) :
    let S := s.ctx.tagUnion [a, b]
    let delta (k : Nat) : Int := (atInst (s.ctx.sreg b) k).toInt
    let old (k : Nat) : Word := atInst (s.ctx.sreg a) k
    (∀ k ∈ activeOf s.ctx.lift S, (ptrSegment s.myVf (old k)).isSome = true ∧
      0 ≤ (ptrOff (old k) : Int) + delta k ∧ (ptrOff (old k) : Int) + delta k < 2 ^ 40) →
    let res (k : Nat) : Word :=
      if k ∈ activeOf s.ctx.lift S then ptrAt (old k) ((ptrOff (old k) : Int) + delta k).toNat else 0
    scalarRoom s d S res → writesScalar (.padd d a b) s d S res := by
  intro S delta old hok res hr
  refine onward_writeS hs ?_ hr
  have results : tget ((activeOf s.ctx.lift S).map fun k => (k, res k)) 0 = res := by
    funext k
    rw [tget_map]
    by_cases hk : k ∈ activeOf s.ctx.lift S <;> simp [res, hk]
  simp only [counted_ctx, countedCtx_sreg, countedCtx_tagUnion, countedCtx_fields, widen]
  rw [widenOver_ok_of_mem (v := res)]
  · simp only [bind, Except.bind]
    rw [results]
  · intro k hk
    obtain ⟨hseg, hlo, hhi⟩ := hok k hk
    obtain ⟨g, hg⟩ := Option.isSome_iff_exists.1 hseg
    simp [S, old, delta, res, hk, hg, ptrMove_of_range hlo hhi, pure, Except.pure]

/-- What `pchk` answers, in the words of R111. -/
theorem pchkResult_eq (v : Vf) (p y : Word) : pchkResult v p y =
    let len := y.toNat % 2 ^ 40
    let perm := y.toNat / 2 ^ 60
    match ptrSegment v p with
    | none => 0x04
    | some g =>
      if ptrPerm p &&& perm ≠ perm ∨ g.perm &&& perm ≠ perm then 0x04
      else if len ≠ 0 ∧ g.len < ptrOff p + len then 0x05 else 0 := by
  have hlen : fld y 39 0 = y.toNat % 2 ^ 40 := by simp [fld, bits]
  have hperm : fld y 63 60 = y.toNat / 2 ^ 60 := by
    have := y.isLt
    simp only [fld, bits]; omega
  simp only [pchkResult, hlen, hperm]
  cases ptrSegment v p with
  | none => rfl
  | some g =>
    have passes : (y.toNat % 2 ^ 40 = 0 ∨ ptrOff p + y.toNat % 2 ^ 40 ≤ g.len) ↔
        ¬ (y.toNat % 2 ^ 40 ≠ 0 ∧ g.len < ptrOff p + y.toNat % 2 ^ 40) := by omega
    simp only [passes, ite_not]
    rfl

/-- An admitted `pchk` writes 0 or the code of the check that fails (`pchkResult_eq`), and changes nothing else (R111). -/
theorem pchk_writesScalar {d a b : Nat} {s : State}
    (hs : s.admits { word := wordPchk d a b, reads := [a, b], writes := [d] } = true)
    (hr : scalarRoom s d (s.ctx.tagUnion [a, b]) fun k =>
      pchkResult s.myVf (atInst (s.ctx.sreg a) k) (atInst (s.ctx.sreg b) k)) :
    writesScalar (.pchk d a b) s d (s.ctx.tagUnion [a, b]) fun k =>
      pchkResult s.myVf (atInst (s.ctx.sreg a) k) (atInst (s.ctx.sreg b) k) :=
  alu2_writesScalar rfl hs hr

/-! ## The pointer table (R74, R113) -/

/-- An index beyond the table faults BOUNDS with detail 3. -/
theorem lea_beyond_table {d i : Nat} {o : Obj} {s : State} (hs : s.admits { word := wordLea d i, writes := [d] } = true)
    (ho : s.objOf s.ctx.id.vf s.ctx.pc = some o) (hi : o.nptr ≤ i) :
    ∃ t, exec (.lea d i) s = .next t ∧ s.parksWith t (wordLea d i) 0x05 3 (BitVec.ofNat 64 i) false false := by
  refine ⟨_, onward_stopped hs ?_,
    settle_counted_parks (i := { word := wordLea d i, writes := [d] }) (wordLea d i) cBOUNDS 3 (wd i) false false⟩
  have : (s.counted { word := wordLea d i, writes := [d] }).objOf s.ctx.id.vf s.ctx.pc = some o := ho
  simp [this, Option.filter, Nat.not_lt.2 hi, fault]

theorem drop_leBytes (n v k : Nat) : (leBytes n v).drop k = leBytes (n - k) (v / 256 ^ k) := by
  induction k generalizing n v with
  | zero => simp
  | succ k ih =>
    cases n with
    | zero => simp [leBytes]
    | succ n => simp [leBytes, ih, Nat.div_div_eq_div_mul, pow_succ']

theorem take_leBytes (n v k : Nat) : (leBytes n v).take k = leBytes (min k n) v := by
  induction k generalizing n v with
  | zero => simp [leBytes]
  | succ k ih =>
    cases n with
    | zero => simp [leBytes]
    | succ n => simp [leBytes, ih, Nat.succ_min_succ]

theorem leNat_leBytes (n v : Nat) : leNat (leBytes n v) = v % 256 ^ n := by
  induction n generalizing v with
  | zero => simp [leBytes, leNat, Nat.mod_one]
  | succ n ih => simp [leBytes, leNat, ih, pow_succ', Nat.mod_mul]

/-- Eight bytes at a multiple of 8 within a cached line, as a word. -/
theorem wd_leNat_line {k : Nat} (line : Nat) (h : k ≤ 56) :
    wd (leNat (((leBytes 64 line).drop k).take 8)) = BitVec.ofNat 64 (line / 2 ^ (8 * k)) := by
  rw [drop_leBytes, take_leBytes, leNat_leBytes, show min 8 (64 - k) = 8 by omega, pow_mul]
  apply BitVec.eq_of_toNat_eq
  simp [wd]

/-- A fetch whose line the cache holds reads it there (R113, R114). -/
theorem fetchBytes_cached {s : State} {p : Word} {need n va line : Nat} (hp : ptrCheck s.myVf p need n = .ok va)
    (hl : tlook (s.core s.cur).icache (lineKey s.ctx.id.vf va) = some line) :
    fetchBytes s p need n = .ok (s, ((leBytes 64 line).drop (va % 64)).take n) := by
  have : pointerCheck s p need n false = .ok va := by simp only [pointerCheck, hp]
  simp [fetchBytes, this, hl, bind, Except.bind, pure, Except.pure]

theorem counted_icache (s : State) (i : Ins) : ((s.counted i).core s.cur).icache = (s.core s.cur).icache := by
  simp [State.counted, State.modCtx, State.setCtx, State.setCtxAt]

/-- An entry in a cached line is read there and written, and nothing else changes. -/
theorem lea_cached_writesScalar {d i va line : Nat} {o : Obj} {s : State}
    (hs : s.admits { word := wordLea d i, writes := [d] } = true) (ho : s.objOf s.ctx.id.vf s.ctx.pc = some o)
    (hi : i < o.nptr) (hp : ptrCheck s.myVf (o.entryAt s.myVf i) permR 8 = .ok va) (hva : va % 8 = 0)
    (hl : tlook (s.core s.cur).icache (lineKey s.ctx.id.vf va) = some line)
    (hr : scalarRoom s d 0 fun _ => BitVec.ofNat 64 (line / 2 ^ (8 * (va % 64)))) :
    writesScalar (.lea d i) s d 0 fun _ => BitVec.ofNat 64 (line / 2 ^ (8 * (va % 64))) := by
  refine onward_writeS hs ?_ hr
  have hobj : (s.counted { word := wordLea d i, writes := [d] }).objOf s.ctx.id.vf s.ctx.pc = some o := ho
  have hfetch : fetchBytes (s.counted { word := wordLea d i, writes := [d] }) (o.entryAt s.myVf i) permR 8 =
      .ok (s.counted _, ((leBytes 64 line).drop (va % 64)).take 8) :=
    fetchBytes_cached (by simpa using hp) (by simpa [counted_icache] using hl)
  simp [hobj, Option.filter, hi, hfetch, bind, Except.bind, wd_leNat_line line (show va % 64 ≤ 56 by omega)]

end Sys2Proof.Machine
end

section
/-!
PROOFS. `lea` of an entry whose line the instruction cache does not hold (R113): the fetch fills the caches, which no result sees; and
the state at which a fill changes what the pool counts, so that the statement about `lea` fails.
-/

namespace Sys2Proof.Machine

open Claims

variable {s : State} {i : Ins}

/-! ## Filling the caches of translation and fetch -/

/-- The state after a fetch from memory: the translation kept, and the line in the core's instruction cache (R113, R185). -/
def State.fetched (s : State) (e : TlbEntry) (key line : Nat) : State :=
  (s.tlbFill s.cur e).modCore s.cur fun k => { k with icache := ((key, line) :: k.icache.filter fun e => e.1 != key).take 1024 }

/-- Counting a word changes the executing context, which a change of other parts of its core leaves. -/
theorem modCore_counted {f : Core → Core} (h : ∀ k m, f { k with ctxs := m } = { f k with ctxs := m })
    (h2 : ∀ k, (f k).ctxs = k.ctxs) : (s.counted i).modCore s.cur f = (s.modCore s.cur f).counted i := by
  have hx : (s.modCore s.cur f).ctx = s.ctx := by simp [State.ctx, State.ctxAt, h2]
  simp only [State.counted, State.modCtx, hx, State.setCtx, State.setCtxAt, State.modCore_cur, State.modCore_curCtx,
    State.modCore_modCore]
  congr 1
  funext k
  rw [h, h2]

theorem modDie_counted (d : Nat) (f : Die → Die) : (s.counted i).modDie d f = (s.modDie d f).counted i := rfl

theorem tlbFill_counted (e : TlbEntry) : (s.counted i).tlbFill s.cur e = (s.tlbFill s.cur e).counted i := by
  simp only [State.tlbFill]
  rw [modCore_counted]
  · exact modDie_counted ..
  · exact fun _ _ => rfl
  · exact fun _ => rfl

theorem fetched_counted (e : TlbEntry) (key line : Nat) : (s.counted i).fetched e key line = (s.fetched e key line).counted i := by
  unfold State.fetched
  rw [counted_cur, tlbFill_counted]
  exact modCore_counted (s := s.tlbFill s.cur e) (fun _ _ => rfl) fun _ => rfl

theorem walkLevels_counted (va : Nat) (ls : List (Nat × Nat × Nat)) (t : Nat) :
    walkLevels (s.counted i) va ls t = walkLevels s va ls t := by
  induction ls generalizing t with
  | nil => rfl
  | cons l ls ih => simp only [walkLevels, ih]; rfl

theorem walk_counted (vf va : Nat) : walk (s.counted i) vf va = walk s vf va := walkLevels_counted ..

theorem tlbFind_counted (c vf va : Nat) : (s.counted i).tlbFind c vf va = s.tlbFind c vf va := by
  have : ((s.counted i).core c).utlb = (s.core c).utlb := by
    by_cases h : c = s.cur
    · subst h; simp [State.counted, State.modCtx, State.setCtx, State.setCtxAt]
    · simp [State.counted, State.modCtx, State.setCtx, State.setCtxAt, State.core_modCore_other s _ h]
  simp only [State.tlbFind, this]; rfl

/-- The entry that translates an address: a cached one, or the leaf of a walk (R185). -/
def State.pageEntry (s : State) (va : Nat) : Option TlbEntry :=
  match s.tlbFind s.cur s.ctx.id.vf va with
  | some e => some e
  | none =>
    match walk s s.ctx.id.vf va with
    | .leaf pte lg => some ⟨s.ctx.id.vf, va / 2 ^ lg * 2 ^ lg, lg, pte⟩
    | _ => none

theorem pageEntry_counted (va : Nat) : (s.counted i).pageEntry va = s.pageEntry va := by
  simp only [State.pageEntry, tlbFind_counted, walk_counted, counted_ctx, countedCtx_fields, counted_cur]

/-- A translation succeeds where there is an entry whose permissions suffice, which the caches then hold (R185, R186). -/
theorem translate_ok_iff {p : Word} {va need pa : Nat} {w nc : Bool} {u : State} : translate s p va need w = .ok (u, pa, nc) ↔
    ∃ e, s.pageEntry va = some e ∧ leafPerm e.pte &&& need = need ∧ u = s.tlbFill s.cur e ∧ e.place va = (pa, nc) := by
  have passes : ∀ e, (permit (s.tlbFill s.cur e) p need w e).bind (fun _ => .ok (s.tlbFill s.cur e, e.place va)) =
      .ok (u, pa, nc) ↔ leafPerm e.pte &&& need = need ∧ u = s.tlbFill s.cur e ∧ e.place va = (pa, nc) := by
    intro e
    by_cases hp : leafPerm e.pte &&& need = need <;> simp [permit, hp, Except.bind, faultAt, eq_comm]
  unfold translate findPage State.pageEntry
  cases hf : s.tlbFind s.cur s.ctx.id.vf va with
  | some e => simpa [hf, bind, Except.bind, pure, Except.pure] using passes e
  | none =>
    cases hw : walk s s.ctx.id.vf va with
    | leaf pte lg => simpa [hf, hw, bind, Except.bind, pure, Except.pure] using passes _
    | xlate | mnode | poison => simp [hf, hw, bind, Except.bind, faultAt]

/-- A translation that succeeds does so in the counted state alike. -/
theorem translate_counted {p : Word} {va need pa : Nat} {w nc : Bool} {u : State} (h : translate s p va need w = .ok (u, pa, nc)) :
    ∃ e, translate (s.counted i) p va need w = .ok ((s.counted i).tlbFill s.cur e, pa, nc) := by
  obtain ⟨e, he, hp, -, hpl⟩ := translate_ok_iff.1 h
  exact ⟨e, translate_ok_iff.2 ⟨e, by rw [pageEntry_counted, he], hp, rfl, hpl⟩⟩

/-! ## What a fill leaves -/

section
variable (e : TlbEntry) (key line : Nat)

@[simp] theorem fetched_cur : (s.fetched e key line).cur = s.cur := rfl
@[simp] theorem fetched_curCtx : (s.fetched e key line).curCtx = s.curCtx := rfl
@[simp] theorem fetched_hbm : (s.fetched e key line).hbm = s.hbm := rfl
@[simp] theorem fetched_net : (s.fetched e key line).net = s.net := rfl
@[simp] theorem fetched_octets : (s.fetched e key line).octets = s.octets := rfl

theorem core_fetched_cur : (s.fetched e key line).core s.cur = { s.core s.cur with
    utlb := (e :: (s.core s.cur).utlb.filter fun x => x != e).take 64
    icache := ((key, line) :: (s.core s.cur).icache.filter fun e => e.1 != key).take 1024 } := by
  simp [State.fetched, State.tlbFill]

theorem core_fetched_other {c : Nat} (h : c ≠ s.cur) : (s.fetched e key line).core c = s.core c := by
  simp [State.fetched, State.tlbFill, State.core_modCore_other _ _ h]

@[simp] theorem fetched_ctx : (s.fetched e key line).ctx = s.ctx := by
  simp only [State.ctx, State.ctxAt, fetched_cur, core_fetched_cur]; rfl

@[simp] theorem fetched_spad (c : Nat) : ((s.fetched e key line).core c).spad = (s.core c).spad := by
  by_cases h : c = s.cur
  · subst h; rw [core_fetched_cur]
  · rw [core_fetched_other e key line h]

@[simp] theorem fetched_icache : tlook ((s.fetched e key line).core s.cur).icache key = some line := by
  simp [core_fetched_cur, tlook]

theorem fetched_level : (s.fetched e key line).level = s.level := by
  simp [State.fetched, State.tlbFill, State.level, State.myDie, dieOf]

theorem tlbFill_memUp (d : Nat) : (s.tlbFill s.cur e).memUp d = s.memUp d := by
  unfold State.memUp State.tlbFill
  by_cases h : d = dieOf s.cur
  · subst h; simp
  · simp [State.die_modDie_other _ _ h]

theorem fetched_admits : (s.fetched e key line).admits i = s.admits i := by
  have haw : (s.fetched e key line).awaits = s.awaits := by
    funext c
    simp [State.awaits, State.mergesInto, State.octet]
  simp [State.admits, fetched_level, haw]

end

/-! ## Room in the pool after a fill (R369) -/

/-- The keys of a table rise, the order in which `tput` lists them. -/
def Rising {α : Type} (m : Table α) : Prop := (m.map Prod.fst).Pairwise (· < ·)

theorem tlook_eq_none {α : Type} {m : Table α} {k : Nat} (h : ∀ p ∈ m, p.1 ≠ k) : tlook m k = none := by
  induction m with
  | nil => rfl
  | cons p m ih =>
    obtain ⟨hp, hm⟩ := List.forall_mem_cons.1 h
    simp [tlook, hp, ih hm]

/-- In a rising table, writing a value that contributes what the old one did leaves the contributions together. -/
theorem flatten_map_tput {α β : Type} {φ : Nat × α → List β} {m : Table α} (hm : Rising m) {d v : α} {k : Nat}
    (hd : φ (k, d) = []) (hv : φ (k, v) = φ (k, tget m d k)) : ((tput m k v).map φ).flatten = (m.map φ).flatten := by
  induction m with
  | nil => simpa [tput, tget, tlook, hd] using hv
  | cons p m ih =>
    obtain ⟨j, w⟩ := p
    obtain ⟨hj, hm⟩ := List.pairwise_cons.1 hm
    rcases Nat.lt_trichotomy j k with h | rfl | h
    · have := ih hm (by simpa [tget, tlook, h.ne] using hv)
      simp [tput, h.ne, Nat.lt_asymm h, this]
    · simpa [tput, tget, tlook] using hv
    · have hk : tlook ((j, w) :: m) k = none := tlook_eq_none fun p hp => by
        rcases List.mem_cons.1 hp with rfl | hp
        · exact h.ne'
        · exact (h.trans (hj p.1 (List.mem_map_of_mem hp))).ne'
      simp only [tget, hk, Option.getD_none, hd] at hv
      simp [tput, h, h.ne', hv]

/-- What a change of a die leaves of its nodes, the bind records of a core see (R168). -/
theorem nodesOn_modDie (h : Rising s.dies) {f : Die → Die} (hf : ∀ x, (f x).nodes = x.nodes) (d c : Nat) :
    (s.modDie d f).nodesOn c = s.nodesOn c := by
  unfold State.nodesOn State.modDie State.setDie
  exact flatten_map_tput h rfl (by simp only [hf]; rfl)

theorem poolUsed_congr {t : State} {c : Nat} (hc : (t.core c).ctxs = (s.core c).ctxs) (hn : t.nodesOn c = s.nodesOn c) :
    t.poolUsed c = s.poolUsed c := by
  simp only [State.poolUsed, Core.live, hc, hn]

/-- A fill takes no register of the pool. -/
theorem fetched_roomFor (e : TlbEntry) (key line : Nat) (h : Rising s.dies) {y : Ctx} (hr : s.roomFor y) :
    (s.fetched e key line).roomFor y := by
  rcases hr with hr | hr
  · exact .inl (by simpa using hr)
  · refine .inr ((poolUsed_congr ?_ ?_).trans_le hr)
    · simp [State.setCtx, State.setCtxAt, core_fetched_cur]
    · exact nodesOn_modDie (f := fun d => { d with tlb := (e :: d.tlb.filter fun x => x != e).take 12288 }) h (fun _ => rfl) _ _

/-! ## What a word that changes only its context leaves -/

theorem setCtx_core (v : Ctx) (c : Nat) : ∃ m, (s.setCtx v).core c = { s.core c with ctxs := m } := by
  by_cases h : c = s.cur
  · subst h; exact ⟨_, State.core_modCore ..⟩
  · exact ⟨_, (State.core_modCore_other _ _ h).trans rfl⟩

theorem trim_core (b c : Nat) : ∃ m, (s.trim b).core c = { s.core c with ctxs := m } := by
  unfold State.trim
  split
  · exact ⟨_, rfl⟩
  · by_cases h : c = b
    · subst h; exact ⟨_, State.core_modCore ..⟩
    · exact ⟨_, (State.core_modCore_other _ _ h).trans rfl⟩

theorem trim_hbm_net (b : Nat) : (s.trim b).hbm = s.hbm ∧ (s.trim b).net = s.net := by
  unfold State.trim; split <;> exact ⟨rfl, rfl⟩

theorem State.onlyCtx.frame {t : State} (h : s.onlyCtx t) : t.hbm = s.hbm ∧ t.net = s.net ∧
    ∀ c, ∃ m, t.core c = { s.core c with ctxs := m } := by
  rcases h with h | ⟨y, -, -, -, -, h⟩
  · rw [h]; exact ⟨rfl, rfl, setCtx_core _⟩
  · rw [h]
    refine ⟨(trim_hbm_net _).1, (trim_hbm_net _).2, fun c => ?_⟩
    obtain ⟨m, hm⟩ := setCtx_core (s := s) y c
    obtain ⟨m2, hm2⟩ := trim_core (s := s.setCtx y) s.cur c
    obtain ⟨m3, hm3⟩ := setCtx_core (s := (s.setCtx y).trim s.cur) t.ctx c
    exact ⟨m3, by rw [hm3, hm2, hm]⟩

/-! ## Reading an entry of the pointer table from memory (R113) -/

/-- A fetch whose line the cache does not hold reads memory and keeps the line (R113, R114). -/
theorem fetchBytes_filled {p : Word} {need n va pa : Nat} {nc : Bool} {e : TlbEntry} (hp : ptrCheck s.myVf p need n = .ok va)
    (hl : tlook (s.core s.cur).icache (lineKey s.ctx.id.vf va) = none)
    (ht : translate s p va need false = .ok (s.tlbFill s.cur e, pa, nc)) (hup : s.memUp (homeDie pa) = true)
    (hpo : s.poison.contains (granuleOf pa) = false) : fetchBytes s p need n =
      .ok (s.fetched e (lineKey s.ctx.id.vf va) (leNat (s.hbmRead (pa / 64 * 64) 64)),
        ((s.hbmRead (pa / 64 * 64) 64).drop (va % 64)).take n) := by
  have hva : pointerCheck s p need n false = .ok va := by simp only [pointerCheck, hp]
  have hpo' : (s.tlbFill s.cur e).poison.contains (granuleOf pa) = false := hpo
  simp only [fetchBytes, hva, hl, ht, bind, Except.bind, tlbFill_memUp, hup, hpo']
  rfl

/-- A word that completes in two states by way of one state completes alike. -/
theorem onward_eq_of_ok {v x : State} {body body' : State → Act State} (hs : s.admits i = true) (hv : v.admits i = true)
    (hpc : pc4 v = pc4 s) (hb : body (s.counted i) = .ok x) (hb' : body' (v.counted i) = .ok x) :
    onward i body s = onward i body' v := by
  rw [onward_admitted hs hb, onward_admitted hv hb', counted_pc4, counted_pc4, hpc]

/-- An entry read from memory is written, its line is cached, and nothing else of registers, memory or traffic changes, where the table
of dies rises. -/
theorem lea_fetched_writesScalar {d n va pa : Nat} {nc : Bool} {o : Obj} {u : State} (hk : Rising s.dies)
    (hs : s.admits { word := wordLea d n, writes := [d] } = true) (ho : s.objOf s.ctx.id.vf s.ctx.pc = some o)
    (hn : n < o.nptr) (hp : ptrCheck s.myVf (o.entryAt s.myVf n) permR 8 = .ok va)
    (hl : tlook (s.core s.cur).icache (lineKey s.ctx.id.vf va) = none)
    (ht : translate s (o.entryAt s.myVf n) va permR false = .ok (u, pa, nc)) (hup : s.memUp (homeDie pa) = true)
    (hpo : s.poison.contains (granuleOf pa) = false) :
    let line := s.hbmRead (pa / 64 * 64) 64
    let p : Word := BitVec.ofNat 64 (leNat ((line.drop (va % 64)).take 8))
    scalarRoom s d 0 (fun _ => p) →
    ∃ t, exec (.lea d n) s = .next t ∧ t.ctx.sreg d = scalarResult s d 0 (fun _ => p) ∧ s.ctx.Keeps t.ctx [sCode d] ∧
      t.ctx.pc = pc4 s ∧ t.hbm = s.hbm ∧ t.net = s.net ∧ (∀ c, (t.core c).spad = (s.core c).spad) ∧
      tlook (t.core s.cur).icache (lineKey s.ctx.id.vf va) = some (leNat line) := by
  intro line p hr
  obtain ⟨e, hte⟩ := translate_counted (i := { word := wordLea d n, writes := [d] }) ht
  generalize hv : s.fetched e (lineKey s.ctx.id.vf va) (leNat line) = v
  have hvs : v.admits { word := wordLea d n, writes := [d] } = true := by rw [← hv, fetched_admits, hs]
  have hx : v.ctx = s.ctx := by rw [← hv, fetched_ctx]
  have hroom : v.roomFor (v.ctx.putS d (writeTagged v.ctx.lift (v.ctx.sreg d) 0 fun _ => p)) := by
    rw [hx, ← hv]; exact fetched_roomFor e _ _ hk hr
  obtain ⟨x, hw, -⟩ := writeS_room (i := { word := wordLea d n, writes := [d] }) hroom
  have hfetch := fetchBytes_filled (s := s.counted { word := wordLea d n, writes := [d] }) (by simpa using hp)
    (by simpa [counted_icache] using hl) hte hup hpo
  have hbody : exec (.lea d n) s = onward { word := wordLea d n, writes := [d] } (fun u => writeS u d 0 fun _ => p) v := by
    refine onward_eq_of_ok hs hvs (by simp [pc4, hx]) ?_ hw
    have hobj : (s.counted { word := wordLea d n, writes := [d] }).objOf s.ctx.id.vf s.ctx.pc = some o := ho
    simp only [counted_ctx, countedCtx_fields, counted_myVf, hobj, Option.filter, hn, decide_true, if_true, hfetch, bind, Except.bind]
    rw [← hw, ← hv, ← fetched_counted]
    rfl
  obtain ⟨t, h1, h2, h3, h4, h5⟩ := onward_writeS (body := fun u => writeS u d 0 fun _ => p) hvs rfl hroom
  obtain ⟨hhbm, hnet, hcore⟩ := h3.frame
  refine ⟨t, hbody.trans h1, by rw [h2, hx]; rfl, hx ▸ h4, by rw [h5, pc4, hx, pc4], by rw [hhbm, ← hv, fetched_hbm],
    by rw [hnet, ← hv, fetched_net], fun c => ?_, ?_⟩
  · obtain ⟨m, hm⟩ := hcore c
    simp [hm, ← hv]
  · obtain ⟨m, hm⟩ := hcore s.cur
    rw [hm, ← hv, fetched_icache]

/-! ## Where the statements about the immediate forms and `lea` fail -/

/-- Two descriptions of what one word writes agree. -/
theorem writesScalar_unique {j : Instr} {d S : Nat} {f g : Nat → Word} (hf : writesScalar j s d S f)
    (hg : writesScalar j s d S g) : scalarResult s d S f = scalarResult s d S g := by
  obtain ⟨t, ht, hft, -⟩ := hf
  obtain ⟨u, hu, hgu, -⟩ := hg
  obtain rfl : t = u := Host.Outcome.next.inj (ht.symm.trans hu)
  exact hft.symm.trans hgu

/-- Under a pending ext hint of 23 bits, which no `hext` leaves since its payload is 22 bits wide, `addi` adds the model's −2^35, where
the statement reads the joined bits as 2^35. -/
theorem not_immediateScalarResults : ¬ immediateScalarResults := by
  rintro ⟨himm, -⟩
  let s : State := State.reset.boot.modCtx fun x => { x with hints := { ext := [0x600000] } }
  have hs : s.admits { word := wordAddi 3 1 0, reads := [1], writes := [3] } = true := by decide +kernel
  have claimed := himm (.addi 3 1 0) 3 1 _ _ s rfl rfl (by decide) hs (.inl (by decide +kernel))
  have modelled := alu1_writesScalar (i := .addi 3 1 0) (f := fun x => x + immS 14 0 s.ctx.hints) rfl hs (.inl (by decide +kernel))
  exact absurd (writesScalar_unique claimed modelled) (by decide +kernel)

/-- An object with one code segment, whose pointer table has one entry. -/
def oneEntryObj : Obj :=
  { slots := [1], nptr := 1, table := 1, floor := false, cls := [], handlers := [], nodes := [], edges := [], words := []
    level3 := false, spads := [], wellFormed := true }

/-- A node that reserves 130 registers of core 0. -/
def reservingNode : Node :=
  { entry := 0, slice := 0, ctxs := 1, vregs := 130, spad := 0, bars := 0, cx := 0, held := false, count := 0, words := []
    succs := [], vf := 0, launch := none, state := .bound }

/-- An open frame over an axis of 32, a node of die 0 that reserves registers, and a table of dies that lists die 1 before die 0, which
`tput` never does: a change of die 0 then lists it, and its node, a second time. -/
def withUnsortedDies : State :=
  let s := { State.reset.boot with vfs := [(0, { bootVf with objs := [(0, oneEntryObj)] })] }
  let s := s.modDie 0 fun d => { d with nodes := [(0, reservingNode)] }
  let s := s.modCtx fun x => { x with lift := { levels := [⟨32, 0, 0⟩], frames := [.fork 0 1 [] [] 0], active := [0] } }
  { s with dies := (1, {}) :: s.dies }

/-- Where the table of dies is out of order, `lea` of an entry in memory counts a reservation twice and parks for want of registers. -/
theorem not_fieldAndPointerResults : ¬ fieldAndPointerResults := by
  rintro ⟨-, -, -, hlea⟩
  let s := withUnsortedDies
  obtain ⟨-, hread⟩ := hlea 3 0 oneEntryObj s (by decide +kernel) (by decide +kernel)
  obtain ⟨-, hmem⟩ := hread 0x10000 (by decide) (by decide +kernel) (by decide)
  have walked : translate s (oneEntryObj.entryAt s.myVf 0) 0x10000 permR false = .ok (_, 0x10000050000, false) :=
    translate_ok_iff.2 ⟨⟨0, 0x10000, 16, 0x100000500BB⟩, by decide +kernel, by decide +kernel, rfl, by decide +kernel⟩
  obtain ⟨t, ht, -, kept, -⟩ := hmem _ _ _ (by decide +kernel) walked (by decide +kernel) (by decide +kernel)
    (.inr (by decide +kernel))
  have parks : (match exec (.lea 3 0) s with
    | .next u => u.ctx.status
    | _ => .free) = .parked := by decide +kernel
  rw [ht] at parks
  have runs : s.ctx.status = .running := by decide +kernel
  exact absurd (parks.symm.trans (kept.status.trans runs)) (by decide)

/-- Refutes O2: its clause about the immediate forms holds of every pending set whose payloads fit the 22 bits of `hext`
(`immediate_writesScalar`), and fails where one is wider. -/
theorem not_immediateAndFieldResults : ¬ Obligations.ImmediateAndFieldResults := by
  unfold Obligations.ImmediateAndFieldResults
  exact fun h => not_immediateScalarResults h.1

end Sys2Proof.Machine
end

section
/-!
PROOFS. `trap` and `brk` (R268): each ends the region after itself and parks, or waits for a merge, and the record is the statement's
wherever no repetition body is open, which holds of `brk` and of every `trap` of a register. A `trap` of a number that no register has
may be admitted in an open body, and there O4 fails.
-/

namespace Sys2Proof.Machine

variable {s : State} {i : Ins}

/-! ## Parking a fault that names no repetition -/

/-- Merges of the executing activation are seen through its core, its context's number and its serial number only. -/
theorem merging_setCtx {v : Ctx} (h : v.id.act = s.ctx.id.act) : (s.setCtx v).merging = s.merging := by
  simp [State.merging, State.mergesInto, h]

@[simp] theorem merging_counted : (s.counted i).merging = s.merging := merging_setCtx (by simp)

@[simp] theorem merging_regionEndedAt (pc : Word) : (s.regionEndedAt pc).merging = s.merging := merging_setCtx rfl

/-- Outside a repetition body a fault parks with the record that R255 gives, and reports where R261 and R268 say. -/
theorem park_parksWith (w code detail : Nat) (f1 : Word) (a wr debug : Bool) (hm : s.merging = false) (hr : s.ctx.rep = none) :
    s.parksWith (s.park w { code := code, detail := detail, f1 := f1, addr := a, write := wr, debug := debug })
      w code detail f1 a wr debug := by
  obtain ⟨hctx, hcount, hhbm, hspad, hnet, hhost⟩ := park_parts (s := s) w
    { code := code, detail := detail, f1 := f1, addr := a, write := wr, debug := debug }
  have hnone : (if code = 0x01 then none else s.ctx.rep.map fun r => r.j) = none := by simp [hr]
  have hrecord := faultRecord_eq w s.ctx.pc (s.ctx.id.type == 254) code detail f1 a wr none
  have hdebug : ∀ f : FaultInfo, faultRecord w s.ctx.pc (s.ctx.id.type == 254) { f with debug := debug } =
      faultRecord w s.ctx.pc (s.ctx.id.type == 254) f := fun _ => rfl
  unfold State.parksWith
  simp only [hm, hnone, Bool.false_eq_true, if_false, hctx, parkedCtx, parkMsg, faultMsg, parkRef, wd, Nat.add_zero,
    (hdebug _).trans hrecord, true_and] at hnet ⊢
  exact ⟨hcount, hhbm, hspad, hnet, hhost⟩

/-! ## What a trap answers -/

theorem exec_trap (a : Nat) (s : State) : exec (.trap a) s =
    trapInto { word := wordTrap a, reads := [a], ends := true, once := true } 0 (fun s => s.sv a) (fun _ => false) s := rfl

theorem exec_brk (s : State) : exec .brk s =
    trapInto { word := wordBrk, ends := true, once := true } 1 (fun _ => 0) (fun s => s.myVf.debug) s := rfl

/-- Ending the region of a counted word before a pc leaves nothing of the count (R252). -/
theorem counted_endRegion (pc : Word) : (s.counted i).modCtx (fun x =>
    { ({ x with pc := pc, hints := {} }).endRegion [] with pc := s.ctx.pc }) = s.regionEndedAt pc := by
  simp [State.regionEndedAt, Ctx.endRegion, Ctx.counted, maskOf]

section
variable {detail : Nat} {f1 : State → Word} {debug : State → Bool} (h : s.admits i = true)
include h

/-- An admitted `trap` or `brk` waits while a merge of its activation is under way (R254). -/
theorem trapInto_merging (hm : s.merging = true) :
    trapInto i detail f1 debug s = .next (s.modCtx fun x => { x with wait := .other }) := by
  obtain ⟨hrun, -⟩ := State.admits_iff.1 h
  simp only [trapInto, hrun, prelude_admitted h, merging_counted, hm, if_true]
  rfl

/-- Otherwise it ends its region and parks (R268); its record names no repetition. -/
theorem trapInto_parks (hm : s.merging = false) : trapInto i detail f1 debug s =
    .next ((s.regionEndedAt (pc4 s)).park i.word { code := cTRAP, detail := detail, f1 := f1 s, debug := debug s }) := by
  obtain ⟨hrun, -⟩ := State.admits_iff.1 h
  simp only [trapInto, hrun, prelude_admitted h, merging_counted, hm, Bool.false_eq_true, if_true, if_false, counted_pc4,
    counted_ctx, countedCtx_fields, counted_endRegion]

/-- Outside a repetition body the parked state is the statement's. -/
theorem trapInto_parksWith (hr : s.ctx.rep = none) : ∃ t, trapInto i detail f1 debug s = .next t ∧
    if s.merging then t = s.modCtx fun x => { x with wait := .other }
    else (s.regionEndedAt (pc4 s)).parksWith t i.word 0x20 detail (f1 s) false false (debug s) := by
  cases hm : s.merging
  case true => exact ⟨_, trapInto_merging h hm, rfl⟩
  case false =>
    have hrep : (s.regionEndedAt (pc4 s)).ctx.rep = none := by simpa [State.regionEndedAt] using hr
    exact ⟨_, trapInto_parks h hm, park_parksWith _ _ _ _ _ _ _ (by simpa using hm) hrep⟩

end

/-! ## Repetition bodies -/

/-- A repetition body allows no word of major 0x00 (R355). -/
theorem rep_eq_none_of_allows {x : Ctx} {w : Nat} (hw : bits w 26 6 = 0) (h : repAllows x w = true) : x.rep = none := by
  unfold repAllows at h
  split at h
  · assumption
  · simp [hw] at h

/-- The register field of a well-formed `trap` stays below the major. -/
theorem major_wordTrap {a : Nat} (h : (Instr.trap a).wf = true) : bits (wordTrap a) 26 6 = 0 := by
  have ha : a < 32 := by
    have := firstIll_eq_none_iff.1 (eq_of_beq h) (ckScalar a) (by simp)
    simpa [ckScalar] using this
  simp only [bits, wordTrap]
  omega

/-- An admitted `trap` of a register ends its region and parks as R268 says. -/
theorem trap_parksWith {a : Nat} (hwf : (Instr.trap a).wf = true)
    (h : s.admits { word := wordTrap a, reads := [a], ends := true, once := true } = true) :
    ∃ t, exec (.trap a) s = .next t ∧ if s.merging then t = s.modCtx fun x => { x with wait := .other }
      else (s.regionEndedAt (pc4 s)).parksWith t (wordTrap a) 0x20 0 (s.ctx.sv a) false false := by
  obtain ⟨-, -, hallows, -⟩ := State.admits_iff.1 h
  exact exec_trap a s ▸ trapInto_parksWith h (rep_eq_none_of_allows (major_wordTrap hwf) hallows)

/-- An admitted `brk` ends its region and parks as R268 says. -/
theorem brk_parksWith (h : s.admits { word := wordBrk, ends := true, once := true } = true) :
    ∃ t, exec .brk s = .next t ∧ if s.merging then t = s.modCtx fun x => { x with wait := .other }
      else (s.regionEndedAt (pc4 s)).parksWith t wordBrk 0x20 1 0 false false s.myVf.debug := by
  obtain ⟨-, -, hallows, -⟩ := State.admits_iff.1 h
  exact exec_brk s ▸ trapInto_parksWith h (rep_eq_none_of_allows (by decide) hallows)

/-! ## A trap of no register in an open body -/

/-- An open vector body at index 1, before its first word. -/
def inVectorBody : State :=
  State.reset.boot.modCtx fun x => { x with rep := some ⟨2, 1, 1, 0, 0, none, []⟩ }

/-- A register number whose word has the major of a vector instruction, 0x28. -/
def vectorMajorRegister : Nat := 0x28 * 2 ^ 12

/-- Refutes O4: its first clause bounds no register number. The word of `trap 0x28000`, which is not well-formed and which no word
decodes to, has the major 0x28, so an open vector body admits it; the record that the model makes then names no repetition, and the
statement's names repetition 1. For the `trap` of a register, and for `brk`, the statement holds (`trap_parksWith`,
`brk_parksWith`). -/
theorem not_trapsPark : ¬ Obligations.TrapsPark := by
  unfold Obligations.TrapsPark
  rintro ⟨htrap, -⟩
  have admitted : inVectorBody.admits
      { word := wordTrap vectorMajorRegister, reads := [vectorMajorRegister], ends := true, once := true } = true := by
    decide +kernel
  have hm : inVectorBody.merging = false := by decide +kernel
  obtain ⟨t, ht, claimed⟩ := htrap vectorMajorRegister inVectorBody admitted
  rw [exec_trap] at ht
  have parked := Host.Outcome.next.inj (ht.symm.trans (trapInto_parks admitted hm))
  have modelled : t.ctx.sp.fault.f2 = 0 := by rw [parked, (park_parts _ _).1]; rfl
  simp only [hm, State.parksWith, merging_regionEndedAt, Bool.false_eq_true, if_false] at claimed
  obtain ⟨-, hsp, -⟩ := claimed
  have named : t.ctx.sp.fault.f2 = BitVec.ofNat 64 (2 ^ 40) := by
    rw [hsp]; simp [State.regionEndedAt, inVectorBody]
  exact absurd (modelled.symm.trans named) (by decide)

end Sys2Proof.Machine
end
